-- ==== Sys2Proof/Word.lean ====
section
/-! DEFINITION. The word types of the machine (00 R2) and the field of a number.

A value the spec treats as bits is a bit vector. Field extraction from an encoded word or a record is arithmetic on the
word's number, bit 0 being the least significant bit (00 R2).
-/

set_option Elab.async false

namespace Sys2Proof

/-- A byte of memory (00 R2). -/
abbrev Byte := BitVec 8

/-- A 32-bit value: a predicate file, a status word, a row of eight stitches (03 R57). -/
abbrev Word32 := BitVec 32

/-- A 64-bit value: a uniform register, an instruction word, a control register (03 R73, 07 R145). -/
abbrev Word64 := BitVec 64

/-- A set of lanes of a gang. A gang has up to 64 lanes (26 R408), and bit `l` stands for lane `l`. -/
abbrev Mask := BitVec 64

/-- The number held in bits `[lo + n - 1 : lo]` of `w` (00 R2). -/
def fld (w lo n : Nat) : Nat := w / 2 ^ lo % 2 ^ n

/-- Bit `i` of `w` (00 R2). -/
def bit (w i : Nat) : Bool := fld w i 1 == 1

/-- `Bool` as the number a one-bit field holds. -/
def b2n (b : Bool) : Nat := if b then 1 else 0

/-- ExtS of a `w`-bit number (05 R102). -/
def extS (x w : Nat) : Int :=
  let y := x % 2 ^ w
  if y < 2 ^ (w - 1) then (y : Int) else (y : Int) - 2 ^ w

/-- ExtZ of a `w`-bit number (05 R102). -/
def extZ (x w : Nat) : Int := (x % 2 ^ w : Nat)

/-- The `w`-bit two's complement pattern of an integer, as a number (05 R102). -/
def pat (v : Int) (w : Nat) : Nat := (v % (2 ^ w : Nat)).toNat

/-- SatS (05 R102). -/
def satS (v : Int) (w : Nat) : Int := min (max v (-(2 ^ (w - 1) : Nat))) ((2 ^ (w - 1) : Nat) - 1)

/-- SatN (05 R102). -/
def satN (v : Int) (w : Nat) : Int := min (max v 0) ((2 ^ w : Nat) - 1)

end Sys2Proof
end

