-- ==== Sys2Proof/Syntax.lean ====
section
/-! DEFINITION. The steps of the machine: one constructor of `Instr` per row of the spec's table of operations and events.

A row that is an instruction word carries its decoded fields (07 R145 to R158). A row that is an event of a part of the
machine (95 "What each step holds") carries the names of the objects it concerns, or, for an event that comes from
outside (host, panel firmware, a peer), what the outside supplies.
-/

set_option Elab.async false

namespace Sys2Proof

/-- The width codes of a stitch operand (03 R55). -/
inductive WCode
  | w1 | w2 | w3 | w4 | w6 | w8 | w16 | w32
  deriving DecidableEq, Repr

/-- Stitches of a width code (03 R55). -/
def WCode.stitches : WCode → Nat
  | .w1 => 1 | .w2 => 2 | .w3 => 3 | .w4 => 4 | .w6 => 6 | .w8 => 8 | .w16 => 16 | .w32 => 32

/-- Bits of a width code (03 R55). -/
def WCode.bits (c : WCode) : Nat := 4 * c.stitches

/-- A stitch operand: the start stitch and the width code (03 R55). -/
structure Opnd where
  start : Nat
  w : WCode
  deriving DecidableEq, Repr

/-- A predicate source, possibly negated (07 R146). -/
structure PSrc where
  neg : Bool
  n : Nat
  deriving DecidableEq, Repr

/-- The common fields of a body word: the switch marker and the guard predicate (07 R145). -/
structure Hd where
  sw : Bool
  neg : Bool
  pg : Nat
  deriving DecidableEq, Repr

/-- The types of the TY field (07 R152). `none` is code 0x00. -/
inductive Ty
  | none | n4 | i4 | n8 | i8 | n12 | i12 | n16 | i16 | n24 | i24 | n32 | i32 | n64 | i64
  | f16 | bf16 | f32 | f64 | e4m3 | e5m2 | e8m0
  deriving DecidableEq, Repr

/-- Rounding modes (05 R106). -/
inductive Rm
  | rne | rtz | rup | rdn
  deriving DecidableEq, Repr

/-- Scopes (00 R7). -/
inductive Scope
  | g | t | c | d | y
  deriving DecidableEq, Repr

/-- The ordering class ORD (07 R153). -/
inductive MOrd
  | none | acq | rel | ar
  deriving DecidableEq, Repr

/-- Policy select POL (07 R153). -/
inductive Pol
  | record | keep | stream | bypass
  deriving DecidableEq, Repr

/-- Integer conditions CND (07 R153). -/
inductive Cnd
  | eq | ne | lt | le | gt | ge
  deriving DecidableEq, Repr

/-- Float conditions FCND (07 R153). -/
inductive FCnd
  | eq | ne | lt | le | gt | ge | un | num
  deriving DecidableEq, Repr

/-- Atomic operations AOP (07 R153, 10 R224). -/
inductive Aop
  | add | min | max | and | or | xor | inc | dec | fadd | fmin | fmax | exch | cas
  deriving DecidableEq, Repr

/-- The Hadamard class H (07 R153). -/
inductive Had
  | none | h16 | h32
  deriving DecidableEq, Repr

/-- Claim classes (11 R231). -/
inductive Cls
  | fix | neg | loan
  deriving DecidableEq, Repr

/-- A barrier field BR (07 R147). -/
inductive Bar
  | team (n : Nat)
  | cluster (n : Nat)
  | grid (n : Nat)
  | none
  deriving DecidableEq, Repr

/-- The source of MOV: a stitch operand, or a special register by number (08 R175). -/
inductive MovSrc
  | stitch (a : Opnd)
  | special (n : Nat)
  deriving DecidableEq, Repr

/-- The second operand of KADD to KSHR and of KCMP: a uniform register or an immediate (08 R185, R186). -/
inductive KSrc
  | reg (k : Nat)
  | imm (v : Int)
  deriving DecidableEq, Repr

/-- VOTE forms with their destination (08 R180). -/
inductive VoteForm
  | all (p : Nat)
  | any (p : Nat)
  | uni (p : Nat)
  | ballot (d : Opnd)
  deriving DecidableEq, Repr

/-- SHFL forms (08 R181). -/
inductive ShflForm
  | idx | up | down | xor
  deriving DecidableEq, Repr

/-- What YIELD waits for (06 R143, 07 R150). -/
inductive YieldOn
  | batch (k : Nat)
  | barrier (b : Bar) (ph : Bool)
  deriving DecidableEq, Repr

/-- Policy of a plain store, or the scope of a releasing one (07 R156). -/
inductive StMode
  | plain (pol : Pol)
  | rel (sc : Scope)
  deriving DecidableEq, Repr

/-- The control registers (18 R311, 24 R390) other than those whose writes are rows of their own. -/
inductive Cr
  | status | tcause | tvec | tframe | sbase | slim | svec | svcerr | clock | timer | govb | rflag | ready
  | dbg | bp0 | bp1 | bp2 | bp3 | dbgobj | stopped | resume
  deriving DecidableEq, Repr

/-- A TRACE header (07 R149). -/
structure Header where
  guarded : Bool
  len : Nat
  stop : Bool
  ord : Nat
  grdn : Nat
  bufn : Nat
  wset : Nat
  join : Bool
  anch : Bool
  deriving DecidableEq, Repr

structure GrdOp where
  hd : Hd
  p : PSrc
  off : Int
  deriving DecidableEq, Repr

structure NopOp where
  hd : Hd
  deriving DecidableEq, Repr

/-- A terminator with no operand; `s` is bit 63, which the core ignores there (07 R145). -/
structure TermOp where
  s : Bool
  deriving DecidableEq, Repr

structure JmpOp where
  s : Bool
  off : Int
  deriving DecidableEq, Repr

structure JselOp where
  s : Bool
  p : PSrc
  t : Int
  f : Int
  j : Int
  deriving DecidableEq, Repr

structure TabOp where
  s : Bool
  slot : Nat
  idx : Opnd
  deriving DecidableEq, Repr

structure CallOp where
  s : Bool
  off : Int
  link : Opnd
  deriving DecidableEq, Repr

structure RetOp where
  s : Bool
  ra : Opnd
  deriving DecidableEq, Repr

structure LoopOp where
  s : Bool
  k : Nat
  off : Int
  deriving DecidableEq, Repr

structure YieldOp where
  s : Bool
  off : Int
  on : YieldOn
  deriving DecidableEq, Repr

structure BarwOp where
  s : Bool
  bar : Bar
  deriving DecidableEq, Repr

/-- Three stitch operands at an integer type (07 R148 F3, R154). -/
structure IntOp where
  hd : Hd
  d : Opnd
  a : Opnd
  b : Opnd
  ty : Ty
  sat : Bool
  deriving DecidableEq, Repr

/-- Two stitch operands at an integer type; B is zero (08 R171). -/
structure IntUn where
  hd : Hd
  d : Opnd
  a : Opnd
  ty : Ty
  sat : Bool
  deriving DecidableEq, Repr

/-- ADDC and SUBB: OWN names p(28 + c) (08 R173). -/
structure CarryOp where
  hd : Hd
  d : Opnd
  a : Opnd
  b : Opnd
  ty : Ty
  c : Nat
  deriving DecidableEq, Repr

structure MovOp where
  hd : Hd
  d : Opnd
  src : MovSrc
  ty : Ty
  sat : Bool
  deriving DecidableEq, Repr

structure CmpOp where
  hd : Hd
  p : Nat
  a : Opnd
  b : Opnd
  ty : Ty
  cnd : Cnd
  deriving DecidableEq, Repr

/-- FI12 rows: IMM12 as the row reads it (08 R177). -/
structure ImmOp where
  hd : Hd
  d : Opnd
  a : Opnd
  imm : Int
  ty : Ty
  sat : Bool
  deriving DecidableEq, Repr

structure CmpIOp where
  hd : Hd
  p : Nat
  a : Opnd
  imm : Int
  ty : Ty
  cnd : Cnd
  deriving DecidableEq, Repr

/-- FI20 rows: IMM20 as its 20-bit number (08 R178). -/
structure MovIOp where
  hd : Hd
  d : Opnd
  imm : Nat
  ty : Ty
  sat : Bool
  deriving DecidableEq, Repr

structure PLogicOp where
  hd : Hd
  p : Nat
  a : PSrc
  b : PSrc
  deriving DecidableEq, Repr

structure PNotOp where
  hd : Hd
  p : Nat
  a : PSrc
  deriving DecidableEq, Repr

structure PSetOp where
  hd : Hd
  a : Opnd
  m : Opnd
  deriving DecidableEq, Repr

structure PGetOp where
  hd : Hd
  d : Opnd
  deriving DecidableEq, Repr

structure VoteOp where
  hd : Hd
  form : VoteForm
  a : PSrc
  deriving DecidableEq, Repr

structure ShflOp where
  hd : Hd
  form : ShflForm
  d : Opnd
  a : Opnd
  b : Opnd
  deriving DecidableEq, Repr

structure ElectOp where
  hd : Hd
  p : Nat
  a : PSrc
  deriving DecidableEq, Repr

structure MovsOp where
  hd : Hd
  d : Opnd
  sr : Nat
  clr : Bool
  deriving DecidableEq, Repr

/-- KADD to KSHR; PG is zero there (08 R184). -/
structure KBinOp where
  sw : Bool
  kd : Nat
  ka : Nat
  x : KSrc
  ty : Ty
  sat : Bool
  deriving DecidableEq, Repr

/-- KMOVI and KMOVHI: IMM21 as its number (08 R185). -/
structure KMovOp where
  sw : Bool
  kd : Nat
  imm : Nat
  ty : Ty
  sat : Bool
  deriving DecidableEq, Repr

structure KFromOp where
  hd : Hd
  kd : Nat
  a : Opnd
  ty : Ty
  sat : Bool
  deriving DecidableEq, Repr

structure KToOp where
  hd : Hd
  d : Opnd
  ka : Nat
  ty : Ty
  sat : Bool
  deriving DecidableEq, Repr

structure KCmpOp where
  hd : Hd
  p : Nat
  ka : Nat
  x : KSrc
  ty : Ty
  cnd : Cnd
  deriving DecidableEq, Repr

/-- FADD to FFMA, FDIV, FSCALE (09 R189). -/
structure FOp where
  hd : Hd
  d : Opnd
  a : Opnd
  b : Opnd
  ty : Ty
  rm : Rm
  ftz : Bool
  deriving DecidableEq, Repr

/-- FRND, FRCP, FRSQ, FSQRT (09 R189). -/
structure FUnOp where
  hd : Hd
  d : Opnd
  a : Opnd
  ty : Ty
  rm : Rm
  ftz : Bool
  deriving DecidableEq, Repr

/-- FMIN, FMAX: RM is zero (09 R189). -/
structure FMmOp where
  hd : Hd
  d : Opnd
  a : Opnd
  b : Opnd
  ty : Ty
  ftz : Bool
  deriving DecidableEq, Repr

structure FCmpOp where
  hd : Hd
  p : Nat
  a : Opnd
  b : Opnd
  ty : Ty
  cnd : FCnd
  deriving DecidableEq, Repr

structure FClassOp where
  hd : Hd
  d : Opnd
  a : Opnd
  ty : Ty
  deriving DecidableEq, Repr

/-- FADD2, FMUL2, FFMA2, FDOT4: FTZ is zero (09 R189). -/
structure FPkOp where
  hd : Hd
  d : Opnd
  a : Opnd
  b : Opnd
  ty : Ty
  rm : Rm
  deriving DecidableEq, Repr

/-- FEXP2, FLOG2, FSIN, FCOS: .f32 and RM zero (09 R189). -/
structure FTransOp where
  hd : Hd
  d : Opnd
  a : Opnd
  ftz : Bool
  deriving DecidableEq, Repr

/-- CVT and CVTI (09 R196). -/
structure CvtOp where
  hd : Hd
  d : Opnd
  a : Opnd
  dst : Ty
  src : Ty
  rm : Rm
  sat : Bool
  deriving DecidableEq, Repr

/-- QBLK: `bx4` is BF, `b16` is BL (09 R200). -/
structure QblkOp where
  hd : Hd
  d : Opnd
  sc : Opnd
  a : Opnd
  h : Had
  bx4 : Bool
  b16 : Bool
  deriving DecidableEq, Repr

/-- DQBLK and REQ: B is the scale operand (09 R201, R202). -/
structure DqOp where
  hd : Hd
  d : Opnd
  a : Opnd
  b : Opnd
  bx4 : Bool
  deriving DecidableEq, Repr

structure HadOp where
  hd : Hd
  d : Opnd
  a : Opnd
  h32 : Bool
  deriving DecidableEq, Repr

/-- LD, LDX (10 R211). -/
structure LdOp where
  hd : Hd
  v : Opnd
  q : Nat
  x : Opnd
  imm : Int
  ty : Ty
  pol : Pol
  deriving DecidableEq, Repr

/-- ST, STX (10 R211). -/
structure StOp where
  hd : Hd
  v : Opnd
  q : Nat
  x : Opnd
  imm : Int
  ty : Ty
  mode : StMode
  deriving DecidableEq, Repr

/-- LDA, LDA with .rmt, STL (10 R219). -/
structure ScMemOp where
  hd : Hd
  v : Opnd
  q : Nat
  x : Opnd
  imm : Int
  ty : Ty
  sc : Scope
  deriving DecidableEq, Repr

structure RecldOp where
  hd : Hd
  q : Nat
  x : Opnd
  deriving DecidableEq, Repr

structure RecinvOp where
  hd : Hd
  q : Nat
  deriving DecidableEq, Repr

/-- PREF, CWB (10 R222). -/
structure PrefOp where
  hd : Hd
  q : Nat
  x : Opnd
  imm : Int
  ty : Ty
  deriving DecidableEq, Repr

/-- The Barord forms (10 R214). -/
structure BarordOp where
  hd : Hd
  v : Opnd
  a : Opnd
  kb : Nat
  imm : Int
  ty : Ty
  vec : Bool
  pol : Pol
  deriving DecidableEq, Repr

/-- LDS, STS: POL is zero (10 R214). -/
structure SpadOp where
  hd : Hd
  v : Opnd
  a : Opnd
  kb : Nat
  imm : Int
  ty : Ty
  vec : Bool
  deriving DecidableEq, Repr

/-- ATOM: POL is 0 or 3, recorded by `bypass` (10 R223). -/
structure AtomOp where
  hd : Hd
  aop : Aop
  v : Opnd
  q : Nat
  x : Opnd
  ty : Ty
  sc : Scope
  ord : MOrd
  bypass : Bool
  deriving DecidableEq, Repr

/-- RED: `rel` is ORD, `ordm` the .ord bit (10 R223). -/
structure RedOp where
  hd : Hd
  aop : Aop
  v : Opnd
  q : Nat
  x : Opnd
  ty : Ty
  sc : Scope
  rel : Bool
  ordm : Bool
  bypass : Bool
  deriving DecidableEq, Repr

/-- ATOMS, REDS (10 R223). -/
structure AtomsOp where
  hd : Hd
  aop : Aop
  v : Opnd
  a : Opnd
  kb : Nat
  imm : Int
  ty : Ty
  deriving DecidableEq, Repr

structure FenceOp where
  hd : Hd
  sc : Scope
  ord : MOrd
  deriving DecidableEq, Repr

/-- CHARGE: `shape` holds SHAPE (12 R253, R265). -/
structure ChargeOp where
  hd : Hd
  place : Nat
  fmt : Nat
  kq : Nat
  bar : Bar
  tw : Bool
  n1024 : Bool
  deriving DecidableEq, Repr

structure MmaOp where
  hd : Hd
  cmd : Nat
  fmt : Nat
  kq : Nat
  bar : Bar
  tw : Bool
  deriving DecidableEq, Repr

structure AcczOp where
  hd : Hd
  kq : Nat
  tw : Bool
  deriving DecidableEq, Repr

structure AccldOp where
  hd : Hd
  place : Nat
  kq : Nat
  deriving DecidableEq, Repr

structure AccstOp where
  hd : Hd
  place : Nat
  kq : Nat
  rm : Rm
  deriving DecidableEq, Repr

structure AccqOp where
  hd : Hd
  place : Nat
  sc : Nat
  kq : Nat
  bx4 : Bool
  b16 : Bool
  deriving DecidableEq, Repr

structure MsyncOp where
  hd : Hd
  d : Opnd
  kq : Nat
  tw : Bool
  deriving DecidableEq, Repr

/-- CPY and CPYG (13 R278). -/
structure CpyOp where
  hd : Hd
  kl : Nat
  kbox : Nat
  ksp : Nat
  bar : Bar
  deriving DecidableEq, Repr

structure CpyrdOp where
  hd : Hd
  kl : Nat
  kbox : Nat
  ksp : Nat
  bar : Bar
  aop : Aop
  ty : Ty
  deriving DecidableEq, Repr

/-- A word whose only operand is a stitch destination (CPYX, DRAIN). -/
structure DstOp where
  hd : Hd
  d : Opnd
  deriving DecidableEq, Repr

/-- A word whose only operand is a uniform register (BSEAL, BWAIT, RELEASE). -/
structure KOp where
  hd : Hd
  k : Nat
  deriving DecidableEq, Repr

structure BtestOp where
  hd : Hd
  p : Nat
  k : Nat
  deriving DecidableEq, Repr

/-- BARINIT and BAREXP: a team barrier and a uniform register (13 R278). -/
structure BarKOp where
  hd : Hd
  b : Nat
  k : Nat
  deriving DecidableEq, Repr

/-- BARARV, CBAR, GBAR, GSYNC: a barrier by its index in the class the word fixes (13 R278). -/
structure BarOp where
  hd : Hd
  n : Nat
  deriving DecidableEq, Repr

structure BartstOp where
  hd : Hd
  p : Nat
  bar : Bar
  ph : Bool
  deriving DecidableEq, Repr

structure WaitmOp where
  hd : Hd
  ka : Nat
  kv : Nat
  deriving DecidableEq, Repr

structure LnchOp where
  hd : Hd
  d : Opnd
  kblk : Nat
  kq : Nat
  deriving DecidableEq, Repr

structure SpawnOp where
  hd : Hd
  ke : Nat
  d : Opnd
  kn : Nat
  deriving DecidableEq, Repr

structure ClaimOp where
  hd : Hd
  d : Opnd
  p : Nat
  ksum : Nat
  ktile : Nat
  cls : Cls
  nb : Bool
  deriving DecidableEq, Repr

structure CoregOp where
  hd : Hd
  kentry : Nat
  kbound : Nat
  deriving DecidableEq, Repr

structure TileqOp where
  hd : Hd
  d : Opnd
  ksum : Nat
  ktile : Nat
  deriving DecidableEq, Repr

structure CosummOp where
  s : Bool
  k : Nat
  deriving DecidableEq, Repr

structure TrapiOp where
  hd : Hd
  code : Nat
  deriving DecidableEq, Repr

structure CtlrOp where
  hd : Hd
  d : Opnd
  cr : Cr
  deriving DecidableEq, Repr

structure CtlwOp where
  hd : Hd
  cr : Cr
  k : Nat
  deriving DecidableEq, Repr

/-- TLBI and ICINV: `.pg` or `.all` (18 R329, R330). -/
structure InvOp where
  hd : Hd
  k : Nat
  all : Bool
  deriving DecidableEq, Repr

/-- SAMPLE, CTXSV, CTXLD: a stitch destination and a uniform register (18 R310). -/
structure DkOp where
  hd : Hd
  d : Opnd
  k : Nat
  deriving DecidableEq, Repr

structure MeterrOp where
  hd : Hd
  d : Opnd
  k : Nat
  n : Nat
  deriving DecidableEq, Repr

/-- A trace slot of a gang: the gang's place (64 x core + gang slot; gang slot 63 is the service gang) and A or B. -/
structure SlotRef where
  gang : Nat
  b : Bool
  deriving DecidableEq, Repr

/-- A bracketing of in-flight reduction contributions into one value (10 R227): leaves name contributions by number. -/
inductive RedTree
  | leaf (id : Nat)
  | node (l r : RedTree)
  deriving DecidableEq, Repr

/-- A barrier register by owner: a team, a cluster or a launch (13 R274). -/
inductive BarId
  | team (t : Nat) (n : Nat)
  | cluster (c : Nat) (n : Nat)
  | grid (l : Nat) (n : Nat)
  deriving DecidableEq, Repr

/-- The kinds of access a translation serves (20 R354). -/
inductive Acc
  | read | write | readWrite | fetch
  deriving DecidableEq, Repr

/-- A function that bring-up makes ready (27 R421). -/
inductive Fn
  | mgmt | cxl
  | purl (n : Nat)
  | lpgroup (n : Nat)
  | twin (n : Nat)
  | vlayer (twin layer : Nat)
  deriving DecidableEq, Repr

/-- Who asks for a pre-emption (21 "Pre-emption requests"). -/
inductive PreSrc
  | slice | ctxsv | privileged
  deriving DecidableEq, Repr

/-- Why a tile is stripped by force (11 R246, R247): the cause the fault will report (21 R361). -/
inductive StripWhy
  | overrun | trap | refusal | noReg | privileged
  deriving DecidableEq, Repr

/-- One access to memory from outside (27 R413, R416). -/
inductive ExtReq
  | read (addr len : Nat)
  | write (addr : Nat) (bytes : List (BitVec 8))
  | atomic (aop : Aop) (ty : Ty) (addr : Nat) (x cmp : Nat)
  | red (aop : Aop) (ty : Ty) (addr : Nat) (x : Nat)
  deriving DecidableEq, Repr

/-- The steps of the machine, in the order of the spec's table but for the three rows without fields, which stand last. -/
inductive Instr
  /-- TRACE (R162): A trace header issues in one cycle at a transfer of control, applying the header's class, length and limit fields. -/
  | trace (x : Header)
  /-- GRD (R164): Each participating lane evaluates a predicate; lanes where it is false fail, with the named trace as their alternative. -/
  | grd (x : GrdOp)
  /-- NOP (R163): Does nothing, but can end a switch group. -/
  | nop (x : NopOp)
  /-- NEXT (R170): Terminator that continues at the trace which follows. -/
  | next (x : TermOp)
  /-- JMP (R170): Terminator that continues at a PC-relative target. -/
  | jmp (x : JmpOp)
  /-- JSEL (R166): Two-word terminator that splits the passing lanes by a predicate into T and F groups, with join J. -/
  | jsel (x : JselOp)
  /-- JTAB (R167): Terminator that groups lanes by the target read through a global offset table slot, indexed per lane. -/
  | jtab (x : TabOp)
  /-- CALL (R168): Terminator that writes the return address into a link operand and continues at the target. -/
  | call (x : CallOp)
  /-- CALLT (R168): Table call through a global offset table slot; writes the return address over the index stitches. -/
  | callt (x : TabOp)
  /-- RET (R168): Terminator that forms one group per distinct return address read from each lane's operand. -/
  | ret (x : RetOp)
  /-- LOOP (R169): Decrements a uniform counter once for the gang and branches back while it is non-zero. -/
  | loop (x : LoopOp)
  /-- EXIT (R94): Finishes the passing lanes and removes them from every join token they belong to. -/
  | exit (x : TermOp)
  /-- YIELD (R143): Terminator after which the slot waits for a copy batch to complete or for a barrier phase to change. -/
  | yield (x : YieldOp)
  /-- BARW (R279): Terminator that arrives at a barrier at resolution; the slot then waits for the phase to flip. -/
  | barw (x : BarwOp)
  /-- ADD (R172): Integer addition, with optional saturation. -/
  | add (x : IntOp)
  /-- SUB (R172): Integer subtraction. -/
  | sub (x : IntOp)
  /-- ADDC (R173): Addition with a carry predicate, which is then written back as the unsigned carry. -/
  | addc (x : CarryOp)
  /-- SUBB (R173): Subtraction with a borrow predicate, which is then written back as the unsigned borrow. -/
  | subb (x : CarryOp)
  /-- NEG (R172): Integer negation. -/
  | neg (x : IntUn)
  /-- ABS (R172): Integer absolute value. -/
  | abs (x : IntUn)
  /-- MIN (R172): The smaller of two integers. -/
  | min (x : IntOp)
  /-- MAX (R172): The greater of two integers. -/
  | max (x : IntOp)
  /-- CLAMP (R172): Clamps D between a and b. -/
  | clamp (x : IntOp)
  /-- MUL (R172): Integer multiplication. -/
  | mul (x : IntOp)
  /-- MULHI (R172): High half of the double-width integer product. -/
  | mulhi (x : IntOp)
  /-- MAD (R172): Integer multiply-add, with D as the addend. -/
  | mad (x : IntOp)
  /-- SAD (R172): Absolute difference added to D. -/
  | sad (x : IntOp)
  /-- AND (R172): Bitwise AND. -/
  | and (x : IntOp)
  /-- OR (R172): Bitwise OR. -/
  | or (x : IntOp)
  /-- XOR (R172): Bitwise XOR. -/
  | xor (x : IntOp)
  /-- ANDN (R172): a AND NOT b. -/
  | andn (x : IntOp)
  /-- ORN (R172): a OR NOT b. -/
  | orn (x : IntOp)
  /-- SHL (R174): Shift left by a count read from B. -/
  | shl (x : IntOp)
  /-- SHR (R174): Logical shift right. -/
  | shr (x : IntOp)
  /-- SHRA (R174): Arithmetic shift right. -/
  | shra (x : IntOp)
  /-- ROTL (R174): Rotate left. -/
  | rotl (x : IntOp)
  /-- FSHL (R174): Funnel shift left of D filled from the top of a. -/
  | fshl (x : IntOp)
  /-- POPC (R172): Population count. -/
  | popc (x : IntUn)
  /-- CLZ (R172): Count of leading zero bits. -/
  | clz (x : IntUn)
  /-- CTZ (R172): Count of trailing zero bits. -/
  | ctz (x : IntUn)
  /-- BREV (R172): Bit reversal. -/
  | brev (x : IntUn)
  /-- BFX (R174): Bit-field extract. -/
  | bfx (x : IntOp)
  /-- BFI (R174): Bit-field insert into D. -/
  | bfi (x : IntOp)
  /-- MOV (R175): Copies a stitch operand or a special register into D. -/
  | mov (x : MovOp)
  /-- SEL (R175): Selects a or b by whether D is non-zero. -/
  | sel (x : IntOp)
  /-- XT (R175): Extends or saturates a at its own width into D. -/
  | xt (x : IntUn)
  /-- CMP (R176): Integer comparison that writes a predicate. -/
  | cmp (x : CmpOp)
  /-- ADDI (R177): Addition of a signed 12-bit immediate. -/
  | addi (x : ImmOp)
  /-- ANDI (R177): AND with an immediate. -/
  | andi (x : ImmOp)
  /-- ORI (R177): OR with an immediate. -/
  | ori (x : ImmOp)
  /-- XORI (R177): XOR with an immediate. -/
  | xori (x : ImmOp)
  /-- SHLI (R177): Shift left by an immediate. -/
  | shli (x : ImmOp)
  /-- SHRI (R177): Logical shift right by an immediate. -/
  | shri (x : ImmOp)
  /-- SHRAI (R177): Arithmetic shift right by an immediate. -/
  | shrai (x : ImmOp)
  /-- CMPI (R176): Comparison with an immediate that writes a predicate. -/
  | cmpi (x : CmpIOp)
  /-- MOVI (R178): Moves an extended 20-bit immediate into D. -/
  | movi (x : MovIOp)
  /-- MOVHI (R178): Moves a 20-bit immediate shifted left by 12. -/
  | movhi (x : MovIOp)
  /-- MULI (R177): Multiplication by an immediate. -/
  | muli (x : ImmOp)
  /-- PAND (R179): Predicate AND. -/
  | pand (x : PLogicOp)
  /-- POR (R179): Predicate OR. -/
  | por (x : PLogicOp)
  /-- PXOR (R179): Predicate XOR. -/
  | pxor (x : PLogicOp)
  /-- PNOT (R179): Predicate NOT. -/
  | pnot (x : PNotOp)
  /-- PSET (R179): Sets predicates p1 to p31 from stitch bits under a mask. -/
  | pset (x : PSetOp)
  /-- PGET (R179): Reads all 32 predicates into a stitch operand. -/
  | pget (x : PGetOp)
  /-- VOTE (R180): Cross-lane vote (all, any, uni or ballot) over the participating lanes of a slot. -/
  | vote (x : VoteOp)
  /-- SHFL (R181): Cross-lane shuffle from a source lane of the same slot. -/
  | shfl (x : ShflOp)
  /-- ELECT (R182): Sets a predicate true in the lowest participating lane where a source predicate holds. -/
  | elect (x : ElectOp)
  /-- MOVS (R183): Reads a special register, and with .clr returns and clears %fpsr as one action. -/
  | movs (x : MovsOp)
  /-- KADD (R185): Uniform addition. -/
  | kadd (x : KBinOp)
  /-- KSUB (R185): Uniform subtraction. -/
  | ksub (x : KBinOp)
  /-- KMUL (R185): Uniform multiplication. -/
  | kmul (x : KBinOp)
  /-- KAND (R185): Uniform AND. -/
  | kand (x : KBinOp)
  /-- KOR (R185): Uniform OR. -/
  | kor (x : KBinOp)
  /-- KSHL (R185): Uniform shift left. -/
  | kshl (x : KBinOp)
  /-- KSHR (R185): Uniform shift right, arithmetic or logical by the type. -/
  | kshr (x : KBinOp)
  /-- KMOVI (R185): Moves a 21-bit immediate into a uniform register. -/
  | kmovi (x : KMovOp)
  /-- KMOVHI (R185): Moves a 20-bit immediate shifted left by 12 into a uniform register. -/
  | kmovhi (x : KMovOp)
  /-- KFROM (R186): Copies a stitch value of the lowest participating lane into a uniform register. -/
  | kfrom (x : KFromOp)
  /-- KTO (R186): Writes a uniform register into every participating lane. -/
  | kto (x : KToOp)
  /-- KCMP (R186): Uniform comparison that writes a predicate to the participating lanes. -/
  | kcmp (x : KCmpOp)
  /-- FADD (R190): Floating-point addition. -/
  | fadd (x : FOp)
  /-- FSUB (R190): Floating-point subtraction. -/
  | fsub (x : FOp)
  /-- FMUL (R190): Floating-point multiplication. -/
  | fmul (x : FOp)
  /-- FFMA (R190): Fused multiply-add with D as the addend. -/
  | ffma (x : FOp)
  /-- FMIN (R191): Floating-point minimum. -/
  | fmin (x : FMmOp)
  /-- FMAX (R191): Floating-point maximum. -/
  | fmax (x : FMmOp)
  /-- FCMP (R191): Floating-point comparison that writes a predicate. -/
  | fcmp (x : FCmpOp)
  /-- FRND (R191): Rounds to an integral value by the rounding mode. -/
  | frnd (x : FUnOp)
  /-- FCLASS (R191): Writes a 10-bit class mask of the operand. -/
  | fclass (x : FClassOp)
  /-- FADD2 (R192): Packed addition of two 16-bit elements. -/
  | fadd2 (x : FPkOp)
  /-- FMUL2 (R192): Packed multiplication of two 16-bit elements. -/
  | fmul2 (x : FPkOp)
  /-- FFMA2 (R192): Packed fused multiply-add of two 16-bit elements. -/
  | ffma2 (x : FPkOp)
  /-- FDOT4 (R193): FP8 four-way dot product accumulated into an f32 with one rounding. -/
  | fdot4 (x : FPkOp)
  /-- FRCP (R194): Correctly rounded reciprocal, long-latency. -/
  | frcp (x : FUnOp)
  /-- FRSQ (R194): Correctly rounded reciprocal square root. -/
  | frsq (x : FUnOp)
  /-- FSQRT (R194): Correctly rounded square root. -/
  | fsqrt (x : FUnOp)
  /-- FDIV (R194): Correctly rounded division. -/
  | fdiv (x : FOp)
  /-- FEXP2 (R194): Faithfully rounded 2^a. -/
  | fexp2 (x : FTransOp)
  /-- FLOG2 (R194): Faithfully rounded log2 a. -/
  | flog2 (x : FTransOp)
  /-- FSIN (R194): Faithfully rounded sin(pi a). -/
  | fsin (x : FTransOp)
  /-- FCOS (R194): Faithfully rounded cos(pi a). -/
  | fcos (x : FTransOp)
  /-- CVT (R196): Long-latency conversion between any two connected types. -/
  | cvt (x : CvtOp)
  /-- CVTI (R197): Fixed-latency conversion between an integer type and f16, bf16 or f32. -/
  | cvti (x : CvtOp)
  /-- FSCALE (R198): Multiplies by 2^n with a single rounding. -/
  | fscale (x : FOp)
  /-- QBLK (R200): Quantises blocks of lanes to BX8 or BX4 with a shared scale byte, optionally after a Hadamard transform. -/
  | qblk (x : QblkOp)
  /-- DQBLK (R201): Dequantises one block element to f32. -/
  | dqblk (x : DqOp)
  /-- REQ (R202): Moves a block element to a new scale byte. -/
  | req (x : DqOp)
  /-- HAD (R203): Hadamard transform across groups of lanes. -/
  | had (x : HadOp)
  /-- LD (R212): Native load of one element through a record slot, with conversion. -/
  | ld (x : LdOp)
  /-- ST (R212): Native store of one element through a record slot, optionally with release ordering. -/
  | st (x : StOp)
  /-- LDX (R212): Native load of several consecutive elements. -/
  | ldx (x : LdOp)
  /-- STX (R212): Native store of several consecutive elements, optionally with release ordering. -/
  | stx (x : StOp)
  /-- LDA (R219): Load with acquire ordering at a scope. -/
  | lda (x : ScMemOp)
  /-- LDA_RMT (R220): Acquire load that recalls a remote local owner of the line before being served. -/
  | ldaRmt (x : ScMemOp)
  /-- STL (R219): Store with release ordering at a scope. -/
  | stl (x : ScMemOp)
  /-- RECLD (R209): Fetches a 32-byte buffer record into a record slot, which stays pending until it lands. -/
  | recld (x : RecldOp)
  /-- RECORD_LANDING (R138): A RECLD copy arrives, is checked, and the slot becomes valid, or becomes invalid with a record fault. -/
  | recordLanding (team q : Nat)
  /-- RECINV (R210): Invalidates a record slot for the whole team. -/
  | recinv (x : RecinvOp)
  /-- PREF (R222): Prefetches an element's line into the L1 or the constant cache. -/
  | pref (x : PrefOp)
  /-- CWB (R222): Writes back the dirty bytes of an element's line and keeps it valid. -/
  | cwb (x : PrefOp)
  /-- LDS (R215): Barord load from the scratchpad. -/
  | lds (x : SpadOp)
  /-- STS (R215): Barord store to the scratchpad. -/
  | sts (x : SpadOp)
  /-- LDV (R215): Barord load from vault memory. -/
  | ldv (x : BarordOp)
  /-- STV (R215): Barord store to vault memory. -/
  | stv (x : BarordOp)
  /-- LDG (R215): Barord load from device memory. -/
  | ldg (x : BarordOp)
  /-- STG (R215): Barord store to device memory. -/
  | stg (x : BarordOp)
  /-- LDP (R215): Barord load from peer memory. -/
  | ldp (x : BarordOp)
  /-- STP (R215): Barord store to peer memory. -/
  | stp (x : BarordOp)
  /-- LDH (R215): Barord load from host memory. -/
  | ldh (x : BarordOp)
  /-- STH (R215): Barord store to host memory. -/
  | sth (x : BarordOp)
  /-- LDC (R215): Barord load from constant memory. -/
  | ldc (x : BarordOp)
  /-- ATOM (R224): Returning atomic through a record slot, executed at the memory's place. -/
  | atom (x : AtomOp)
  /-- RED (R227): Non-returning reduction through a record slot, which may be merged on its way to the home bank. -/
  | red (x : RedOp)
  /-- ATOMS (R226): Team-scope returning atomic on the scratchpad, applied in ascending lane order. -/
  | atoms (x : AtomsOp)
  /-- REDS (R226): Team-scope scratchpad reduction, applied in ascending lane order. -/
  | reds (x : AtomsOp)
  /-- FENCE (R221): Orders a lane's earlier and later accesses by acquire, release or both at a scope. -/
  | fence (x : FenceOp)
  /-- REDUCTION_APPLY (R227): A reduction contribution, merged or single, arrives at its home bank and is applied to the element. -/
  | reductionApply (t : RedTree)
  /-- CHARGE (R266): Matrix command that loads B weights and scales into the array quarters in its mask. -/
  | charge (x : ChargeOp)
  /-- MMA (R267): Matrix command that multiplies A rows by the charged weights and accumulates the results. -/
  | mma (x : MmaOp)
  /-- ACCZ (R268): Matrix command that zeroes the accumulator slices in its mask. -/
  | accz (x : AcczOp)
  /-- ACCLD (R269): Matrix command that loads accumulator slices from a place. -/
  | accld (x : AccldOp)
  /-- ACCST (R269): Matrix command that stores accumulator slices, optionally converted, to a place. -/
  | accst (x : AccstOp)
  /-- ACCQ (R270): Matrix command that quantises accumulator slices to block format. -/
  | accq (x : AccqOp)
  /-- MSYNC (R271): Waits for the covered matrix commands and returns, optionally clearing, the quarters' status words. -/
  | msync (x : MsyncOp)
  /-- MATRIX_COMMAND_START (R261): A queued matrix command starts on its cores once it is at the head and its predecessor has retired or nears its end. -/
  | matrixCommandStart (cmd : Nat)
  /-- OPERANDS_CONSUMED (R262): An MMA captures its last A row and its engine arrives at the named barrier. -/
  | operandsConsumed (cmd : Nat)
  /-- MATRIX_COMMAND_RETIRE (R261): A matrix command retires, frees its engine place and lets waiting passes, strips and MSYNCs proceed. -/
  | matrixCommandRetire (cmd : Nat)
  /-- CPY (R282): Copy command that moves a box between memory and the scratchpad. -/
  | cpy (x : CpyOp)
  /-- CPYG (R283): Gather copy of listed rows into the scratchpad. -/
  | cpyg (x : CpyOp)
  /-- CPYRD (R284): Copy command that applies an atomic reduction to each destination element. -/
  | cpyrd (x : CpyrdOp)
  /-- COPY_ACCEPT (R280): After the layout record fetch and translation, a copy command is accepted into the lane's open batch or faults. -/
  | copyAccept (r : SlotRef)
  /-- GRANULE_REQUEST (R426): A transfer unit sends one granule request per cycle, taking commands in order of acceptance. -/
  | granuleRequest (core : Nat)
  /-- GRANULE_LAND (R426): A granule lands, its write is performed and its bytes are counted at the barrier. -/
  | granuleLand (copy granule : Nat)
  /-- COPY_COMPLETION (R285): A copy command completes and arrives at its barrier as one member. -/
  | copyCompletion (copy : Nat)
  /-- BATCH_COMPLETION (R286): A sealed batch completes in order, releasing BWAIT and batch-form YIELD waiters. -/
  | batchCompletion (gang lane : Nat)
  /-- CPYX (R287): Cancels the lane's open batch, withdrawing the commands that have written nothing. -/
  | cpyx (x : DstOp)
  /-- BSEAL (R286): Closes and numbers the issuing lane's open batch. -/
  | bseal (x : KOp)
  /-- BWAIT (R286): Parks the slot until the named batch of the issuing lane has completed. -/
  | bwait (x : KOp)
  /-- BTEST (R286): Tests whether a batch has completed. -/
  | btest (x : BtestOp)
  /-- BARINIT (R279): Sets a team barrier's expected member count and clears its counts. -/
  | barinit (x : BarKOp)
  /-- BARARV (R279): Arrives at a team barrier as one member, as a release. -/
  | bararv (x : BarOp)
  /-- BAREXP (R279): Adds to a team barrier's expected bytes. -/
  | barexp (x : BarKOp)
  /-- BARTST (R279): Tests whether a barrier's phase differs from an expected one. -/
  | bartst (x : BartstOp)
  /-- CBAR (R279): Arrives at a cluster barrier. -/
  | cbar (x : BarOp)
  /-- GBAR (R279): Arrives at a grid barrier. -/
  | gbar (x : BarOp)
  /-- GSYNC (R279): Marks the gang; the team arrives once at a grid barrier when all its launched gangs are marked. -/
  | gsync (x : BarOp)
  /-- BARRIER_COMPLETION (R275): A barrier whose members and bytes are met flips its phase and releases the slots that wait on it. -/
  | barrierCompletion (b : BarId)
  /-- WAITM (R288): Arms a watch on a memory word that holds the continuing group until the word changes. -/
  | waitm (x : WaitmOp)
  /-- WAITM_WAKE (R288): A watched word is read as different, or a spurious wake occurs, and the waiting slot is released as an acquire. -/
  | waitmWake (r : SlotRef) (spurious : Bool)
  /-- DRAIN (R291): Promotes the core and sweeps message counters over the panel until sent equals received. -/
  | drain (x : DstOp)
  /-- DRAIN_SWEEP (R291): One reduction-tree sweep of the sent and received counters completes and is compared. -/
  | drainSweep (launch : Nat)
  /-- LNCH (R290): Places a launch parameter block on a leaf queue and returns a status. -/
  | lnch (x : LnchOp)
  /-- SPAWN (R289): Sends a copy of each participating lane with its payload to the spawn bin keyed by the entry trace. -/
  | spawn (x : SpawnOp)
  /-- SPAWN_BIN_TIMER_EXPIRY (R19): A spawn bin's timer expires, making its collected lanes eligible to form a gang. -/
  | spawnBinTimerExpiry (core bin : Nat)
  /-- SPAWNED_GANG_FORMS (R19): A bin with 32 lanes or an expired timer forms a new gang once a slot, granules and a gang number are free. -/
  | spawnedGangForms (core bin : Nat)
  /-- CLAIM (R234): Claims a tile in a class; it is granted, queued for recall, or reported with a status. -/
  | claim (x : ClaimOp)
  /-- CLAIM_GRANT (R236): A tile that becomes free is granted to the head of its recall queue, or to a waiting claim. -/
  | claimGrant (tile : Nat)
  /-- RELEASE (R238): Gives up a held tile and removes the team's own queue entry. -/
  | release (x : KOp)
  /-- TILE_PASS (R245): A released or cast-off tile passes on once its issued matrix operations have retired. -/
  | tilePass (tile : Nat)
  /-- COREG (R240): Registers, or clears, the team's cast-off routine and bound. -/
  | coreg (x : CoregOp)
  /-- TILEQ (R250): Reads a tile's state and reports any grant to the team's non-blocking entry. -/
  | tileq (x : TileqOp)
  /-- RECALL_DELIVERY (R241): A recall starts the holder's cast-off routine at the registrant gang's next trace entry. -/
  | recallDelivery (tile : Nat)
  /-- CASTOFF_BOUND_OVERRUN (R244): A cast-off routine's word count would exceed its bound, or it traps, and it ends as an overrun. -/
  | castoffBoundOverrun (gang : Nat)
  /-- CODONE (R245): Ends the cast-off routine and passes the tile to the queue head. -/
  | codone (x : TermOp)
  /-- COSUMM (R245): Ends the routine, passes the tile and hands a summary address to the head's claim. -/
  | cosumm (x : CosummOp)
  /-- COREFUSE (R245): Ends the routine keeping the tile, counting a refusal and dropping every queue entry. -/
  | corefuse (x : TermOp)
  /-- FORCED_STRIP (R246): After in-flight matrix work retires, a tile is cleared, granted on and marked stripped for the former holder. -/
  | forcedStrip (tile : Nat) (why : StripWhy)
  /-- LOAN_REVOCATION (R248): A loaned tile is revoked when another claim arrives, its holder is saved out, or system software asks. -/
  | loanRevocation (tile : Nat)
  /-- REFUSAL_WINDOW_EXPIRY (R246): Every W cycles a team's refusal count returns to zero. -/
  | refusalWindowExpiry (team : Nat)
  /-- TRAPI (R324): Raises a software trap with a code, routing its lanes to a handler at the continuation. -/
  | trapi (x : TrapiOp)
  /-- ERET (R325): Ends a trap handler, reloading the frame and returning to the resume address. -/
  | eret (x : TermOp)
  /-- CTLR (R312): Reads a control register into a stitch operand. -/
  | ctlr (x : CtlrOp)
  /-- CTLW (R313): Writes a control register that has no behaviour of its own. -/
  | ctlw (x : CtlwOp)
  /-- TIMER_WRITE (R316): A write of ctl.timer loads its down-counter with PERIOD, or stops it. -/
  | timerWrite (x : KOp)
  /-- RFLAG_CLEAR (R318): A write of ones to ctl.rflag clears those reduction flags at every place of the fault domain. -/
  | rflagClear (x : KOp)
  /-- RESUME_WRITE (R392): A write of ctl.resume releases the stopped slots of the named gang slots. -/
  | resumeWrite (x : KOp)
  /-- TLBI (R329): Starts removal of first-stage translations of a page or of a whole virtual device. -/
  | tlbi (x : InvOp)
  /-- TLBI_COMPLETION (R329): A TLBI completes once every core has dropped the entries and the dependent accesses and traces are done. -/
  | tlbiCompletion (gang : Nat)
  /-- TLBSYNC (R329): Holds the slot until the gang's earlier TLBIs have completed. -/
  | tlbsync (x : NopOp)
  /-- ICINV (R330): Invalidates trace-cache lines of a page, or all trace caches, on every core of the panel. -/
  | icinv (x : InvOp)
  /-- SAMPLE (R328): Reads the latched snapshot word of a gang slot. -/
  | sample (x : DkOp)
  /-- METERR (R331): Reads a usage meter of a region control block. -/
  | meterr (x : MeterrOp)
  /-- CTXSV (R332): The service gang saves a team at a position on its core into an image. -/
  | ctxsv (x : DkOp)
  /-- CTXLD (R332): The service gang restores the team whose image lies at an address onto its core. -/
  | ctxld (x : DkOp)
  /-- IDLE (R327): The service gang waits for the next timer expiry, with its terminator's target as continuation. -/
  | idle (x : NopOp)
  /-- TIMER_EXPIRY (R327): ctl.timer expires, latching a snapshot and starting the waiting service gang, or adding to MISS. -/
  | timerExpiry (core : Nat)
  /-- LONG_LATENCY_LANDING (R64): At the end of a switch group the pending long-latency results land together and the parked gang resumes. -/
  | longLatencyLanding (r : SlotRef)
  /-- TRACE_RESOLUTION (R88): A trace resolves: it commits, discards and forms groups, pushes tokens and fills slots. -/
  | traceResolution (r : SlotRef)
  /-- UNDO_PAIR_ACQUIRE (R83): A waiting slot acquires an undo and store buffer pair from the pool so that its guarded header can issue. -/
  | undoPairAcquire (r : SlotRef)
  /-- OVERFLOW_ROW_FILL (R70): An overflow row is filled from the backing store into the window, after any write-back of the victim row. -/
  | overflowRowFill (gang row : Nat)
  /-- FORCED_QUEUE_JOIN (R346): A gang's starvation counter reaches 52 and the gang joins its scheduler's forced queue. -/
  | forcedQueueJoin (gang : Nat)
  /-- TRAP_DELIVERY (R319): A trapped group that holds a slot writes its frame, reads the vector and enters its handler. -/
  | trapDelivery (r : SlotRef)
  /-- TRANSLATION_WALK (R354): A translation miss is walked through both stages, yielding a translation or a fault. -/
  | translationWalk (core : Nat) (vd : Nat) (va : Nat) (acc : Acc) (user : Bool)
  /-- DISPATCH_VISIT (R339): Each network cycle the distributor visits a queue, credits its deficit and dispatches units that fit. -/
  | dispatchVisit (panel : Nat)
  /-- TEAM_RETIREMENT (R349): A team whose gangs, bins, copies and matrix commands are done writes its record, is settled and frees its resources. -/
  | teamRetirement (team : Nat)
  /-- TEAM_END (R363): A reported cause ends a unit; its outstanding work completes and a fault report is appended. -/
  | teamEnd (team cause detail : Nat)
  /-- PREEMPTION_REQUEST (R364): A pre-emption request reaches a unit, and the method is chosen. -/
  | preemptionRequest (team : Nat) (src : PreSrc)
  /-- DRAIN_ALLOWANCE_EXPIRY (R366): A draining unit that has not retired after A cycles is saved. -/
  | drainAllowanceExpiry (team : Nat)
  /-- FLUSH_AND_RESTART (R366): A stopped unit's teams are discarded, settled and placed back at the head of their queue. -/
  | flushAndRestart (team : Nat)
  /-- SAVE (R367): A stopped unit's state is written to its context image, and the team leaves its core. -/
  | save (team : Nat)
  /-- RESTORE (R370): A saved team is readmitted, its state is reloaded, recipes run and issue resumes. -/
  | restore (image : Nat)
  /-- SLICE_END (R381): A virtual device's slice length passes, and pre-emption is requested for its resident units. -/
  | sliceEnd (panel : Nat)
  /-- SLICE_START (R381): The next runnable virtual device's slice begins once the outgoing one has no resident unit. -/
  | sliceStart (panel : Nat)
  /-- DEADLOCK_WALK (R373): Periodically the management core walks the wait-for table and ends the lowest-priority unit of a persistent cycle. -/
  | deadlockWalk (panel : Nat)
  /-- METER_ACCRUAL (R385): Hardware usage events are added to the meters of their identity. -/
  | meterAccrual (team meter amount : Nat)
  /-- USAGE_REPORT (R386): Mailbox command 1: snapshot the named meters and return a signed, sequenced report. -/
  | usageReport (buf : Nat)
  /-- ERROR_COUNTERS (R418): Mailbox command 2: return and clear the correctable-error counts of each unit. -/
  | errorCounters (buf : Nat)
  /-- READINESS (R421): Mailbox command 3: report the functions that came up or failed bring-up. -/
  | readiness (buf : Nat)
  /-- SECOND_STAGE_INVALIDATION (R383): Mailbox command 4: invalidate second-stage translations of a panel. -/
  | secondStageInvalidation (buf : Nat)
  /-- REGISTRATION (R427): Mailbox command 5: read, check and register a region control block. -/
  | registration (buf : Nat)
  /-- DOORBELL (R412): A host write to a queue handle's doorbell submits a launch parameter block. -/
  | doorbell (handle value : Nat)
  /-- PANEL_DESCRIPTOR_WRITE (R376): Panel firmware writes a panel descriptor, which is refused while the panel has teams. -/
  | panelDescriptorWrite (panel : Nat) (d : List (BitVec 64))
  /-- METER_IDENTITY_REGISTER (R384): Panel firmware registers or unregisters a meter identity, with its meters at zero. -/
  | meterIdentityRegister (ident : Nat) (on : Bool)
  /-- HOST_CXL_MEM_ACCESS (R413): A host CXL.mem access is served at the line's home bank. -/
  | hostCxlMemAccess (vf : Nat) (q : ExtReq)
  /-- PURL_FLIT_RECEIVE (R415): A Purl flit is received and checked; it is replayed on failure and delivered once, in order. -/
  | purlFlitReceive (link seq : Nat) (crcOk : Bool) (src : Nat) (q : ExtReq)
  /-- PEER_REQUEST (R416): A request from another device arrives at its place and is performed, or refused outside the window. -/
  | peerRequest (src : Nat) (q : ExtReq)
  /-- LINK_DOWN (R417): A link that keeps failing replay or loses training is declared down, and its flows are fenced. -/
  | linkDown (link : Nat)
  /-- POISON_CONSUMED (R419): An agent consumes poisoned data, which it does not deliver, and the owning team is ended. -/
  | poisonConsumed (team detail : Nat)
  /-- PATROL_SCRUB (R418): Periodic patrol scrub of every vault line. -/
  | patrolScrub (vault : Nat)
  /-- FUNCTION_READY (R421): A function finishes bring-up and sets its readiness bit; a twin starts its service gang. -/
  | functionReady (f : Fn)
  /-- VIRTUAL_DEVICE_DESCRIPTOR_WRITE (R379): Panel firmware writes a virtual-device descriptor, setting its enable, root block, slice, drain allowance, save area, report ring and translation context. -/
  | virtualDeviceDescriptorWrite (panel vd : Nat) (d : List (BitVec 64))
  /-- HOST_QUEUE_HANDLE_BIND (R412): Panel firmware binds a host queue handle to a leaf queue of one of the panel's virtual devices, or unbinds it. -/
  | hostQueueHandleBind (panel handle : Nat) (leaf : Option (Nat × Nat))
  /-- OUTSIDE_VALUE_ARRIVAL (R310): A value that a system instruction awaits from outside the core arrives and releases the slot held at issue, as for CTLR of ctl.rflag or ctl.ready, METERR or ICINV's completion on every core. -/
  | outsideValueArrival (r : SlotRef)
  /-- THROTTLE_STOP (R423): Draw has stayed below 95 % of the limit for 1 ms, and withholding stops. -/
  | throttleStop
  /-- COLD_RESET (R421): Cold reset; the management core verifies its firmware and sets MGMT. -/
  | coldReset
  /-- THROTTLE_START (R423): Power or current reaches its limit, and issue cycles begin to be withheld. -/
  | throttleStart
  deriving DecidableEq, Repr

end Sys2Proof
end

