-- ==== Sys2Proof/WellFormed.lean ====
section
/-! DEFINITION. Well-formed instructions: every field within the range that its encoding admits, and no reserved value (07 R145 to
R157, 08 R171 to R186, 09 R189 to R203, 10 R205 to R223, 12 R265, 13 R278, 18 R310). Events have no encoding.
-/

set_option Elab.async false

namespace Sys2Proof

/-- An integer type (05 R101). -/
def Ty.isInt : Ty → Bool
  | .n4 | .i4 | .n8 | .i8 | .n12 | .i12 | .n16 | .i16 | .n24 | .i24 | .n32 | .i32 | .n64 | .i64 => true
  | _ => false

/-- A signed integer type (05 R101). -/
def Ty.signed : Ty → Bool
  | .i4 | .i8 | .i12 | .i16 | .i24 | .i32 | .i64 => true
  | _ => false

/-- A scalar floating-point format (05 R103). -/
def Ty.isFloat : Ty → Bool
  | .f16 | .bf16 | .f32 | .f64 | .e4m3 | .e5m2 => true
  | _ => false

/-- Width in bits (05 R101, R103). -/
def Ty.bits : Ty → Nat
  | .none => 0
  | .n4 | .i4 => 4
  | .n8 | .i8 | .e4m3 | .e5m2 | .e8m0 => 8
  | .n12 | .i12 => 12
  | .n16 | .i16 | .f16 | .bf16 => 16
  | .n24 | .i24 => 24
  | .n32 | .i32 | .f32 => 32
  | .n64 | .i64 | .f64 => 64

/-- Width in stitches (05 R101, 03 R61). -/
def Ty.stitches (t : Ty) : Nat := t.bits / 4

/-- Types of the scalar float rows (09 R189). -/
def Ty.isScalarF : Ty → Bool
  | .f64 | .f32 | .f16 | .bf16 => true
  | _ => false

/-- Types that accept .ftz (05 R108). -/
def Ty.ftzOk : Ty → Bool
  | .f64 | .f32 => true
  | _ => false

/-- Types of MOVHI and KMOVHI (08 R178). -/
def Ty.isWord : Ty → Bool
  | .n32 | .i32 => true
  | _ => false

/-- Types of a native memory instruction (10 R205, R229). -/
def Ty.isMem : Ty → Bool
  | .none | .e8m0 => false
  | _ => true

/-- Types of LDX and STX (10 R211). -/
def Ty.isVecMem (t : Ty) : Bool := t.isMem && (t.stitches == 1 || t.stitches == 2 || t.stitches == 4 || t.stitches == 8 || t.stitches == 16)

/-- Types of the Barord forms (10 R215). -/
def Ty.isBarord : Ty → Bool
  | .n8 | .i8 | .n16 | .i16 | .n32 | .i32 | .n64 | .i64 | .f16 | .bf16 | .f32 | .f64 | .e4m3 | .e5m2 => true
  | _ => false

/-- Types that an atomic operation accepts (10 R224). -/
def Aop.accepts : Aop → Ty → Bool
  | .add, t | .min, t | .max, t | .and, t | .or, t | .xor, t | .exch, t | .cas, t =>
    t == .i32 || t == .n32 || t == .i64 || t == .n64
  | .inc, t | .dec, t => t == .n32 || t == .n64
  | .fadd, t | .fmin, t | .fmax, t => t == .f32

/-- Operations of RED and REDS (07 R157). -/
def Aop.isRed : Aop → Bool
  | .exch | .cas => false
  | _ => true

/-- Operations of CPYRD (13 R284). -/
def Aop.isCopy : Aop → Bool
  | .inc | .dec | .exch | .cas => false
  | _ => true

/-- Pairs that CVT accepts: those that 05 R110 connects (09 R196). -/
def cvtPair (dst src : Ty) : Bool :=
  if src.isInt then dst.isInt || dst.isFloat
  else if src.isFloat then dst.isInt || dst.isFloat || (src == .f32 && dst == .e8m0)
  else src == .e8m0 && (dst == .f64 || dst == .f32 || dst == .bf16 || dst == .e8m0)

/-- Formats of CVTI's floating-point side (09 R197). -/
def Ty.isCvtiF : Ty → Bool
  | .f16 | .bf16 | .f32 => true
  | _ => false

/-- Pairs that CVTI accepts (09 R197). -/
def cvtiPair (dst src : Ty) : Bool := (dst.isInt && src.isCvtiF) || (dst.isCvtiF && src.isInt)

def Opnd.wf (o : Opnd) : Bool := o.start < 1024
def PSrc.wf (p : PSrc) : Bool := p.n < 32
/-- PG 0b100000 is reserved (07 R145). -/
def Hd.wf (h : Hd) : Bool := h.pg < 32 && !(h.neg && h.pg == 0)

/-- A signed field of `n` bits. -/
def sFits (v : Int) (n : Nat) : Bool := -(2 ^ (n - 1) : Nat) ≤ v && v < (2 ^ (n - 1) : Nat)

/-- Barrier indices (07 R147). -/
def Bar.wf : Bar → Bool
  | .team n => n < 16
  | .cluster n => n < 8
  | .grid n => n < 4
  | .none => true

/-- Classes a command may name (12 R262, 13 R278). -/
def Bar.cmdOk : Bar → Bool
  | .grid _ => false
  | _ => true

/-- Classes a waiting word may name (07 R150, 13 R278). -/
def Bar.waitOk : Bar → Bool
  | .none => false
  | _ => true

def MovSrc.wf : MovSrc → Bool
  | .stitch a => a.wf
  | .special n => n < 15

def KSrc.wf (n : Nat) : KSrc → Bool
  | .reg k => k < 64
  | .imm v => sFits v n

def VoteForm.wf : VoteForm → Bool
  | .all p | .any p | .uni p => p < 32
  | .ballot d => d.wf

def YieldOn.wf : YieldOn → Bool
  | .batch k => k < 64
  | .barrier b _ => b.wf && b.waitOk

/-- The fields of a header that the encoding bounds (07 R149, R160). -/
def Header.wf (h : Header) : Bool := h.len < 64 && h.ord < 2 ^ 20 && h.grdn < 8 && h.bufn ≤ 8 && h.wset ≤ 16

/-- A signed word offset of a terminator or GRD (07 R150). -/
def offOk (v : Int) : Bool := sFits v 25


def IntOp.wf (x : IntOp) : Bool := x.hd.wf && x.d.wf && x.a.wf && x.b.wf && x.ty.isInt
def IntUn.wf (x : IntUn) : Bool := x.hd.wf && x.d.wf && x.a.wf && x.ty.isInt
def CarryOp.wf (x : CarryOp) : Bool := x.hd.wf && x.d.wf && x.a.wf && x.b.wf && x.ty.isInt && x.c < 4
/-- A MOV without a type has no .sat (08 R175). -/
def MovOp.wf (x : MovOp) : Bool := x.hd.wf && x.d.wf && x.src.wf && (x.ty.isInt || (x.ty == .none && !x.sat))
def CmpOp.wf (x : CmpOp) : Bool := x.hd.wf && x.p < 32 && x.a.wf && x.b.wf && x.ty.isInt
def ImmOp.wf (x : ImmOp) : Bool := x.hd.wf && x.d.wf && x.a.wf && x.ty.isInt
def CmpIOp.wf (x : CmpIOp) : Bool := x.hd.wf && x.p < 32 && x.a.wf && x.ty.isInt && sFits x.imm 12
def MovIOp.wf (x : MovIOp) : Bool := x.hd.wf && x.d.wf && x.ty.isInt && x.imm < 2 ^ 20
def PLogicOp.wf (x : PLogicOp) : Bool := x.hd.wf && x.p < 32 && x.a.wf && x.b.wf
def PNotOp.wf (x : PNotOp) : Bool := x.hd.wf && x.p < 32 && x.a.wf
def PSetOp.wf (x : PSetOp) : Bool := x.hd.wf && x.a.wf && x.m.wf
def PGetOp.wf (x : PGetOp) : Bool := x.hd.wf && x.d.wf
def VoteOp.wf (x : VoteOp) : Bool := x.hd.wf && x.form.wf && x.a.wf
def ShflOp.wf (x : ShflOp) : Bool := x.hd.wf && x.d.wf && x.a.wf && x.b.wf
def ElectOp.wf (x : ElectOp) : Bool := x.hd.wf && x.p < 32 && x.a.wf
def MovsOp.wf (x : MovsOp) : Bool := x.hd.wf && x.d.wf && x.sr < 15
def KBinOp.wf (x : KBinOp) : Bool := x.kd < 64 && x.ka < 64 && x.x.wf 21 && x.ty.isInt
def KMovOp.wf (x : KMovOp) : Bool := x.kd < 64 && x.imm < 2 ^ 21 && x.ty.isInt
def KFromOp.wf (x : KFromOp) : Bool := x.hd.wf && x.kd < 64 && x.a.wf && x.ty.isInt
def KToOp.wf (x : KToOp) : Bool := x.hd.wf && x.d.wf && x.ka < 64 && x.ty.isInt
def KCmpOp.wf (x : KCmpOp) : Bool := x.hd.wf && x.p < 32 && x.ka < 64 && x.x.wf 20 && x.ty.isInt
def FOp.wf (x : FOp) : Bool := x.hd.wf && x.d.wf && x.a.wf && x.b.wf && x.ty.isScalarF && (!x.ftz || x.ty.ftzOk)
def FUnOp.wf (x : FUnOp) : Bool := x.hd.wf && x.d.wf && x.a.wf && x.ty.isScalarF && (!x.ftz || x.ty.ftzOk)
def FMmOp.wf (x : FMmOp) : Bool := x.hd.wf && x.d.wf && x.a.wf && x.b.wf && x.ty.isScalarF && (!x.ftz || x.ty.ftzOk)
def FCmpOp.wf (x : FCmpOp) : Bool := x.hd.wf && x.p < 32 && x.a.wf && x.b.wf && x.ty.isScalarF
def FClassOp.wf (x : FClassOp) : Bool := x.hd.wf && x.d.wf && x.a.wf && x.ty.isScalarF
def FPkOp.wf (x : FPkOp) : Bool := x.hd.wf && x.d.wf && x.a.wf && x.b.wf
def FTransOp.wf (x : FTransOp) : Bool := x.hd.wf && x.d.wf && x.a.wf
def CvtOp.wf (x : CvtOp) : Bool := x.hd.wf && x.d.wf && x.a.wf
/-- .h32 with .b16 is reserved (09 R200). -/
def QblkOp.wf (x : QblkOp) : Bool := x.hd.wf && x.d.wf && x.sc.wf && x.a.wf && !(x.h == .h32 && x.b16)
def DqOp.wf (x : DqOp) : Bool := x.hd.wf && x.d.wf && x.a.wf && x.b.wf
def HadOp.wf (x : HadOp) : Bool := x.hd.wf && x.d.wf && x.a.wf
def LdOp.wf (x : LdOp) : Bool := x.hd.wf && x.v.wf && x.q < 64 && x.x.wf && sFits x.imm 9 && x.ty.isMem
def StOp.wf (x : StOp) : Bool := x.hd.wf && x.v.wf && x.q < 64 && x.x.wf && sFits x.imm 9 && x.ty.isMem
def ScMemOp.wf (x : ScMemOp) : Bool := x.hd.wf && x.v.wf && x.q < 64 && x.x.wf && sFits x.imm 9 && x.ty.isMem
def RecldOp.wf (x : RecldOp) : Bool := x.hd.wf && x.q < 64 && x.x.wf
def RecinvOp.wf (x : RecinvOp) : Bool := x.hd.wf && x.q < 64
def PrefOp.wf (x : PrefOp) : Bool := x.hd.wf && x.q < 64 && x.x.wf && sFits x.imm 9 && x.ty.isMem
def BarordOp.wf (x : BarordOp) : Bool := x.hd.wf && x.v.wf && x.a.wf && x.kb < 64 && sFits x.imm 9 && x.ty.isBarord
def SpadOp.wf (x : SpadOp) : Bool := x.hd.wf && x.v.wf && x.a.wf && x.kb < 64 && sFits x.imm 9 && x.ty.isBarord
def AtomOp.wf (x : AtomOp) : Bool := x.hd.wf && x.v.wf && x.q < 64 && x.x.wf && x.aop.accepts x.ty
def RedOp.wf (x : RedOp) : Bool := x.hd.wf && x.v.wf && x.q < 64 && x.x.wf && x.aop.accepts x.ty && x.aop.isRed
def AtomsOp.wf (x : AtomsOp) : Bool := x.hd.wf && x.v.wf && x.a.wf && x.kb < 64 && sFits x.imm 9 && x.aop.accepts x.ty
def FenceOp.wf (x : FenceOp) : Bool := x.hd.wf && x.ord != .none
/-- SHAPE is accepted only with .tw (12 R265). -/
def ChargeOp.wf (x : ChargeOp) : Bool :=
  x.hd.wf && x.place < 64 && x.fmt < 64 && x.kq < 64 && x.bar.wf && x.bar.cmdOk && (x.tw || !x.n1024)
def MmaOp.wf (x : MmaOp) : Bool := x.hd.wf && x.cmd < 64 && x.fmt < 64 && x.kq < 64 && x.bar.wf && x.bar.cmdOk
def AcczOp.wf (x : AcczOp) : Bool := x.hd.wf && x.kq < 64
def AccldOp.wf (x : AccldOp) : Bool := x.hd.wf && x.place < 64 && x.kq < 64
def AccstOp.wf (x : AccstOp) : Bool := x.hd.wf && x.place < 64 && x.kq < 64
def AccqOp.wf (x : AccqOp) : Bool := x.hd.wf && x.place < 64 && x.sc < 64 && x.kq < 64
def MsyncOp.wf (x : MsyncOp) : Bool := x.hd.wf && x.d.wf && x.kq < 64
def CpyOp.wf (x : CpyOp) : Bool := x.hd.wf && x.kl < 64 && x.kbox < 64 && x.ksp < 64 && x.bar.wf && x.bar.cmdOk
def CpyrdOp.wf (x : CpyrdOp) : Bool :=
  x.hd.wf && x.kl < 64 && x.kbox < 64 && x.ksp < 64 && x.bar.wf && x.bar.cmdOk && x.aop.accepts x.ty && x.aop.isCopy
def DstOp.wf (x : DstOp) : Bool := x.hd.wf && x.d.wf
def KOp.wf (x : KOp) : Bool := x.hd.wf && x.k < 64
def BtestOp.wf (x : BtestOp) : Bool := x.hd.wf && x.p < 32 && x.k < 64
def BarKOp.wf (x : BarKOp) : Bool := x.hd.wf && x.b < 16 && x.k < 64
def BarOp.wf (n : Nat) (x : BarOp) : Bool := x.hd.wf && x.n < n
def BartstOp.wf (x : BartstOp) : Bool := x.hd.wf && x.p < 32 && x.bar.wf && x.bar.waitOk
def WaitmOp.wf (x : WaitmOp) : Bool := x.hd.wf && x.ka < 64 && x.kv < 64
def LnchOp.wf (x : LnchOp) : Bool := x.hd.wf && x.d.wf && x.kblk < 64 && x.kq < 64
def SpawnOp.wf (x : SpawnOp) : Bool := x.hd.wf && x.ke < 64 && x.d.wf && x.kn < 64
def ClaimOp.wf (x : ClaimOp) : Bool := x.hd.wf && x.d.wf && x.p < 32 && x.ksum < 64 && x.ktile < 64
def CoregOp.wf (x : CoregOp) : Bool := x.hd.wf && x.kentry < 64 && x.kbound < 64
def TileqOp.wf (x : TileqOp) : Bool := x.hd.wf && x.d.wf && x.ksum < 64 && x.ktile < 64
def TrapiOp.wf (x : TrapiOp) : Bool := x.hd.wf && x.code < 256
def CtlrOp.wf (x : CtlrOp) : Bool := x.hd.wf && x.d.wf
/-- A write of ctl.timer, ctl.rflag or ctl.resume is a row of its own. -/
def CtlwOp.wf (x : CtlwOp) : Bool := x.hd.wf && x.k < 64 && x.cr != .timer && x.cr != .rflag && x.cr != .resume
def InvOp.wf (x : InvOp) : Bool := x.hd.wf && x.k < 64
def DkOp.wf (x : DkOp) : Bool := x.hd.wf && x.d.wf && x.k < 64
/-- Meters are numbered 0 to 8 (18 R331). -/
def MeterrOp.wf (x : MeterrOp) : Bool := x.hd.wf && x.d.wf && x.k < 64 && x.n < 9

/-- A well-formed step: for a word, what its encoding admits; an event has nothing to check. -/
def Instr.wf : Instr → Bool
  | .trace x => x.wf
  | .grd x => x.hd.wf && !x.hd.sw && x.p.wf && offOk x.off
  | .nop x => x.hd.wf
  | .next _ | .exit _ | .codone _ | .corefuse _ | .eret _ => true
  | .jmp x => offOk x.off
  | .jsel x => x.p.wf && offOk x.t && offOk x.f && offOk x.j
  | .jtab x | .callt x => x.slot < 2 ^ 25 && x.idx.wf
  | .call x => offOk x.off && x.link.wf
  | .ret x => x.ra.wf
  | .loop x => x.k < 64 && offOk x.off
  | .yield x => offOk x.off && x.on.wf
  | .barw x => x.bar.wf && x.bar.waitOk
  | .add x | .sub x | .min x | .max x | .clamp x | .mul x | .mulhi x | .mad x | .sad x | .and x | .or x | .xor x | .andn x
  | .orn x | .shl x | .shr x | .shra x | .rotl x | .fshl x | .bfx x | .bfi x | .sel x => x.wf
  | .neg x | .abs x | .popc x | .clz x | .ctz x | .brev x | .xt x => x.wf
  | .addc x | .subb x => x.wf
  | .mov x => x.wf
  | .cmp x => x.wf
  | .addi x | .andi x | .ori x | .xori x | .muli x => x.wf && sFits x.imm 12
  | .shli x | .shri x | .shrai x => x.wf && 0 ≤ x.imm && x.imm < 64
  | .cmpi x => x.wf
  | .movi x => x.wf
  | .movhi x => x.wf && x.ty.isWord
  | .pand x | .por x | .pxor x => x.wf
  | .pnot x => x.wf
  | .pset x => x.wf
  | .pget x => x.wf
  | .vote x => x.wf
  | .shfl x => x.wf
  | .elect x => x.wf
  | .movs x => x.wf
  | .kadd x | .ksub x | .kmul x | .kand x | .kor x | .kshl x | .kshr x => x.wf
  | .kmovi x => x.wf
  | .kmovhi x => x.wf && x.ty.isWord && x.imm < 2 ^ 20
  | .kfrom x => x.wf
  | .kto x => x.wf
  | .kcmp x => x.wf
  | .fadd x | .fsub x | .fmul x | .ffma x | .fscale x => x.wf
  | .fdiv x => x.wf && x.ty.ftzOk
  | .frnd x => x.wf
  | .frcp x | .frsq x | .fsqrt x => x.wf && x.ty.ftzOk
  | .fmin x | .fmax x => x.wf
  | .fcmp x => x.wf
  | .fclass x => x.wf
  | .fadd2 x | .fmul2 x | .ffma2 x => x.wf && (x.ty == .f16 || x.ty == .bf16)
  | .fdot4 x => x.wf && (x.ty == .e4m3 || x.ty == .e5m2)
  | .fexp2 x | .flog2 x | .fsin x | .fcos x => x.wf
  | .cvt x => x.wf && cvtPair x.dst x.src
  | .cvti x => x.wf && cvtiPair x.dst x.src
  | .qblk x => x.wf
  | .dqblk x | .req x => x.wf
  | .had x => x.wf
  | .ld x => x.wf
  | .ldx x => x.wf && x.ty.isVecMem
  | .st x => x.wf
  | .stx x => x.wf && x.ty.isVecMem
  | .lda x | .stl x => x.wf
  | .ldaRmt x => x.wf && (x.sc == .d || x.sc == .y)
  | .recld x => x.wf
  | .recinv x => x.wf
  | .pref x | .cwb x => x.wf
  | .lds x | .sts x => x.wf
  | .ldv x | .stv x | .ldg x | .stg x | .ldp x | .stp x | .ldh x | .sth x | .ldc x => x.wf
  | .atom x => x.wf
  | .red x => x.wf
  | .atoms x => x.wf
  | .reds x => x.wf && x.aop.isRed
  | .fence x => x.wf
  | .charge x => x.wf
  | .mma x => x.wf
  | .accz x => x.wf
  | .accld x => x.wf
  | .accst x => x.wf
  | .accq x => x.wf
  | .msync x => x.wf
  | .cpy x | .cpyg x => x.wf
  | .cpyrd x => x.wf
  | .cpyx x | .drain x => x.wf
  | .bseal x | .bwait x | .release x => x.wf
  | .btest x => x.wf
  | .barinit x | .barexp x => x.wf
  | .bararv x => x.wf 16
  | .cbar x => x.wf 8
  | .gbar x | .gsync x => x.wf 4
  | .bartst x => x.wf
  | .waitm x => x.wf
  | .lnch x => x.wf
  | .spawn x => x.wf
  | .claim x => x.wf
  | .coreg x => x.wf
  | .tileq x => x.wf
  | .cosumm x => x.k < 64
  | .trapi x => x.wf
  | .ctlr x => x.wf
  | .ctlw x => x.wf
  | .timerWrite x | .rflagClear x | .resumeWrite x => x.wf
  | .tlbi x | .icinv x => x.wf
  | .tlbsync x | .idle x => x.hd.wf
  | .sample x | .ctxsv x | .ctxld x => x.wf
  | .meterr x => x.wf
  | .recordLanding .. | .reductionApply .. | .matrixCommandStart .. | .operandsConsumed .. | .matrixCommandRetire ..
  | .copyAccept .. | .granuleRequest .. | .granuleLand .. | .copyCompletion .. | .batchCompletion .. | .barrierCompletion ..
  | .waitmWake .. | .drainSweep .. | .spawnBinTimerExpiry .. | .spawnedGangForms .. | .claimGrant .. | .tilePass ..
  | .recallDelivery .. | .castoffBoundOverrun .. | .forcedStrip .. | .loanRevocation .. | .refusalWindowExpiry ..
  | .tlbiCompletion .. | .timerExpiry .. | .longLatencyLanding .. | .traceResolution .. | .undoPairAcquire ..
  | .overflowRowFill .. | .forcedQueueJoin .. | .trapDelivery .. | .translationWalk .. | .dispatchVisit .. | .teamRetirement ..
  | .teamEnd .. | .preemptionRequest .. | .drainAllowanceExpiry .. | .flushAndRestart .. | .save .. | .restore ..
  | .sliceEnd .. | .sliceStart .. | .deadlockWalk .. | .meterAccrual .. | .usageReport .. | .errorCounters .. | .readiness ..
  | .secondStageInvalidation .. | .registration .. | .doorbell .. | .panelDescriptorWrite .. | .meterIdentityRegister ..
  | .hostCxlMemAccess .. | .purlFlitReceive .. | .peerRequest .. | .linkDown .. | .poisonConsumed .. | .patrolScrub ..
  | .coldReset | .functionReady .. | .throttleStart | .throttleStop | .virtualDeviceDescriptorWrite ..
  | .hostQueueHandleBind .. | .outsideValueArrival .. => true

end Sys2Proof
end

