-- ==== Sys2Proof/Decode.lean ====
section
/-! DEFINITION. The decoder and the encoder of instruction words (07 R145 to R160, and the encoding tables of 08 to 13 and 18).

A word is a number below 2^64. `decode` takes the words from an address on and gives the instruction with the words after
it, or the reason why the word is no instruction. `encode` writes the words of an instruction from the same tables. -/

set_option Elab.async false

namespace Sys2Proof

/-- The opcode OP of a word (07 R145). -/
def opOf (w : Nat) : Nat := fld w 53 10

/-- A header by its OP alone (07 R158). -/
def opIsHeader (op : Nat) : Bool := op == 0x001

/-- A terminator by its OP alone (07 R158). -/
def opIsTerm (op : Nat) : Bool := (0x008 ≤ op && op ≤ 0x012) || (0x348 ≤ op && op ≤ 0x34A) || op == 0x381

/-- `some ()` where a condition of the encoding holds (07 R159). -/
def need (b : Bool) : Option Unit := if b then some () else none

/-! Codes. -/

/-- Width codes (03 R55). -/
def WCode.ofCode (c : Nat) : WCode :=
  match c with
  | 0 => .w1 | 1 => .w2 | 2 => .w3 | 3 => .w4 | 4 => .w6 | 5 => .w8 | 6 => .w16 | _ => .w32
def WCode.code : WCode → Nat
  | .w1 => 0 | .w2 => 1 | .w3 => 2 | .w4 => 3 | .w6 => 4 | .w8 => 5 | .w16 => 6 | .w32 => 7

/-- TY codes (07 R152). -/
def Ty.ofCode (c : Nat) : Option Ty :=
  match c with
  | 0x00 => some .none | 0x01 => some .n4 | 0x02 => some .i4 | 0x03 => some .n8 | 0x04 => some .i8 | 0x05 => some .n12
  | 0x06 => some .i12 | 0x07 => some .n16 | 0x08 => some .i16 | 0x09 => some .n24 | 0x0A => some .i24 | 0x0B => some .n32
  | 0x0C => some .i32 | 0x0D => some .n64 | 0x0E => some .i64 | 0x10 => some .f16 | 0x11 => some .bf16 | 0x12 => some .f32
  | 0x13 => some .f64 | 0x14 => some .e4m3 | 0x15 => some .e5m2 | 0x16 => some .e8m0 | _ => Option.none
def Ty.code : Ty → Nat
  | .none => 0x00 | .n4 => 0x01 | .i4 => 0x02 | .n8 => 0x03 | .i8 => 0x04 | .n12 => 0x05 | .i12 => 0x06 | .n16 => 0x07
  | .i16 => 0x08 | .n24 => 0x09 | .i24 => 0x0A | .n32 => 0x0B | .i32 => 0x0C | .n64 => 0x0D | .i64 => 0x0E | .f16 => 0x10
  | .bf16 => 0x11 | .f32 => 0x12 | .f64 => 0x13 | .e4m3 => 0x14 | .e5m2 => 0x15 | .e8m0 => 0x16

/-- RM codes (05 R106). -/
def Rm.ofCode (c : Nat) : Rm := match c with | 0 => .rne | 1 => .rtz | 2 => .rup | _ => .rdn
def Rm.code : Rm → Nat | .rne => 0 | .rtz => 1 | .rup => 2 | .rdn => 3

/-- SC codes (07 R153). -/
def Scope.ofCode (c : Nat) : Option Scope :=
  match c with | 0 => some .g | 1 => some .t | 2 => some .c | 3 => some .d | 4 => some .y | _ => none
def Scope.code : Scope → Nat | .g => 0 | .t => 1 | .c => 2 | .d => 3 | .y => 4

/-- ORD codes (07 R153). -/
def MOrd.ofCode (c : Nat) : MOrd := match c with | 0 => .none | 1 => .acq | 2 => .rel | _ => .ar
def MOrd.code : MOrd → Nat | .none => 0 | .acq => 1 | .rel => 2 | .ar => 3

/-- POL codes (07 R153). -/
def Pol.ofCode (c : Nat) : Pol := match c with | 0 => .record | 1 => .keep | 2 => .stream | _ => .bypass
def Pol.code : Pol → Nat | .record => 0 | .keep => 1 | .stream => 2 | .bypass => 3

/-- CND codes (07 R153). -/
def Cnd.ofCode (c : Nat) : Option Cnd :=
  match c with | 0 => some .eq | 1 => some .ne | 2 => some .lt | 3 => some .le | 4 => some .gt | 5 => some .ge | _ => none
def Cnd.code : Cnd → Nat | .eq => 0 | .ne => 1 | .lt => 2 | .le => 3 | .gt => 4 | .ge => 5

/-- FCND codes (07 R153). -/
def FCnd.ofCode (c : Nat) : FCnd :=
  match c with | 0 => .eq | 1 => .ne | 2 => .lt | 3 => .le | 4 => .gt | 5 => .ge | 6 => .un | _ => .num
def FCnd.code : FCnd → Nat | .eq => 0 | .ne => 1 | .lt => 2 | .le => 3 | .gt => 4 | .ge => 5 | .un => 6 | .num => 7

/-- AOP codes (07 R153). -/
def Aop.ofCode (c : Nat) : Option Aop :=
  match c with
  | 0 => some .add | 1 => some .min | 2 => some .max | 3 => some .and | 4 => some .or | 5 => some .xor | 6 => some .inc
  | 7 => some .dec | 8 => some .fadd | 9 => some .fmin | 10 => some .fmax | 11 => some .exch | 12 => some .cas | _ => none
def Aop.code : Aop → Nat
  | .add => 0 | .min => 1 | .max => 2 | .and => 3 | .or => 4 | .xor => 5 | .inc => 6 | .dec => 7 | .fadd => 8 | .fmin => 9
  | .fmax => 10 | .exch => 11 | .cas => 12

/-- H codes (07 R153). -/
def Had.ofCode (c : Nat) : Option Had := match c with | 0 => some .none | 1 => some .h16 | 2 => some .h32 | _ => Option.none
def Had.code : Had → Nat | .none => 0 | .h16 => 1 | .h32 => 2

/-- CLS codes (07 R153). -/
def Cls.ofCode (c : Nat) : Option Cls := match c with | 0 => some .fix | 1 => some .neg | 2 => some .loan | _ => none
def Cls.code : Cls → Nat | .fix => 0 | .neg => 1 | .loan => 2

/-- Control register numbers (18 R311, 24 R390). -/
def Cr.ofCode (c : Nat) : Option Cr :=
  match c with
  | 0x000 => some .status | 0x001 => some .tcause | 0x002 => some .tvec | 0x003 => some .tframe | 0x004 => some .sbase
  | 0x005 => some .slim | 0x006 => some .svec | 0x007 => some .svcerr | 0x010 => some .clock | 0x011 => some .timer
  | 0x012 => some .govb | 0x020 => some .rflag | 0x030 => some .ready | 0x040 => some .dbg | 0x041 => some .bp0
  | 0x042 => some .bp1 | 0x043 => some .bp2 | 0x044 => some .bp3 | 0x045 => some .dbgobj | 0x046 => some .stopped
  | 0x047 => some .resume | _ => none
def Cr.code : Cr → Nat
  | .status => 0x000 | .tcause => 0x001 | .tvec => 0x002 | .tframe => 0x003 | .sbase => 0x004 | .slim => 0x005 | .svec => 0x006
  | .svcerr => 0x007 | .clock => 0x010 | .timer => 0x011 | .govb => 0x012 | .rflag => 0x020 | .ready => 0x030 | .dbg => 0x040
  | .bp0 => 0x041 | .bp1 => 0x042 | .bp2 => 0x043 | .bp3 => 0x044 | .dbgobj => 0x045 | .stopped => 0x046 | .resume => 0x047

/-! Fields that several formats hold. -/

/-- A 13-bit stitch operand (03 R55). -/
def Opnd.ofField (f : Nat) : Opnd := { start := f / 8, w := WCode.ofCode (f % 8) }
def Opnd.field (o : Opnd) : Nat := 8 * o.start + o.w.code

/-- A predicate in a source position (07 R146). -/
def PSrc.ofField (f : Nat) : Option PSrc := if f < 64 then some { neg := bit f 5, n := f % 32 } else none
def PSrc.field (p : PSrc) : Nat := 32 * b2n p.neg + p.n

/-- A predicate in a destination position (07 R146). -/
def pdstOf (f : Nat) : Option Nat := if f < 32 then some f else none

/-- The switch marker and guard of a body word (07 R145). -/
def Hd.ofWord (w : Nat) : Option Hd :=
  if fld w 47 6 = 32 then none else some { sw := bit w 63, neg := bit w 52, pg := fld w 47 5 }

/-- A special-register number; 15 to 31 are reserved (07 R146). -/
def specialOf (f : Nat) : Option Nat := if f < 15 then some f else none

/-- A barrier field (07 R147). -/
def Bar.ofField (f : Nat) : Option Bar :=
  match f / 16 with
  | 0 => some (.team (f % 16))
  | 1 => if f % 16 < 8 then some (.cluster (f % 16)) else Option.none
  | 2 => if f % 16 < 4 then some (.grid (f % 16)) else Option.none
  | _ => if f % 16 = 0 then some .none else Option.none
def Bar.field : Bar → Nat
  | .team n => n
  | .cluster n => 16 + n
  | .grid n => 32 + n
  | .none => 48

/-- One field `v` of `n` bits below the fields `r`. -/
def cat (n v r : Nat) : Nat := v + 2 ^ n * r

/-- The upper seventeen bits of a body word: guard predicate, opcode and switch marker (07 R145). -/
def Hd.top (h : Hd) (op : Nat) : Nat := cat 5 h.pg (cat 1 (b2n h.neg) (cat 10 op (b2n h.sw)))

/-- The same with PG zero. -/
def topS (s : Bool) (op : Nat) : Nat := cat 6 0 (cat 10 op (b2n s))

/-! Formats (07 R148). -/

def f3 (h : Hd) (op d a b m8 : Nat) : Nat := cat 8 m8 (cat 13 b (cat 13 a (cat 13 d (h.top op))))
def fi12 (h : Hd) (op d a imm m9 : Nat) : Nat := cat 9 m9 (cat 12 imm (cat 13 a (cat 13 d (h.top op))))
def fi20 (h : Hd) (op d imm m14 : Nat) : Nat := cat 14 m14 (cat 20 imm (cat 13 d (h.top op)))
def fk (top kd ka kb imm m8 : Nat) : Nat := cat 8 m8 (cat 21 imm (cat 6 kb (cat 6 ka (cat 6 kd top))))
def fm (h : Hd) (op v q x imm m6 : Nat) : Nat := cat 6 m6 (cat 9 imm (cat 13 x (cat 6 q (cat 13 v (h.top op)))))
def fl (h : Hd) (op v a kb imm m6 : Nat) : Nat := cat 6 m6 (cat 9 imm (cat 6 kb (cat 13 a (cat 13 v (h.top op)))))
def fb (top off aux : Nat) : Nat := cat 22 aux (cat 25 off top)
def fx (h : Hd) (op ka kb kc br d m10 : Nat) : Nat :=
  cat 10 m10 (cat 13 d (cat 6 br (cat 6 kc (cat 6 kb (cat 6 ka (h.top op))))))
def fs (h : Hd) (op d cr ka imm m8 : Nat) : Nat := cat 8 m8 (cat 8 imm (cat 6 ka (cat 12 cr (cat 13 d (h.top op)))))

/-! Group 0x0: header, GRD, NOP, terminators (07 R149 to R151, 08 R165). -/

def Header.ofWord (w : Nat) : Option Header := do
  need (fld w 47 6 == 0)
  need (!bit w 63)
  need (fld w 12 4 ≤ 8)
  need (fld w 7 5 ≤ 16)
  need (fld w 0 5 == 0)
  some { guarded := bit w 46, len := fld w 40 6, stop := bit w 39, ord := fld w 19 20, grdn := fld w 16 3, bufn := fld w 12 4,
         wset := fld w 7 5, join := bit w 6, anch := bit w 5 }

def Header.word (x : Header) : Nat :=
  cat 5 0 (cat 1 (b2n x.anch) (cat 1 (b2n x.join) (cat 5 x.wset (cat 4 x.bufn (cat 3 x.grdn (cat 20 x.ord
    (cat 1 (b2n x.stop) (cat 6 x.len (cat 1 (b2n x.guarded) (topS false 0x001))))))))))

/-- A predicate in AUX22 (07 R150). -/
def auxPred (w : Nat) : PSrc := { neg := bit w 21, n := fld w 16 5 }

def GrdOp.ofWord (w : Nat) : Option GrdOp := do
  let hd ← Hd.ofWord w
  need (!hd.sw)
  need (fld w 0 16 == 0)
  some { hd, p := auxPred w, off := extS (fld w 22 25) 25 }

def GrdOp.word (x : GrdOp) : Nat := cat 16 0 (cat 5 x.p.n (cat 1 (b2n x.p.neg) (cat 25 (pat x.off 25) (x.hd.top 0x002))))

def NopOp.ofWord (w : Nat) : Option NopOp := do
  let hd ← Hd.ofWord w
  need (fld w 0 47 == 0)
  some { hd }

def NopOp.word (op : Nat) (x : NopOp) : Nat := cat 47 0 (x.hd.top op)

/-- Every terminator carries PG = 0 (07 R145). -/
def termPg (w : Nat) : Option Unit := need (fld w 47 6 == 0)

def TermOp.ofWord (w : Nat) : Option TermOp := do
  termPg w
  need (fld w 0 47 == 0)
  some { s := bit w 63 }

def TermOp.word (op : Nat) (x : TermOp) : Nat := fb (topS x.s op) 0 0

def JmpOp.ofWord (w : Nat) : Option JmpOp := do
  termPg w
  need (fld w 0 22 == 0)
  some { s := bit w 63, off := extS (fld w 22 25) 25 }

def JmpOp.word (x : JmpOp) : Nat := fb (topS x.s 0x009) (pat x.off 25) 0

/-- The second word of JSEL (07 R151). -/
def jselSecond (w : Nat) : Bool := !bit w 63 && opOf w == 0x03E && fld w 50 3 == 0

def JselOp.ofWords (w w2 : Nat) : Option JselOp := do
  termPg w
  need (fld w 0 16 == 0)
  need (jselSecond w2)
  some { s := bit w 63, p := auxPred w, t := extS (fld w 22 25) 25, f := extS (fld w2 25 25) 25, j := extS (fld w2 0 25) 25 }

def JselOp.words (x : JselOp) : List Nat :=
  [cat 16 0 (cat 5 x.p.n (cat 1 (b2n x.p.neg) (cat 25 (pat x.t 25) (topS x.s 0x00A)))),
   cat 25 (pat x.j 25) (cat 25 (pat x.f 25) (cat 3 0 0x03E))]

def TabOp.ofWord (w : Nat) : Option TabOp := do
  termPg w
  need (fld w 0 9 == 0)
  some { s := bit w 63, slot := fld w 22 25, idx := Opnd.ofField (fld w 9 13) }

def TabOp.word (op : Nat) (x : TabOp) : Nat := cat 9 0 (cat 13 x.idx.field (cat 25 x.slot (topS x.s op)))

def CallOp.ofWord (w : Nat) : Option CallOp := do
  termPg w
  need (fld w 0 9 == 0)
  some { s := bit w 63, off := extS (fld w 22 25) 25, link := Opnd.ofField (fld w 9 13) }

def CallOp.word (x : CallOp) : Nat := cat 9 0 (cat 13 x.link.field (cat 25 (pat x.off 25) (topS x.s 0x00C)))

def RetOp.ofWord (w : Nat) : Option RetOp := do
  termPg w
  need (fld w 0 9 == 0)
  need (fld w 22 25 == 0)
  some { s := bit w 63, ra := Opnd.ofField (fld w 9 13) }

def RetOp.word (x : RetOp) : Nat := cat 9 0 (cat 13 x.ra.field (cat 25 0 (topS x.s 0x00E)))

def LoopOp.ofWord (w : Nat) : Option LoopOp := do
  termPg w
  need (fld w 0 16 == 0)
  some { s := bit w 63, k := fld w 16 6, off := extS (fld w 22 25) 25 }

def LoopOp.word (x : LoopOp) : Nat := cat 16 0 (cat 6 x.k (cat 25 (pat x.off 25) (topS x.s 0x00F)))

def YieldOp.ofWord (w : Nat) : Option YieldOp := do
  termPg w
  need (fld w 0 14 == 0)
  if bit w 21 then do
    let b ← Bar.ofField (fld w 15 6)
    need b.waitOk
    some { s := bit w 63, off := extS (fld w 22 25) 25, on := .barrier b (bit w 14) }
  else do
    need (!bit w 14)
    some { s := bit w 63, off := extS (fld w 22 25) 25, on := .batch (fld w 15 6) }

def YieldOp.word (x : YieldOp) : Nat :=
  match x.on with
  | .batch k => cat 14 0 (cat 1 0 (cat 6 k (cat 1 0 (cat 25 (pat x.off 25) (topS x.s 0x011)))))
  | .barrier b ph => cat 14 0 (cat 1 (b2n ph) (cat 6 b.field (cat 1 1 (cat 25 (pat x.off 25) (topS x.s 0x011)))))

def BarwOp.ofWord (w : Nat) : Option BarwOp := do
  termPg w
  need (fld w 0 16 == 0)
  need (fld w 22 25 == 0)
  let b ← Bar.ofField (fld w 16 6)
  need b.waitOk
  some { s := bit w 63, bar := b }

def BarwOp.word (x : BarwOp) : Nat := cat 16 0 (cat 6 x.bar.field (cat 25 0 (topS x.s 0x012)))

def CosummOp.ofWord (w : Nat) : Option CosummOp := do
  termPg w
  need (fld w 0 16 == 0)
  need (fld w 22 25 == 0)
  some { s := bit w 63, k := fld w 16 6 }

def CosummOp.word (x : CosummOp) : Nat := cat 16 0 (cat 6 x.k (cat 25 0 (topS x.s 0x349)))

/-! Group 0x1 (F3, M8: TY, SAT, OWN). -/

/-- The D, A and B fields of F3. -/
def fD (w : Nat) : Nat := fld w 34 13
def fA (w : Nat) : Nat := fld w 21 13
def fB (w : Nat) : Nat := fld w 8 13

/-- An integer type (05 R101). -/
def intTy (c : Nat) : Option Ty := do
  let t ← Ty.ofCode c
  need t.isInt
  some t

/-- M8 of groups 0x1, 0x3 and 0x4 (07 R154). -/
def m8own (ty : Ty) (sat : Bool) (own : Nat) : Nat := cat 2 own (cat 1 (b2n sat) ty.code)

def IntOp.ofWord (w : Nat) : Option IntOp := do
  let hd ← Hd.ofWord w
  let ty ← intTy (fld w 3 5)
  need (fld w 0 2 == 0)
  some { hd, d := Opnd.ofField (fD w), a := Opnd.ofField (fA w), b := Opnd.ofField (fB w), ty, sat := bit w 2 }

def IntOp.word (op : Nat) (x : IntOp) : Nat := f3 x.hd op x.d.field x.a.field x.b.field (m8own x.ty x.sat 0)

def IntUn.ofWord (w : Nat) : Option IntUn := do
  let hd ← Hd.ofWord w
  let ty ← intTy (fld w 3 5)
  need (fld w 0 2 == 0)
  need (fB w == 0)
  some { hd, d := Opnd.ofField (fD w), a := Opnd.ofField (fA w), ty, sat := bit w 2 }

def IntUn.word (op : Nat) (x : IntUn) : Nat := f3 x.hd op x.d.field x.a.field 0 (m8own x.ty x.sat 0)

def CarryOp.ofWord (w : Nat) : Option CarryOp := do
  let hd ← Hd.ofWord w
  let ty ← intTy (fld w 3 5)
  need (!bit w 2)
  some { hd, d := Opnd.ofField (fD w), a := Opnd.ofField (fA w), b := Opnd.ofField (fB w), ty, c := fld w 0 2 }

def CarryOp.word (op : Nat) (x : CarryOp) : Nat := f3 x.hd op x.d.field x.a.field x.b.field (m8own x.ty false x.c)

def MovSrc.ofField (special : Bool) (f : Nat) : Option MovSrc :=
  if special then (specialOf f).map .special else some (.stitch (Opnd.ofField f))

def MovOp.ofWord (w : Nat) : Option MovOp := do
  let hd ← Hd.ofWord w
  let ty ← Ty.ofCode (fld w 3 5)
  need (ty.isInt || (ty == .none && !bit w 2))
  need (!bit w 1)
  need (fB w == 0)
  let src ← MovSrc.ofField (bit w 0) (fA w)
  some { hd, d := Opnd.ofField (fD w), src, ty, sat := bit w 2 }

def MovOp.word (x : MovOp) : Nat :=
  match x.src with
  | .stitch a => f3 x.hd 0x05D x.d.field a.field 0 (m8own x.ty x.sat 0)
  | .special n => f3 x.hd 0x05D x.d.field n 0 (m8own x.ty x.sat 1)

def CmpOp.ofWord (w : Nat) : Option CmpOp := do
  let hd ← Hd.ofWord w
  let ty ← intTy (fld w 3 5)
  let cnd ← Cnd.ofCode (fld w 0 3)
  let p ← pdstOf (fD w)
  some { hd, p, a := Opnd.ofField (fA w), b := Opnd.ofField (fB w), ty, cnd }

def CmpOp.word (x : CmpOp) : Nat := f3 x.hd 0x060 x.p x.a.field x.b.field (cat 3 x.cnd.code x.ty.code)

/-! Group 0x2 (FI12, FI20). -/

/-- The fields of an FI12 row, with IMM12 as its number. -/
def fi12Of (w : Nat) : Option ImmOp := do
  let hd ← Hd.ofWord w
  let ty ← intTy (fld w 4 5)
  need (fld w 0 3 == 0)
  some { hd, d := Opnd.ofField (fD w), a := Opnd.ofField (fA w), imm := (fld w 9 12 : Nat), ty, sat := bit w 3 }

/-- IMM12 signed (08 R177). -/
def ImmOp.ofWord (w : Nat) : Option ImmOp := do
  let x ← fi12Of w
  some { x with imm := extS (fld w 9 12) 12 }

/-- IMM12 unsigned, 0 to 63 (08 R177). -/
def ImmOp.ofShift (w : Nat) : Option ImmOp := do
  let x ← fi12Of w
  need (fld w 9 12 < 64)
  some x

def ImmOp.word (op : Nat) (x : ImmOp) : Nat :=
  fi12 x.hd op x.d.field x.a.field (pat x.imm 12) (cat 3 0 (cat 1 (b2n x.sat) x.ty.code))

def CmpIOp.ofWord (w : Nat) : Option CmpIOp := do
  let hd ← Hd.ofWord w
  let ty ← intTy (fld w 4 5)
  need (!bit w 3)
  let cnd ← Cnd.ofCode (fld w 0 3)
  let p ← pdstOf (fD w)
  some { hd, p, a := Opnd.ofField (fA w), imm := extS (fld w 9 12) 12, ty, cnd }

def CmpIOp.word (x : CmpIOp) : Nat :=
  fi12 x.hd 0x087 x.p x.a.field (pat x.imm 12) (cat 3 x.cnd.code (cat 1 0 x.ty.code))

def MovIOp.ofWord (w : Nat) : Option MovIOp := do
  let hd ← Hd.ofWord w
  let ty ← intTy (fld w 9 5)
  need (fld w 0 8 == 0)
  some { hd, d := Opnd.ofField (fD w), imm := fld w 14 20, ty, sat := bit w 8 }

/-- MOVHI accepts only .i32 and .n32 (08 R178). -/
def MovIOp.ofHi (w : Nat) : Option MovIOp := do
  let x ← MovIOp.ofWord w
  need x.ty.isWord
  some x

def MovIOp.word (op : Nat) (x : MovIOp) : Nat :=
  fi20 x.hd op x.d.field x.imm (cat 8 0 (cat 1 (b2n x.sat) x.ty.code))

/-! Group 0x3 (F3, TY and SAT zero). -/

/-- The common fields of group 0x3: TY and SAT are zero (08 "Predicate and cross-lane instructions"). -/
def g3Hd (w : Nat) : Option Hd := do
  need (fld w 2 6 == 0)
  Hd.ofWord w

def PLogicOp.ofWord (w : Nat) : Option PLogicOp := do
  let hd ← g3Hd w
  need (fld w 0 2 == 0)
  let p ← pdstOf (fD w)
  let a ← PSrc.ofField (fA w)
  let b ← PSrc.ofField (fB w)
  some { hd, p, a, b }

def PLogicOp.word (op : Nat) (x : PLogicOp) : Nat := f3 x.hd op x.p x.a.field x.b.field 0

def PNotOp.ofWord (w : Nat) : Option PNotOp := do
  let hd ← g3Hd w
  need (fld w 0 2 == 0)
  need (fB w == 0)
  let p ← pdstOf (fD w)
  let a ← PSrc.ofField (fA w)
  some { hd, p, a }

def PNotOp.word (x : PNotOp) : Nat := f3 x.hd 0x0C3 x.p x.a.field 0 0

def PSetOp.ofWord (w : Nat) : Option PSetOp := do
  let hd ← g3Hd w
  need (fld w 0 2 == 0)
  need (fD w == 0)
  some { hd, a := Opnd.ofField (fA w), m := Opnd.ofField (fB w) }

def PSetOp.word (x : PSetOp) : Nat := f3 x.hd 0x0C4 0 x.a.field x.m.field 0

def PGetOp.ofWord (w : Nat) : Option PGetOp := do
  let hd ← g3Hd w
  need (fld w 0 2 == 0)
  need (fA w == 0)
  need (fB w == 0)
  some { hd, d := Opnd.ofField (fD w) }

def PGetOp.word (x : PGetOp) : Nat := f3 x.hd 0x0C5 x.d.field 0 0 0

def VoteForm.ofField (own d : Nat) : Option VoteForm :=
  match own with
  | 0 => (pdstOf d).map .all
  | 1 => (pdstOf d).map .any
  | 2 => (pdstOf d).map .uni
  | _ => some (.ballot (Opnd.ofField d))

def VoteOp.ofWord (w : Nat) : Option VoteOp := do
  let hd ← g3Hd w
  need (fB w == 0)
  let form ← VoteForm.ofField (fld w 0 2) (fD w)
  let a ← PSrc.ofField (fA w)
  some { hd, form, a }

def VoteOp.word (x : VoteOp) : Nat :=
  match x.form with
  | .all p => f3 x.hd 0x0C6 p x.a.field 0 0
  | .any p => f3 x.hd 0x0C6 p x.a.field 0 1
  | .uni p => f3 x.hd 0x0C6 p x.a.field 0 2
  | .ballot d => f3 x.hd 0x0C6 d.field x.a.field 0 3

def ShflForm.ofCode (c : Nat) : ShflForm := match c with | 0 => .idx | 1 => .up | 2 => .down | _ => .xor
def ShflForm.code : ShflForm → Nat | .idx => 0 | .up => 1 | .down => 2 | .xor => 3

def ShflOp.ofWord (w : Nat) : Option ShflOp := do
  let hd ← g3Hd w
  some { hd, form := ShflForm.ofCode (fld w 0 2), d := Opnd.ofField (fD w), a := Opnd.ofField (fA w), b := Opnd.ofField (fB w) }

def ShflOp.word (x : ShflOp) : Nat := f3 x.hd 0x0C7 x.d.field x.a.field x.b.field x.form.code

def ElectOp.ofWord (w : Nat) : Option ElectOp := do
  let hd ← g3Hd w
  need (fld w 0 2 == 0)
  need (fB w == 0)
  let p ← pdstOf (fD w)
  let a ← PSrc.ofField (fA w)
  some { hd, p, a }

def ElectOp.word (x : ElectOp) : Nat := f3 x.hd 0x0C8 x.p x.a.field 0 0

def MovsOp.ofWord (w : Nat) : Option MovsOp := do
  let hd ← g3Hd w
  need (fB w == 0)
  need (!bit w 1)
  let sr ← specialOf (fA w)
  some { hd, d := Opnd.ofField (fD w), sr, clr := bit w 0 }

def MovsOp.word (x : MovsOp) : Nat := f3 x.hd 0x0C9 x.d.field x.sr 0 (b2n x.clr)

/-! Group 0x4 (FK). -/

def fKD (w : Nat) : Nat := fld w 41 6
def fKA (w : Nat) : Nat := fld w 35 6
def fKB (w : Nat) : Nat := fld w 29 6
def fImm21 (w : Nat) : Nat := fld w 8 21

/-- The second operand of a uniform instruction (08 R185). -/
def KSrc.ofWord (w : Nat) : Option KSrc :=
  if bit w 0 then do
    need (fKB w == 0)
    some (.imm (extS (fImm21 w) 21))
  else do
    need (fImm21 w == 0)
    some (.reg (fKB w))

def KBinOp.ofWord (w : Nat) : Option KBinOp := do
  need (fld w 47 6 == 0)
  let ty ← intTy (fld w 3 5)
  need (!bit w 1)
  let x ← KSrc.ofWord w
  some { sw := bit w 63, kd := fKD w, ka := fKA w, x, ty, sat := bit w 2 }

def KBinOp.word (op : Nat) (x : KBinOp) : Nat :=
  match x.x with
  | .reg k => fk (topS x.sw op) x.kd x.ka k 0 (m8own x.ty x.sat 0)
  | .imm v => fk (topS x.sw op) x.kd x.ka 0 (pat v 21) (m8own x.ty x.sat 1)

def KMovOp.ofWord (w : Nat) : Option KMovOp := do
  need (fld w 47 6 == 0)
  let ty ← intTy (fld w 3 5)
  need (fld w 0 2 == 0)
  need (fKA w == 0)
  need (fKB w == 0)
  some { sw := bit w 63, kd := fKD w, imm := fImm21 w, ty, sat := bit w 2 }

def KMovOp.ofHi (w : Nat) : Option KMovOp := do
  let x ← KMovOp.ofWord w
  need x.ty.isWord
  need (x.imm < 2 ^ 20)
  some x

def KMovOp.word (op : Nat) (x : KMovOp) : Nat := fk (topS x.sw op) x.kd 0 0 x.imm (m8own x.ty x.sat 0)

def KFromOp.ofWord (w : Nat) : Option KFromOp := do
  let hd ← Hd.ofWord w
  let ty ← intTy (fld w 3 5)
  need (fld w 0 2 == 0)
  need (fKA w == 0)
  need (fKB w == 0)
  need (fld w 21 8 == 0)
  some { hd, kd := fKD w, a := Opnd.ofField (fld w 8 13), ty, sat := bit w 2 }

def KFromOp.word (x : KFromOp) : Nat := fk (x.hd.top 0x109) x.kd 0 0 x.a.field (m8own x.ty x.sat 0)

def KToOp.ofWord (w : Nat) : Option KToOp := do
  let hd ← Hd.ofWord w
  let ty ← intTy (fld w 3 5)
  need (fld w 0 2 == 0)
  need (fKD w == 0)
  need (fKB w == 0)
  need (fld w 21 8 == 0)
  some { hd, d := Opnd.ofField (fld w 8 13), ka := fKA w, ty, sat := bit w 2 }

def KToOp.word (x : KToOp) : Nat := fk (x.hd.top 0x10A) 0 x.ka 0 x.d.field (m8own x.ty x.sat 0)

/-- The second operand of KCMP (08 R186). -/
def KSrc.ofCmp (w : Nat) : Option KSrc :=
  if bit w 28 then do
    need (fKB w == 0)
    some (.imm (extS (fld w 8 20) 20))
  else do
    need (fld w 8 20 == 0)
    some (.reg (fKB w))

def KCmpOp.ofWord (w : Nat) : Option KCmpOp := do
  let hd ← Hd.ofWord w
  let ty ← intTy (fld w 3 5)
  let cnd ← Cnd.ofCode (fld w 0 3)
  let p ← pdstOf (fKD w)
  let x ← KSrc.ofCmp w
  some { hd, p, ka := fKA w, x, ty, cnd }

def KCmpOp.word (x : KCmpOp) : Nat :=
  let m8 := cat 3 x.cnd.code x.ty.code
  match x.x with
  | .reg k => fk (x.hd.top 0x10B) x.p x.ka k 0 m8
  | .imm v => fk (x.hd.top 0x10B) x.p x.ka 0 (cat 20 (pat v 20) 1) m8

/-! Groups 0x5 and 0x6 (F3; 07 R154, 09 R189). -/

/-- A scalar float type, with FTZ only where the type accepts it (09 R189). -/
def floatTy (w : Nat) : Option Ty := do
  let t ← Ty.ofCode (fld w 3 5)
  need t.isScalarF
  need (!bit w 0 || t.ftzOk)
  some t

def m8f (ty : Ty) (rm : Rm) (low : Bool) : Nat := cat 1 (b2n low) (cat 2 rm.code ty.code)

def FOp.ofWord (w : Nat) : Option FOp := do
  let hd ← Hd.ofWord w
  let ty ← floatTy w
  some { hd, d := Opnd.ofField (fD w), a := Opnd.ofField (fA w), b := Opnd.ofField (fB w), ty, rm := Rm.ofCode (fld w 1 2),
         ftz := bit w 0 }

def FOp.word (op : Nat) (x : FOp) : Nat := f3 x.hd op x.d.field x.a.field x.b.field (m8f x.ty x.rm x.ftz)

/-- FDIV: .f32 and .f64 alone (09 R189). -/
def FOp.ofDiv (w : Nat) : Option FOp := do
  let x ← FOp.ofWord w
  need x.ty.ftzOk
  some x

def FUnOp.ofWord (w : Nat) : Option FUnOp := do
  let hd ← Hd.ofWord w
  let ty ← floatTy w
  need (fB w == 0)
  some { hd, d := Opnd.ofField (fD w), a := Opnd.ofField (fA w), ty, rm := Rm.ofCode (fld w 1 2), ftz := bit w 0 }

/-- FRCP, FRSQ, FSQRT: .f32 and .f64 alone (09 R189). -/
def FUnOp.ofSpecial (w : Nat) : Option FUnOp := do
  let x ← FUnOp.ofWord w
  need x.ty.ftzOk
  some x

def FUnOp.word (op : Nat) (x : FUnOp) : Nat := f3 x.hd op x.d.field x.a.field 0 (m8f x.ty x.rm x.ftz)

def FMmOp.ofWord (w : Nat) : Option FMmOp := do
  let hd ← Hd.ofWord w
  let ty ← floatTy w
  need (fld w 1 2 == 0)
  some { hd, d := Opnd.ofField (fD w), a := Opnd.ofField (fA w), b := Opnd.ofField (fB w), ty, ftz := bit w 0 }

def FMmOp.word (op : Nat) (x : FMmOp) : Nat := f3 x.hd op x.d.field x.a.field x.b.field (m8f x.ty .rne x.ftz)

def FCmpOp.ofWord (w : Nat) : Option FCmpOp := do
  let hd ← Hd.ofWord w
  let ty ← Ty.ofCode (fld w 3 5)
  need ty.isScalarF
  let p ← pdstOf (fD w)
  some { hd, p, a := Opnd.ofField (fA w), b := Opnd.ofField (fB w), ty, cnd := FCnd.ofCode (fld w 0 3) }

def FCmpOp.word (x : FCmpOp) : Nat := f3 x.hd 0x146 x.p x.a.field x.b.field (cat 3 x.cnd.code x.ty.code)

def FClassOp.ofWord (w : Nat) : Option FClassOp := do
  let hd ← Hd.ofWord w
  let ty ← Ty.ofCode (fld w 3 5)
  need ty.isScalarF
  need (fld w 0 3 == 0)
  need (fB w == 0)
  some { hd, d := Opnd.ofField (fD w), a := Opnd.ofField (fA w), ty }

def FClassOp.word (x : FClassOp) : Nat := f3 x.hd 0x148 x.d.field x.a.field 0 (cat 3 0 x.ty.code)

/-- Packed and FP8 rows, with the types `ok` (09 R189). -/
def FPkOp.ofWord (ok : Ty → Bool) (w : Nat) : Option FPkOp := do
  let hd ← Hd.ofWord w
  let ty ← Ty.ofCode (fld w 3 5)
  need (ok ty)
  need (!bit w 0)
  some { hd, d := Opnd.ofField (fD w), a := Opnd.ofField (fA w), b := Opnd.ofField (fB w), ty, rm := Rm.ofCode (fld w 1 2) }

def FPkOp.word (op : Nat) (x : FPkOp) : Nat := f3 x.hd op x.d.field x.a.field x.b.field (m8f x.ty x.rm false)

def Ty.isHalf (t : Ty) : Bool := t == .f16 || t == .bf16
def Ty.isFp8 (t : Ty) : Bool := t == .e4m3 || t == .e5m2

def FTransOp.ofWord (w : Nat) : Option FTransOp := do
  let hd ← Hd.ofWord w
  need (fld w 3 5 == 0x12)
  need (fld w 1 2 == 0)
  need (fB w == 0)
  some { hd, d := Opnd.ofField (fD w), a := Opnd.ofField (fA w), ftz := bit w 0 }

def FTransOp.word (op : Nat) (x : FTransOp) : Nat := f3 x.hd op x.d.field x.a.field 0 (m8f .f32 .rne x.ftz)

/-- CVT and CVTI with the pairs `ok`, destination first (09 R196, R197). -/
def CvtOp.ofWord (ok : Ty → Ty → Bool) (w : Nat) : Option CvtOp := do
  let hd ← Hd.ofWord w
  let dst ← Ty.ofCode (fld w 3 5)
  need (fld w 13 8 == 0)
  let src ← Ty.ofCode (fld w 8 5)
  need (ok dst src)
  some { hd, d := Opnd.ofField (fD w), a := Opnd.ofField (fA w), dst, src, rm := Rm.ofCode (fld w 1 2), sat := bit w 0 }

def CvtOp.word (op : Nat) (x : CvtOp) : Nat := f3 x.hd op x.d.field x.a.field x.src.code (m8f x.dst x.rm x.sat)

/-- M8 of the block rows (07 R154). -/
def m8blk (h : Had) (bf bl : Bool) : Nat := cat 4 0 (cat 1 (b2n bl) (cat 1 (b2n bf) h.code))

def QblkOp.ofWord (w : Nat) : Option QblkOp := do
  let hd ← Hd.ofWord w
  need (fld w 0 4 == 0)
  let h ← Had.ofCode (fld w 6 2)
  need (!(h == .h32 && bit w 4))
  some { hd, d := Opnd.ofField (fD w), sc := Opnd.ofField (fB w), a := Opnd.ofField (fA w), h, bx4 := bit w 5, b16 := bit w 4 }

def QblkOp.word (x : QblkOp) : Nat := f3 x.hd 0x18A x.d.field x.a.field x.sc.field (m8blk x.h x.bx4 x.b16)

def DqOp.ofWord (w : Nat) : Option DqOp := do
  let hd ← Hd.ofWord w
  need (fld w 0 5 == 0)
  need (fld w 6 2 == 0)
  some { hd, d := Opnd.ofField (fD w), a := Opnd.ofField (fA w), b := Opnd.ofField (fB w), bx4 := bit w 5 }

def DqOp.word (op : Nat) (x : DqOp) : Nat := f3 x.hd op x.d.field x.a.field x.b.field (m8blk .none x.bx4 false)

def HadOp.ofWord (w : Nat) : Option HadOp := do
  let hd ← Hd.ofWord w
  need (fld w 0 6 == 0)
  need (fB w == 0)
  need (fld w 6 2 == 1 || fld w 6 2 == 2)
  some { hd, d := Opnd.ofField (fD w), a := Opnd.ofField (fA w), h32 := fld w 6 2 == 2 }

def HadOp.word (x : HadOp) : Nat := f3 x.hd 0x18D x.d.field x.a.field 0 (m8blk (if x.h32 then .h32 else .h16) false false)

/-! Group 0x8 (FM; 07 R156, 10 R209 to R222). -/

def fQ (w : Nat) : Nat := fld w 28 6
def fX (w : Nat) : Nat := fld w 15 13
def fImm9 (w : Nat) : Int := extS (fld w 6 9) 9
def fAux3 (w : Nat) : Nat := fld w 53 3

/-- M6 of groups 0x8 and 0x9. -/
def m6 (ty : Ty) (low : Bool) : Nat := cat 1 (b2n low) ty.code

/-- A type of a native memory instruction, among `ok`. -/
def memTy (ok : Ty → Bool) (w : Nat) : Option Ty := do
  let t ← Ty.ofCode (fld w 1 5)
  need (ok t)
  some t

def LdOp.ofWord (ok : Ty → Bool) (w : Nat) : Option LdOp := do
  let hd ← Hd.ofWord w
  let ty ← memTy ok w
  need (!bit w 0)
  need (fAux3 w < 4)
  some { hd, v := Opnd.ofField (fD w), q := fQ w, x := Opnd.ofField (fX w), imm := fImm9 w, ty, pol := Pol.ofCode (fAux3 w) }

def LdOp.word (op : Nat) (x : LdOp) : Nat := fm x.hd (op + x.pol.code) x.v.field x.q x.x.field (pat x.imm 9) (m6 x.ty false)

def StMode.ofWord (w : Nat) : Option StMode :=
  if bit w 0 then (Scope.ofCode (fAux3 w)).map .rel
  else if fAux3 w < 4 then some (.plain (Pol.ofCode (fAux3 w))) else none

def StOp.ofWord (ok : Ty → Bool) (w : Nat) : Option StOp := do
  let hd ← Hd.ofWord w
  let ty ← memTy ok w
  let mode ← StMode.ofWord w
  some { hd, v := Opnd.ofField (fD w), q := fQ w, x := Opnd.ofField (fX w), imm := fImm9 w, ty, mode }

def StOp.word (op : Nat) (x : StOp) : Nat :=
  match x.mode with
  | .plain p => fm x.hd (op + p.code) x.v.field x.q x.x.field (pat x.imm 9) (m6 x.ty false)
  | .rel s => fm x.hd (op + s.code) x.v.field x.q x.x.field (pat x.imm 9) (m6 x.ty true)

def ScMemOp.ofWord (w : Nat) : Option ScMemOp := do
  let hd ← Hd.ofWord w
  let ty ← memTy Ty.isMem w
  let sc ← Scope.ofCode (fAux3 w)
  some { hd, v := Opnd.ofField (fD w), q := fQ w, x := Opnd.ofField (fX w), imm := fImm9 w, ty, sc }

def ScMemOp.word (op : Nat) (sem : Bool) (x : ScMemOp) : Nat :=
  fm x.hd (op + x.sc.code) x.v.field x.q x.x.field (pat x.imm 9) (m6 x.ty sem)

def RecldOp.ofWord (w : Nat) : Option RecldOp := do
  let hd ← Hd.ofWord w
  need (fld w 0 15 == 0)
  need (fD w == 0)
  some { hd, q := fQ w, x := Opnd.ofField (fX w) }

def RecldOp.word (x : RecldOp) : Nat := fm x.hd 0x230 0 x.q x.x.field 0 0

def RecinvOp.ofWord (w : Nat) : Option RecinvOp := do
  let hd ← Hd.ofWord w
  need (fld w 0 28 == 0)
  need (fD w == 0)
  some { hd, q := fQ w }

def RecinvOp.word (x : RecinvOp) : Nat := fm x.hd 0x231 0 x.q 0 0 0

def PrefOp.ofWord (w : Nat) : Option PrefOp := do
  let hd ← Hd.ofWord w
  let ty ← memTy Ty.isMem w
  need (!bit w 0)
  need (fD w == 0)
  some { hd, q := fQ w, x := Opnd.ofField (fX w), imm := fImm9 w, ty }

def PrefOp.word (op : Nat) (x : PrefOp) : Nat := fm x.hd op 0 x.q x.x.field (pat x.imm 9) (m6 x.ty false)

/-! Group 0x9 (FL; 07 R157, 10 R214, R215). -/

def fKB9 (w : Nat) : Nat := fld w 15 6

def SpadOp.ofWord (w : Nat) : Option SpadOp := do
  let hd ← Hd.ofWord w
  let ty ← memTy Ty.isBarord w
  need (fld w 53 2 == 0)
  some { hd, v := Opnd.ofField (fD w), a := Opnd.ofField (fA w), kb := fKB9 w, imm := fImm9 w, ty, vec := bit w 0 }

def SpadOp.word (op : Nat) (x : SpadOp) : Nat := fl x.hd op x.v.field x.a.field x.kb (pat x.imm 9) (m6 x.ty x.vec)

def BarordOp.ofWord (w : Nat) : Option BarordOp := do
  let hd ← Hd.ofWord w
  let ty ← memTy Ty.isBarord w
  some { hd, v := Opnd.ofField (fD w), a := Opnd.ofField (fA w), kb := fKB9 w, imm := fImm9 w, ty, vec := bit w 0,
         pol := Pol.ofCode (fld w 53 2) }

def BarordOp.word (op : Nat) (x : BarordOp) : Nat :=
  fl x.hd (op + x.pol.code) x.v.field x.a.field x.kb (pat x.imm 9) (m6 x.ty x.vec)

/-! Group 0xA (07 R154, R157, 10 R221, R223). -/

/-- M15 (07 R154). -/
def m15 (ty : Ty) (sc : Scope) (ord : MOrd) (ordm bypass : Bool) : Nat :=
  cat 2 0 (cat 2 (if bypass then 3 else 0) (cat 1 (b2n ordm) (cat 2 ord.code (cat 3 sc.code ty.code))))

def AtomOp.ofWord (w : Nat) : Option AtomOp := do
  let hd ← Hd.ofWord w
  let aop ← Aop.ofCode (fld w 53 4)
  let ty ← Ty.ofCode (fld w 10 5)
  need (aop.accepts ty)
  let sc ← Scope.ofCode (fld w 7 3)
  need (!bit w 4)
  need (fld w 2 2 == 0 || fld w 2 2 == 3)
  need (fld w 0 2 == 0)
  some { hd, aop, v := Opnd.ofField (fD w), q := fQ w, x := Opnd.ofField (fX w), ty, sc, ord := MOrd.ofCode (fld w 5 2),
         bypass := fld w 2 2 == 3 }

def AtomOp.word (x : AtomOp) : Nat :=
  cat 15 (m15 x.ty x.sc x.ord false x.bypass) (cat 13 x.x.field (cat 6 x.q (cat 13 x.v.field (x.hd.top (0x280 + x.aop.code)))))

def RedOp.ofWord (w : Nat) : Option RedOp := do
  let hd ← Hd.ofWord w
  let aop ← Aop.ofCode (fld w 53 4)
  need aop.isRed
  let ty ← Ty.ofCode (fld w 10 5)
  need (aop.accepts ty)
  let sc ← Scope.ofCode (fld w 7 3)
  need (fld w 5 2 == 0 || fld w 5 2 == 2)
  need (fld w 2 2 == 0 || fld w 2 2 == 3)
  need (fld w 0 2 == 0)
  some { hd, aop, v := Opnd.ofField (fD w), q := fQ w, x := Opnd.ofField (fX w), ty, sc, rel := fld w 5 2 == 2, ordm := bit w 4,
         bypass := fld w 2 2 == 3 }

def RedOp.word (x : RedOp) : Nat :=
  cat 15 (m15 x.ty x.sc (if x.rel then .rel else .none) x.ordm x.bypass)
    (cat 13 x.x.field (cat 6 x.q (cat 13 x.v.field (x.hd.top (0x290 + x.aop.code)))))

def AtomsOp.ofWord (w : Nat) : Option AtomsOp := do
  let hd ← Hd.ofWord w
  let aop ← Aop.ofCode (fld w 53 4)
  let ty ← Ty.ofCode (fld w 1 5)
  need (aop.accepts ty)
  need (!bit w 0)
  some { hd, aop, v := Opnd.ofField (fD w), a := Opnd.ofField (fA w), kb := fKB9 w, imm := fImm9 w, ty }

/-- REDS has no exch and no cas (07 R157). -/
def AtomsOp.ofReds (w : Nat) : Option AtomsOp := do
  let x ← AtomsOp.ofWord w
  need x.aop.isRed
  some x

def AtomsOp.word (op : Nat) (x : AtomsOp) : Nat :=
  fl x.hd (op + x.aop.code) x.v.field x.a.field x.kb (pat x.imm 9) (m6 x.ty false)

def FenceOp.ofWord (w : Nat) : Option FenceOp := do
  let hd ← Hd.ofWord w
  need (fld w 8 39 == 0)
  need (fld w 0 3 == 0)
  need (!(fld w 3 2 == 0))
  let sc ← Scope.ofCode (fld w 5 3)
  some { hd, sc, ord := MOrd.ofCode (fld w 3 2) }

def FenceOp.word (x : FenceOp) : Nat := fs x.hd 0x2BF 0 0 0 0 (cat 3 0 (cat 2 x.ord.code x.sc.code))

/-! Groups 0xB, 0xC and 0xD (FX; 11 R233, 12 R265, 13 R278). -/

def xKA (w : Nat) : Nat := fld w 41 6
def xKB (w : Nat) : Nat := fld w 35 6
def xKC (w : Nat) : Nat := fld w 29 6
def xBR (w : Nat) : Nat := fld w 23 6
def xD (w : Nat) : Nat := fld w 10 13

/-- The barrier of a command (12 R262, 13 R278). -/
def cmdBar (w : Nat) : Option Bar := do
  let b ← Bar.ofField (xBR w)
  need b.cmdOk
  some b

def ChargeOp.ofWord (w : Nat) : Option ChargeOp := do
  let hd ← Hd.ofWord w
  let bar ← cmdBar w
  need (xD w == 0)
  need (fld w 0 8 == 0)
  need (bit w 9 || !bit w 8)
  some { hd, place := xKA w, fmt := xKB w, kq := xKC w, bar, tw := bit w 9, n1024 := bit w 8 }

def ChargeOp.word (x : ChargeOp) : Nat :=
  fx x.hd 0x2C0 x.place x.fmt x.kq x.bar.field 0 (cat 8 0 (cat 1 (b2n x.n1024) (b2n x.tw)))

def MmaOp.ofWord (w : Nat) : Option MmaOp := do
  let hd ← Hd.ofWord w
  let bar ← cmdBar w
  need (xD w == 0)
  need (fld w 0 9 == 0)
  some { hd, cmd := xKA w, fmt := xKB w, kq := xKC w, bar, tw := bit w 9 }

def MmaOp.word (x : MmaOp) : Nat := fx x.hd 0x2C1 x.cmd x.fmt x.kq x.bar.field 0 (cat 9 0 (b2n x.tw))

def AcczOp.ofWord (w : Nat) : Option AcczOp := do
  let hd ← Hd.ofWord w
  need (fld w 35 12 == 0)
  need (fld w 10 19 == 0)
  need (fld w 0 9 == 0)
  some { hd, kq := xKC w, tw := bit w 9 }

def AcczOp.word (x : AcczOp) : Nat := fx x.hd 0x2C2 0 0 x.kq 0 0 (cat 9 0 (b2n x.tw))

def AccldOp.ofWord (w : Nat) : Option AccldOp := do
  let hd ← Hd.ofWord w
  need (xKB w == 0)
  need (fld w 0 29 == 0)
  some { hd, place := xKA w, kq := xKC w }

def AccldOp.word (x : AccldOp) : Nat := fx x.hd 0x2C3 x.place 0 x.kq 0 0 0

def AccstOp.ofWord (w : Nat) : Option AccstOp := do
  let hd ← Hd.ofWord w
  need (xKB w == 0)
  need (fld w 10 19 == 0)
  need (fld w 8 2 == 0)
  need (fld w 0 6 == 0)
  some { hd, place := xKA w, kq := xKC w, rm := Rm.ofCode (fld w 6 2) }

def AccstOp.word (x : AccstOp) : Nat := fx x.hd 0x2C4 x.place 0 x.kq 0 0 (cat 6 0 (cat 2 x.rm.code 0))

def AccqOp.ofWord (w : Nat) : Option AccqOp := do
  let hd ← Hd.ofWord w
  need (fld w 6 23 == 0)
  need (fld w 0 4 == 0)
  some { hd, place := xKA w, sc := xKB w, kq := xKC w, bx4 := bit w 5, b16 := bit w 4 }

def AccqOp.word (x : AccqOp) : Nat :=
  fx x.hd 0x2C5 x.place x.sc x.kq 0 0 (cat 4 0 (cat 1 (b2n x.b16) (b2n x.bx4)))

def MsyncOp.ofWord (w : Nat) : Option MsyncOp := do
  let hd ← Hd.ofWord w
  need (fld w 35 12 == 0)
  need (xBR w == 0)
  need (fld w 0 9 == 0)
  some { hd, d := Opnd.ofField (xD w), kq := xKC w, tw := bit w 9 }

def MsyncOp.word (x : MsyncOp) : Nat := fx x.hd 0x2C6 0 0 x.kq 0 x.d.field (cat 9 0 (b2n x.tw))

def CpyOp.ofWord (w : Nat) : Option CpyOp := do
  let hd ← Hd.ofWord w
  let bar ← cmdBar w
  need (fld w 0 23 == 0)
  some { hd, kl := xKA w, kbox := xKB w, ksp := xKC w, bar }

def CpyOp.word (op : Nat) (x : CpyOp) : Nat := fx x.hd op x.kl x.kbox x.ksp x.bar.field 0 0

def CpyrdOp.ofWord (w : Nat) : Option CpyrdOp := do
  let hd ← Hd.ofWord w
  let bar ← cmdBar w
  need (xD w == 0)
  let aop ← Aop.ofCode (fld w 6 4)
  need aop.isCopy
  let ty ← Ty.ofCode (fld w 1 5)
  need (aop.accepts ty)
  need (!bit w 0)
  some { hd, kl := xKA w, kbox := xKB w, ksp := xKC w, bar, aop, ty }

def CpyrdOp.word (x : CpyrdOp) : Nat :=
  fx x.hd 0x302 x.kl x.kbox x.ksp x.bar.field 0 (cat 1 0 (cat 5 x.ty.code x.aop.code))

def DstOp.ofWord (w : Nat) : Option DstOp := do
  let hd ← Hd.ofWord w
  need (fld w 23 24 == 0)
  need (fld w 0 10 == 0)
  some { hd, d := Opnd.ofField (xD w) }

def DstOp.word (op : Nat) (x : DstOp) : Nat := fx x.hd op 0 0 0 0 x.d.field 0

def KOp.ofWord (w : Nat) : Option KOp := do
  let hd ← Hd.ofWord w
  need (fld w 0 41 == 0)
  some { hd, k := xKA w }

def KOp.word (op : Nat) (x : KOp) : Nat := fx x.hd op x.k 0 0 0 0 0

def BtestOp.ofWord (w : Nat) : Option BtestOp := do
  let hd ← Hd.ofWord w
  need (fld w 23 18 == 0)
  need (fld w 0 10 == 0)
  let p ← pdstOf (xD w)
  some { hd, p, k := xKA w }

def BtestOp.word (x : BtestOp) : Nat := fx x.hd 0x306 x.k 0 0 0 x.p 0

/-- A team barrier by its number, alone in BR. -/
def teamBar (w : Nat) : Option Nat :=
  match Bar.ofField (xBR w) with
  | some (.team n) => some n
  | _ => none

def BarKOp.ofWord (w : Nat) : Option BarKOp := do
  let hd ← Hd.ofWord w
  need (fld w 29 12 == 0)
  need (fld w 0 23 == 0)
  let b ← teamBar w
  some { hd, b, k := xKA w }

def BarKOp.word (op : Nat) (x : BarKOp) : Nat := fx x.hd op x.k 0 0 x.b 0 0

/-- A barrier of the class of a word, alone in the body. -/
def BarOp.ofWord (sel : Bar → Option Nat) (w : Nat) : Option BarOp := do
  let hd ← Hd.ofWord w
  need (fld w 29 18 == 0)
  need (fld w 0 23 == 0)
  let b ← Bar.ofField (xBR w)
  let n ← sel b
  some { hd, n }

def Bar.asTeam : Bar → Option Nat | .team n => some n | .cluster _ => Option.none | .grid _ => Option.none | .none => Option.none
def Bar.asCluster : Bar → Option Nat | .cluster n => some n | .team _ => Option.none | .grid _ => Option.none | .none => Option.none
def Bar.asGrid : Bar → Option Nat | .grid n => some n | .team _ => Option.none | .cluster _ => Option.none | .none => Option.none

def BarOp.word (op cls : Nat) (x : BarOp) : Nat := fx x.hd op 0 0 0 (cls * 16 + x.n) 0 0

def BartstOp.ofWord (w : Nat) : Option BartstOp := do
  let hd ← Hd.ofWord w
  need (fld w 35 12 == 0)
  need (fld w 30 5 == 0)
  need (fld w 0 10 == 0)
  let bar ← Bar.ofField (xBR w)
  need bar.waitOk
  let p ← pdstOf (xD w)
  some { hd, p, bar, ph := bit w 29 }

def BartstOp.word (x : BartstOp) : Nat := fx x.hd 0x30A 0 0 (b2n x.ph) x.bar.field x.p 0

def WaitmOp.ofWord (w : Nat) : Option WaitmOp := do
  let hd ← Hd.ofWord w
  need (fld w 0 35 == 0)
  some { hd, ka := xKA w, kv := xKB w }

def WaitmOp.word (x : WaitmOp) : Nat := fx x.hd 0x30E x.ka x.kv 0 0 0 0

def LnchOp.ofWord (w : Nat) : Option LnchOp := do
  let hd ← Hd.ofWord w
  need (fld w 23 12 == 0)
  need (fld w 0 10 == 0)
  some { hd, d := Opnd.ofField (xD w), kblk := xKA w, kq := xKB w }

def LnchOp.word (x : LnchOp) : Nat := fx x.hd 0x310 x.kblk x.kq 0 0 x.d.field 0

def SpawnOp.ofWord (w : Nat) : Option SpawnOp := do
  let hd ← Hd.ofWord w
  need (fld w 23 12 == 0)
  need (fld w 0 10 == 0)
  some { hd, ke := xKA w, d := Opnd.ofField (xD w), kn := xKB w }

def SpawnOp.word (x : SpawnOp) : Nat := fx x.hd 0x340 x.ke x.kn 0 0 x.d.field 0

def ClaimOp.ofWord (w : Nat) : Option ClaimOp := do
  let hd ← Hd.ofWord w
  need (xBR w == 0)
  let p ← pdstOf (xKC w)
  let cls ← Cls.ofCode (fld w 8 2)
  need (fld w 0 7 == 0)
  some { hd, d := Opnd.ofField (xD w), p, ksum := xKB w, ktile := xKA w, cls, nb := bit w 7 }

def ClaimOp.word (x : ClaimOp) : Nat :=
  fx x.hd 0x341 x.ktile x.ksum x.p 0 x.d.field (cat 7 0 (cat 1 (b2n x.nb) x.cls.code))

def CoregOp.ofWord (w : Nat) : Option CoregOp := do
  let hd ← Hd.ofWord w
  need (fld w 0 35 == 0)
  some { hd, kentry := xKA w, kbound := xKB w }

def CoregOp.word (x : CoregOp) : Nat := fx x.hd 0x343 x.kentry x.kbound 0 0 0 0

def TileqOp.ofWord (w : Nat) : Option TileqOp := do
  let hd ← Hd.ofWord w
  need (fld w 23 12 == 0)
  need (fld w 0 10 == 0)
  some { hd, d := Opnd.ofField (xD w), ksum := xKB w, ktile := xKA w }

def TileqOp.word (x : TileqOp) : Nat := fx x.hd 0x344 x.ktile x.ksum 0 0 x.d.field 0

/-! Group 0xE (FS; 18 R310). -/

def sCR (w : Nat) : Nat := fld w 22 12
def sKA (w : Nat) : Nat := fld w 16 6
def sIMM (w : Nat) : Nat := fld w 8 8

def TrapiOp.ofWord (w : Nat) : Option TrapiOp := do
  let hd ← Hd.ofWord w
  need (fld w 16 31 == 0)
  need (fld w 0 8 == 0)
  some { hd, code := sIMM w }

def TrapiOp.word (x : TrapiOp) : Nat := fs x.hd 0x380 0 0 0 x.code 0

def CtlrOp.ofWord (w : Nat) : Option CtlrOp := do
  let hd ← Hd.ofWord w
  need (fld w 0 22 == 0)
  let cr ← Cr.ofCode (sCR w)
  some { hd, d := Opnd.ofField (fD w), cr }

def CtlrOp.word (x : CtlrOp) : Nat := fs x.hd 0x382 x.d.field x.cr.code 0 0 0

def CtlwOp.ofWord (w : Nat) : Option CtlwOp := do
  let hd ← Hd.ofWord w
  need (fD w == 0)
  need (fld w 0 16 == 0)
  let cr ← Cr.ofCode (sCR w)
  some { hd, cr, k := sKA w }

def CtlwOp.word (x : CtlwOp) : Nat := fs x.hd 0x383 0 x.cr.code x.k 0 0

/-- CTLW by its register: the rows CTLW, TIMER_WRITE, RFLAG_CLEAR and RESUME_WRITE (18 R313, R316, R318, 24 R392). -/
def ctlwInstr (x : CtlwOp) : Instr :=
  if x.cr = .timer then .timerWrite { hd := x.hd, k := x.k }
  else if x.cr = .rflag then .rflagClear { hd := x.hd, k := x.k }
  else if x.cr = .resume then .resumeWrite { hd := x.hd, k := x.k }
  else .ctlw x

def InvOp.ofWord (w : Nat) : Option InvOp := do
  let hd ← Hd.ofWord w
  need (fld w 22 25 == 0)
  need (sIMM w < 2)
  need (fld w 0 8 == 0)
  some { hd, k := sKA w, all := bit w 8 }

def InvOp.word (op : Nat) (x : InvOp) : Nat := fs x.hd op 0 0 x.k (b2n x.all) 0

def DkOp.ofWord (w : Nat) : Option DkOp := do
  let hd ← Hd.ofWord w
  need (sCR w == 0)
  need (fld w 0 16 == 0)
  some { hd, d := Opnd.ofField (fD w), k := sKA w }

def DkOp.word (op : Nat) (x : DkOp) : Nat := fs x.hd op x.d.field 0 x.k 0 0

def MeterrOp.ofWord (w : Nat) : Option MeterrOp := do
  let hd ← Hd.ofWord w
  need (sCR w == 0)
  need (sIMM w < 9)
  need (fld w 0 8 == 0)
  some { hd, d := Opnd.ofField (fD w), k := sKA w, n := sIMM w }

def MeterrOp.word (x : MeterrOp) : Nat := fs x.hd 0x388 x.d.field 0 x.k x.n 0

/-! The groups (07 R155 to R157). `i` is OP[5:0]. -/

def decodeG0 (i w w2 : Nat) : Option Instr :=
  match i with
  | 0x01 => (Header.ofWord w).map .trace
  | 0x02 => (GrdOp.ofWord w).map .grd
  | 0x03 => (NopOp.ofWord w).map .nop
  | 0x08 => (TermOp.ofWord w).map .next
  | 0x09 => (JmpOp.ofWord w).map .jmp
  | 0x0A => (JselOp.ofWords w w2).map .jsel
  | 0x0B => (TabOp.ofWord w).map .jtab
  | 0x0C => (CallOp.ofWord w).map .call
  | 0x0D => (TabOp.ofWord w).map .callt
  | 0x0E => (RetOp.ofWord w).map .ret
  | 0x0F => (LoopOp.ofWord w).map .loop
  | 0x10 => (TermOp.ofWord w).map .exit
  | 0x11 => (YieldOp.ofWord w).map .yield
  | 0x12 => (BarwOp.ofWord w).map .barw
  | _ => none

def decodeG1 (i w : Nat) : Option Instr :=
  match i with
  | 0x00 => (IntOp.ofWord w).map .add
  | 0x01 => (IntOp.ofWord w).map .sub
  | 0x02 => (CarryOp.ofWord w).map .addc
  | 0x03 => (CarryOp.ofWord w).map .subb
  | 0x04 => (IntUn.ofWord w).map .neg
  | 0x05 => (IntUn.ofWord w).map .abs
  | 0x06 => (IntOp.ofWord w).map .min
  | 0x07 => (IntOp.ofWord w).map .max
  | 0x08 => (IntOp.ofWord w).map .clamp
  | 0x09 => (IntOp.ofWord w).map .mul
  | 0x0A => (IntOp.ofWord w).map .mulhi
  | 0x0B => (IntOp.ofWord w).map .mad
  | 0x0C => (IntOp.ofWord w).map .sad
  | 0x0D => (IntOp.ofWord w).map .and
  | 0x0E => (IntOp.ofWord w).map .or
  | 0x0F => (IntOp.ofWord w).map .xor
  | 0x10 => (IntOp.ofWord w).map .andn
  | 0x11 => (IntOp.ofWord w).map .orn
  | 0x12 => (IntOp.ofWord w).map .shl
  | 0x13 => (IntOp.ofWord w).map .shr
  | 0x14 => (IntOp.ofWord w).map .shra
  | 0x15 => (IntOp.ofWord w).map .rotl
  | 0x16 => (IntOp.ofWord w).map .fshl
  | 0x17 => (IntUn.ofWord w).map .popc
  | 0x18 => (IntUn.ofWord w).map .clz
  | 0x19 => (IntUn.ofWord w).map .ctz
  | 0x1A => (IntUn.ofWord w).map .brev
  | 0x1B => (IntOp.ofWord w).map .bfx
  | 0x1C => (IntOp.ofWord w).map .bfi
  | 0x1D => (MovOp.ofWord w).map .mov
  | 0x1E => (IntOp.ofWord w).map .sel
  | 0x1F => (IntUn.ofWord w).map .xt
  | 0x20 => (CmpOp.ofWord w).map .cmp
  | _ => none

def decodeG2 (i w : Nat) : Option Instr :=
  match i with
  | 0x00 => (ImmOp.ofWord w).map .addi
  | 0x01 => (ImmOp.ofWord w).map .andi
  | 0x02 => (ImmOp.ofWord w).map .ori
  | 0x03 => (ImmOp.ofWord w).map .xori
  | 0x04 => (ImmOp.ofShift w).map .shli
  | 0x05 => (ImmOp.ofShift w).map .shri
  | 0x06 => (ImmOp.ofShift w).map .shrai
  | 0x07 => (CmpIOp.ofWord w).map .cmpi
  | 0x08 => (MovIOp.ofWord w).map .movi
  | 0x09 => (MovIOp.ofHi w).map .movhi
  | 0x0A => (ImmOp.ofWord w).map .muli
  | _ => none

def decodeG3 (i w : Nat) : Option Instr :=
  match i with
  | 0x00 => (PLogicOp.ofWord w).map .pand
  | 0x01 => (PLogicOp.ofWord w).map .por
  | 0x02 => (PLogicOp.ofWord w).map .pxor
  | 0x03 => (PNotOp.ofWord w).map .pnot
  | 0x04 => (PSetOp.ofWord w).map .pset
  | 0x05 => (PGetOp.ofWord w).map .pget
  | 0x06 => (VoteOp.ofWord w).map .vote
  | 0x07 => (ShflOp.ofWord w).map .shfl
  | 0x08 => (ElectOp.ofWord w).map .elect
  | 0x09 => (MovsOp.ofWord w).map .movs
  | _ => none

def decodeG4 (i w : Nat) : Option Instr :=
  match i with
  | 0x00 => (KBinOp.ofWord w).map .kadd
  | 0x01 => (KBinOp.ofWord w).map .ksub
  | 0x02 => (KBinOp.ofWord w).map .kmul
  | 0x03 => (KBinOp.ofWord w).map .kand
  | 0x04 => (KBinOp.ofWord w).map .kor
  | 0x05 => (KBinOp.ofWord w).map .kshl
  | 0x06 => (KBinOp.ofWord w).map .kshr
  | 0x07 => (KMovOp.ofWord w).map .kmovi
  | 0x08 => (KMovOp.ofHi w).map .kmovhi
  | 0x09 => (KFromOp.ofWord w).map .kfrom
  | 0x0A => (KToOp.ofWord w).map .kto
  | 0x0B => (KCmpOp.ofWord w).map .kcmp
  | _ => none

def decodeG5 (i w : Nat) : Option Instr :=
  match i with
  | 0x00 => (FOp.ofWord w).map .fadd
  | 0x01 => (FOp.ofWord w).map .fsub
  | 0x02 => (FOp.ofWord w).map .fmul
  | 0x03 => (FOp.ofWord w).map .ffma
  | 0x04 => (FMmOp.ofWord w).map .fmin
  | 0x05 => (FMmOp.ofWord w).map .fmax
  | 0x06 => (FCmpOp.ofWord w).map .fcmp
  | 0x07 => (FUnOp.ofWord w).map .frnd
  | 0x08 => (FClassOp.ofWord w).map .fclass
  | 0x09 => (FPkOp.ofWord Ty.isHalf w).map .fadd2
  | 0x0A => (FPkOp.ofWord Ty.isHalf w).map .fmul2
  | 0x0B => (FPkOp.ofWord Ty.isHalf w).map .ffma2
  | 0x0C => (FPkOp.ofWord Ty.isFp8 w).map .fdot4
  | _ => none

def decodeG6 (i w : Nat) : Option Instr :=
  match i with
  | 0x00 => (FUnOp.ofSpecial w).map .frcp
  | 0x01 => (FUnOp.ofSpecial w).map .frsq
  | 0x02 => (FUnOp.ofSpecial w).map .fsqrt
  | 0x03 => (FOp.ofDiv w).map .fdiv
  | 0x04 => (FTransOp.ofWord w).map .fexp2
  | 0x05 => (FTransOp.ofWord w).map .flog2
  | 0x06 => (FTransOp.ofWord w).map .fsin
  | 0x07 => (FTransOp.ofWord w).map .fcos
  | 0x08 => (CvtOp.ofWord cvtPair w).map .cvt
  | 0x09 => (CvtOp.ofWord cvtiPair w).map .cvti
  | 0x0A => (QblkOp.ofWord w).map .qblk
  | 0x0B => (DqOp.ofWord w).map .dqblk
  | 0x0C => (DqOp.ofWord w).map .req
  | 0x0D => (HadOp.ofWord w).map .had
  | 0x0E => (FOp.ofWord w).map .fscale
  | _ => none

/-- Operation 6 of group 0x8 (07 R156). -/
def decodeRecord (w : Nat) : Option Instr :=
  match fAux3 w with
  | 0 => (RecldOp.ofWord w).map .recld
  | 1 => (RecinvOp.ofWord w).map .recinv
  | 2 => (PrefOp.ofWord w).map .pref
  | 3 => (PrefOp.ofWord w).map .cwb
  | _ => none

/-- LDA, with or without .rmt (07 R156). -/
def decodeLda (w : Nat) : Option Instr := do
  let x ← ScMemOp.ofWord w
  if bit w 0 then do
    need (x.sc == .d || x.sc == .y)
    some (.ldaRmt x)
  else some (.lda x)

def decodeStl (w : Nat) : Option Instr := do
  need (!bit w 0)
  (ScMemOp.ofWord w).map .stl

def decodeG8 (i w : Nat) : Option Instr :=
  match i / 8 with
  | 0 => (LdOp.ofWord Ty.isMem w).map .ld
  | 1 => (StOp.ofWord Ty.isMem w).map .st
  | 2 => (LdOp.ofWord Ty.isVecMem w).map .ldx
  | 3 => (StOp.ofWord Ty.isVecMem w).map .stx
  | 4 => decodeLda w
  | 5 => decodeStl w
  | 6 => decodeRecord w
  | _ => none

def decodeG9 (i w : Nat) : Option Instr :=
  match i / 4 with
  | 0 => (SpadOp.ofWord w).map .lds
  | 1 => (SpadOp.ofWord w).map .sts
  | 2 => (BarordOp.ofWord w).map .ldv
  | 3 => (BarordOp.ofWord w).map .stv
  | 4 => (BarordOp.ofWord w).map .ldg
  | 5 => (BarordOp.ofWord w).map .stg
  | 6 => (BarordOp.ofWord w).map .ldp
  | 7 => (BarordOp.ofWord w).map .stp
  | 8 => (BarordOp.ofWord w).map .ldh
  | 9 => (BarordOp.ofWord w).map .sth
  | 10 => (BarordOp.ofWord w).map .ldc
  | _ => none

def decodeGA (i w : Nat) : Option Instr :=
  if i = 0x3F then (FenceOp.ofWord w).map .fence
  else
    match i / 16 with
    | 0 => (AtomOp.ofWord w).map .atom
    | 1 => (RedOp.ofWord w).map .red
    | 2 => (AtomsOp.ofWord w).map .atoms
    | _ => (AtomsOp.ofReds w).map .reds

def decodeGB (i w : Nat) : Option Instr :=
  match i with
  | 0x00 => (ChargeOp.ofWord w).map .charge
  | 0x01 => (MmaOp.ofWord w).map .mma
  | 0x02 => (AcczOp.ofWord w).map .accz
  | 0x03 => (AccldOp.ofWord w).map .accld
  | 0x04 => (AccstOp.ofWord w).map .accst
  | 0x05 => (AccqOp.ofWord w).map .accq
  | 0x06 => (MsyncOp.ofWord w).map .msync
  | _ => none

def decodeGC (i w : Nat) : Option Instr :=
  match i with
  | 0x00 => (CpyOp.ofWord w).map .cpy
  | 0x01 => (CpyOp.ofWord w).map .cpyg
  | 0x02 => (CpyrdOp.ofWord w).map .cpyrd
  | 0x03 => (DstOp.ofWord w).map .cpyx
  | 0x04 => (KOp.ofWord w).map .bseal
  | 0x05 => (KOp.ofWord w).map .bwait
  | 0x06 => (BtestOp.ofWord w).map .btest
  | 0x07 => (BarKOp.ofWord w).map .barinit
  | 0x08 => (BarOp.ofWord Bar.asTeam w).map .bararv
  | 0x09 => (BarKOp.ofWord w).map .barexp
  | 0x0A => (BartstOp.ofWord w).map .bartst
  | 0x0B => (BarOp.ofWord Bar.asCluster w).map .cbar
  | 0x0C => (BarOp.ofWord Bar.asGrid w).map .gbar
  | 0x0D => (BarOp.ofWord Bar.asGrid w).map .gsync
  | 0x0E => (WaitmOp.ofWord w).map .waitm
  | 0x0F => (DstOp.ofWord w).map .drain
  | 0x10 => (LnchOp.ofWord w).map .lnch
  | _ => none

def decodeGD (i w : Nat) : Option Instr :=
  match i with
  | 0x00 => (SpawnOp.ofWord w).map .spawn
  | 0x01 => (ClaimOp.ofWord w).map .claim
  | 0x02 => (KOp.ofWord w).map .release
  | 0x03 => (CoregOp.ofWord w).map .coreg
  | 0x04 => (TileqOp.ofWord w).map .tileq
  | 0x08 => (TermOp.ofWord w).map .codone
  | 0x09 => (CosummOp.ofWord w).map .cosumm
  | 0x0A => (TermOp.ofWord w).map .corefuse
  | _ => none

def decodeGE (i w : Nat) : Option Instr :=
  match i with
  | 0x00 => (TrapiOp.ofWord w).map .trapi
  | 0x01 => (TermOp.ofWord w).map .eret
  | 0x02 => (CtlrOp.ofWord w).map .ctlr
  | 0x03 => (CtlwOp.ofWord w).map ctlwInstr
  | 0x04 => (InvOp.ofWord w).map .tlbi
  | 0x05 => (NopOp.ofWord w).map .tlbsync
  | 0x06 => (InvOp.ofWord w).map .icinv
  | 0x07 => (DkOp.ofWord w).map .sample
  | 0x08 => (MeterrOp.ofWord w).map .meterr
  | 0x09 => (DkOp.ofWord w).map .ctxsv
  | 0x0A => (DkOp.ofWord w).map .ctxld
  | 0x0B => (NopOp.ofWord w).map .idle
  | _ => none

/-- The instruction of word `w`, with `w2` the word after it, which only JSEL reads. -/
def decodeWord (w w2 : Nat) : Option Instr :=
  let i := opOf w % 64
  match opOf w / 64 with
  | 0x0 => decodeG0 i w w2
  | 0x1 => decodeG1 i w
  | 0x2 => decodeG2 i w
  | 0x3 => decodeG3 i w
  | 0x4 => decodeG4 i w
  | 0x5 => decodeG5 i w
  | 0x6 => decodeG6 i w
  | 0x8 => decodeG8 i w
  | 0x9 => decodeG9 i w
  | 0xA => decodeGA i w
  | 0xB => decodeGB i w
  | 0xC => decodeGC i w
  | 0xD => decodeGD i w
  | 0xE => decodeGE i w
  | _ => none

/-- Why words are no instruction. -/
inductive DecodeError
  /-- no words are given -/
  | noWord
  /-- a word outside 0 to 2^64 - 1 -/
  | notAWord (w : Nat)
  /-- 07 R159: the word is an illegal instruction by its encoding (an unassigned OP or a reserved value) -/
  | illegal (w : Nat)
  deriving DecidableEq, Repr

/-- The words that an instruction takes (07 R151). -/
def Instr.wordCount : Instr → Nat
  | .jsel _ => 2
  | _ => 1

/-- The instruction at the head of a list of words, and the words after it. -/
def decode (ws : List Nat) : Except DecodeError (Instr × List Nat) :=
  match ws with
  | [] => .error .noWord
  | w :: t =>
    if 2 ^ 64 ≤ w then .error (.notAWord w)
    else
      match decodeWord w (t.headD 0) with
      | none => .error (.illegal w)
      | some i => .ok (i, t.drop (i.wordCount - 1))

/-- The words of an instruction; an event has none. -/
def encode : Instr → Option (List Nat)
  | .trace x => some [x.word]
  | .grd x => some [x.word]
  | .nop x => some [x.word 0x003]
  | .next x => some [x.word 0x008]
  | .jmp x => some [x.word]
  | .jsel x => some x.words
  | .jtab x => some [x.word 0x00B]
  | .call x => some [x.word]
  | .callt x => some [x.word 0x00D]
  | .ret x => some [x.word]
  | .loop x => some [x.word]
  | .exit x => some [x.word 0x010]
  | .yield x => some [x.word]
  | .barw x => some [x.word]
  | .add x => some [x.word 0x040]
  | .sub x => some [x.word 0x041]
  | .addc x => some [x.word 0x042]
  | .subb x => some [x.word 0x043]
  | .neg x => some [x.word 0x044]
  | .abs x => some [x.word 0x045]
  | .min x => some [x.word 0x046]
  | .max x => some [x.word 0x047]
  | .clamp x => some [x.word 0x048]
  | .mul x => some [x.word 0x049]
  | .mulhi x => some [x.word 0x04A]
  | .mad x => some [x.word 0x04B]
  | .sad x => some [x.word 0x04C]
  | .and x => some [x.word 0x04D]
  | .or x => some [x.word 0x04E]
  | .xor x => some [x.word 0x04F]
  | .andn x => some [x.word 0x050]
  | .orn x => some [x.word 0x051]
  | .shl x => some [x.word 0x052]
  | .shr x => some [x.word 0x053]
  | .shra x => some [x.word 0x054]
  | .rotl x => some [x.word 0x055]
  | .fshl x => some [x.word 0x056]
  | .popc x => some [x.word 0x057]
  | .clz x => some [x.word 0x058]
  | .ctz x => some [x.word 0x059]
  | .brev x => some [x.word 0x05A]
  | .bfx x => some [x.word 0x05B]
  | .bfi x => some [x.word 0x05C]
  | .mov x => some [x.word]
  | .sel x => some [x.word 0x05E]
  | .xt x => some [x.word 0x05F]
  | .cmp x => some [x.word]
  | .addi x => some [x.word 0x080]
  | .andi x => some [x.word 0x081]
  | .ori x => some [x.word 0x082]
  | .xori x => some [x.word 0x083]
  | .shli x => some [x.word 0x084]
  | .shri x => some [x.word 0x085]
  | .shrai x => some [x.word 0x086]
  | .cmpi x => some [x.word]
  | .movi x => some [x.word 0x088]
  | .movhi x => some [x.word 0x089]
  | .muli x => some [x.word 0x08A]
  | .pand x => some [x.word 0x0C0]
  | .por x => some [x.word 0x0C1]
  | .pxor x => some [x.word 0x0C2]
  | .pnot x => some [x.word]
  | .pset x => some [x.word]
  | .pget x => some [x.word]
  | .vote x => some [x.word]
  | .shfl x => some [x.word]
  | .elect x => some [x.word]
  | .movs x => some [x.word]
  | .kadd x => some [x.word 0x100]
  | .ksub x => some [x.word 0x101]
  | .kmul x => some [x.word 0x102]
  | .kand x => some [x.word 0x103]
  | .kor x => some [x.word 0x104]
  | .kshl x => some [x.word 0x105]
  | .kshr x => some [x.word 0x106]
  | .kmovi x => some [x.word 0x107]
  | .kmovhi x => some [x.word 0x108]
  | .kfrom x => some [x.word]
  | .kto x => some [x.word]
  | .kcmp x => some [x.word]
  | .fadd x => some [x.word 0x140]
  | .fsub x => some [x.word 0x141]
  | .fmul x => some [x.word 0x142]
  | .ffma x => some [x.word 0x143]
  | .fmin x => some [x.word 0x144]
  | .fmax x => some [x.word 0x145]
  | .fcmp x => some [x.word]
  | .frnd x => some [x.word 0x147]
  | .fclass x => some [x.word]
  | .fadd2 x => some [x.word 0x149]
  | .fmul2 x => some [x.word 0x14A]
  | .ffma2 x => some [x.word 0x14B]
  | .fdot4 x => some [x.word 0x14C]
  | .frcp x => some [x.word 0x180]
  | .frsq x => some [x.word 0x181]
  | .fsqrt x => some [x.word 0x182]
  | .fdiv x => some [x.word 0x183]
  | .fexp2 x => some [x.word 0x184]
  | .flog2 x => some [x.word 0x185]
  | .fsin x => some [x.word 0x186]
  | .fcos x => some [x.word 0x187]
  | .cvt x => some [x.word 0x188]
  | .cvti x => some [x.word 0x189]
  | .qblk x => some [x.word]
  | .dqblk x => some [x.word 0x18B]
  | .req x => some [x.word 0x18C]
  | .had x => some [x.word]
  | .fscale x => some [x.word 0x18E]
  | .ld x => some [x.word 0x200]
  | .st x => some [x.word 0x208]
  | .ldx x => some [x.word 0x210]
  | .stx x => some [x.word 0x218]
  | .lda x => some [x.word 0x220 false]
  | .ldaRmt x => some [x.word 0x220 true]
  | .stl x => some [x.word 0x228 false]
  | .recld x => some [x.word]
  | .recinv x => some [x.word]
  | .pref x => some [x.word 0x232]
  | .cwb x => some [x.word 0x233]
  | .lds x => some [x.word 0x240]
  | .sts x => some [x.word 0x244]
  | .ldv x => some [x.word 0x248]
  | .stv x => some [x.word 0x24C]
  | .ldg x => some [x.word 0x250]
  | .stg x => some [x.word 0x254]
  | .ldp x => some [x.word 0x258]
  | .stp x => some [x.word 0x25C]
  | .ldh x => some [x.word 0x260]
  | .sth x => some [x.word 0x264]
  | .ldc x => some [x.word 0x268]
  | .atom x => some [x.word]
  | .red x => some [x.word]
  | .atoms x => some [x.word 0x2A0]
  | .reds x => some [x.word 0x2B0]
  | .fence x => some [x.word]
  | .charge x => some [x.word]
  | .mma x => some [x.word]
  | .accz x => some [x.word]
  | .accld x => some [x.word]
  | .accst x => some [x.word]
  | .accq x => some [x.word]
  | .msync x => some [x.word]
  | .cpy x => some [x.word 0x300]
  | .cpyg x => some [x.word 0x301]
  | .cpyrd x => some [x.word]
  | .cpyx x => some [x.word 0x303]
  | .bseal x => some [x.word 0x304]
  | .bwait x => some [x.word 0x305]
  | .btest x => some [x.word]
  | .barinit x => some [x.word 0x307]
  | .bararv x => some [x.word 0x308 0]
  | .barexp x => some [x.word 0x309]
  | .bartst x => some [x.word]
  | .cbar x => some [x.word 0x30B 1]
  | .gbar x => some [x.word 0x30C 2]
  | .gsync x => some [x.word 0x30D 2]
  | .waitm x => some [x.word]
  | .drain x => some [x.word 0x30F]
  | .lnch x => some [x.word]
  | .spawn x => some [x.word]
  | .claim x => some [x.word]
  | .release x => some [x.word 0x342]
  | .coreg x => some [x.word]
  | .tileq x => some [x.word]
  | .codone x => some [x.word 0x348]
  | .cosumm x => some [x.word]
  | .corefuse x => some [x.word 0x34A]
  | .trapi x => some [x.word]
  | .eret x => some [x.word 0x381]
  | .ctlr x => some [x.word]
  | .ctlw x => some [x.word]
  | .timerWrite x => some [CtlwOp.word { hd := x.hd, cr := .timer, k := x.k }]
  | .rflagClear x => some [CtlwOp.word { hd := x.hd, cr := .rflag, k := x.k }]
  | .resumeWrite x => some [CtlwOp.word { hd := x.hd, cr := .resume, k := x.k }]
  | .tlbi x => some [x.word 0x384]
  | .tlbsync x => some [x.word 0x385]
  | .icinv x => some [x.word 0x386]
  | .sample x => some [x.word 0x387]
  | .meterr x => some [x.word]
  | .ctxsv x => some [x.word 0x389]
  | .ctxld x => some [x.word 0x38A]
  | .idle x => some [x.word 0x38B]
  | .recordLanding .. | .reductionApply .. | .matrixCommandStart .. | .operandsConsumed .. | .matrixCommandRetire ..
  | .copyAccept .. | .granuleRequest .. | .granuleLand .. | .copyCompletion .. | .batchCompletion .. | .barrierCompletion ..
  | .waitmWake .. | .drainSweep .. | .spawnBinTimerExpiry .. | .spawnedGangForms .. | .claimGrant .. | .tilePass ..
  | .recallDelivery .. | .castoffBoundOverrun .. | .forcedStrip .. | .loanRevocation .. | .refusalWindowExpiry ..
  | .tlbiCompletion .. | .timerExpiry .. | .longLatencyLanding .. | .traceResolution .. | .undoPairAcquire ..
  | .overflowRowFill .. | .forcedQueueJoin .. | .trapDelivery .. | .translationWalk .. | .dispatchVisit .. | .teamRetirement ..
  | .teamEnd .. | .preemptionRequest .. | .drainAllowanceExpiry .. | .flushAndRestart .. | .save .. | .restore ..
  | .sliceEnd .. | .sliceStart .. | .deadlockWalk .. | .meterAccrual .. | .usageReport .. | .errorCounters .. | .readiness ..
  | .secondStageInvalidation .. | .registration .. | .doorbell .. | .panelDescriptorWrite .. | .meterIdentityRegister ..
  | .hostCxlMemAccess .. | .purlFlitReceive .. | .peerRequest .. | .linkDown .. | .poisonConsumed .. | .patrolScrub ..
  | .coldReset | .functionReady .. | .throttleStart | .throttleStop | .virtualDeviceDescriptorWrite ..
  | .hostQueueHandleBind .. | .outsideValueArrival .. => none

/-- The instruction of a row of the spec's table whose bits are `w`: a word takes 64 bits, and bit 0 is the least significant
bit of the first word; the word after it holds the bits from 64 on. -/
def decodeTableWord (_nbits w : Nat) : Option Instr :=
  match decode [w % 2 ^ 64, w / 2 ^ 64 % 2 ^ 64] with
  | .ok (i, _) => some i
  | .error _ => none

end Sys2Proof
end

