-- ==== Sys2Proof/Config.lean ====
section
/-! DEFINITION. What the spec leaves to the part, as constants without a body (free values), and the fixed figures of the module.

No proof can see a free value: a claim that names one holds whatever it is. Each is named in the assumption log.
-/

set_option Elab.async false

namespace Sys2Proof.Config

/-- DESIGN CHOICE (log 2). A fresh open value, drawn with a counter of the state: the spec states no value. -/
opaque freeBits : Nat → Nat

/-- FREE VALUE (log 12). 09 R194: whether FEXP2, FLOG2, FSIN (op 0, 1, 2) or FCOS (op 3) of an input delivers the greater of the
two values that bracket the exact result. One part gives the same result for the same input every time. -/
opaque faithfulUp : Nat → Word32 → Bool

/-- FREE VALUE (log 16). 23 R386: byte `i` of the signature over a report whose bytes are given. -/
opaque signatureByte : List Byte → Nat → Byte

/-- FREE VALUE (log 16). 23 R386: byte `i` of the device identity. -/
opaque deviceIdByte : Nat → Byte

/-- FREE VALUE (log 17). 27 R416: the link of a route set that the fixed hash of core and peer chooses. -/
opaque flowHash : Nat → Nat → Nat

/-- FREE VALUE (log 38). 27 R415: the panel whose device memory the inbound window of a source opens. -/
opaque peerPanel : Nat → Nat

/-- FREE VALUE (log 19). 06 R136 divides an index by ext0: the address of an element of a record whose ext0 is zero, by the record
and the index. -/
opaque noExtentAddr : Nat → Int → Nat

/-- FREE VALUE (log 62). 23 R377, 27 R422: the channel group that holds a line of device memory. -/
opaque channelOf : Nat → Nat

/-- FREE VALUE (log 62). 27 R415, R422: the number of the port of a peer at which a link of the module arrives. -/
opaque peerPort : Nat → Nat → Nat

/-- FREE VALUE (log 62). 27 R422: the twin of a peer that is the home bank of an address of space 3. -/
opaque peerBank : Nat → Nat

/-- FREE VALUE (log 62). 27 R422: whether a peer's home cache holds the line of an address of space 3, by the cycle. -/
opaque peerHit : Nat → Nat → Bool

/-- FREE VALUE (log 62). 27 R422: T_L of the channel group of a peer that holds an address of space 3. -/
opaque peerTl : Nat → Nat

/-- FREE VALUE (log 62). 27 R422: the time H that the host takes over an address of space 4. -/
opaque hostTerm : Nat → Nat

/-- T_L of a channel group before training has reported another (27 R422). -/
def nominalTl : Nat := 700

/-- Cores of the module (00 R8). -/
def nCores : Nat := 192

/-- Twins of the module (00 R8). -/
def nTwins : Nat := 96

/-- Gang slots of a core (01 R16). -/
def gangSlots : Nat := 48

/-- The number that names the service gang among a core's gang places (18 R314). -/
def serviceSlot : Nat := 63

/-- Register granules of a core (01 R16). -/
def regGranules : Nat := 512

/-- Allocatable scratchpad granules of a core (01 R16). -/
def spadGranules : Nat := 120

/-- Undo buffers of a core (04 R83). -/
def undoBuffers : Nat := 16

/-- Commands that a transfer unit holds (13 R280). -/
def copySlots : Nat := 32

/-- Commands that a matrix engine holds (12 R260). -/
def engineSlots : Nat := 4

/-- Entries of a divergence stack (01 R10). -/
def stackEntries : Nat := 32

/-- Launch blocks that a queue holds (19 R336). -/
def queueBlocks : Nat := 64

/-- Teams of a core (01 R11). -/
def coreTeams : Nat := 16

/-- Starvation count at which a gang joins the forced queue (19 R346). -/
def starveLimit : Nat := 52

/-- Spawn-bin timer default in cycles (01 R19). -/
def binTimer : Nat := 2048

end Sys2Proof.Config
end

