-- ==== Sys2Proof/Machine/Float.lean ====
section
/-! DEFINITION. Floating-point values, rounding, flags and conversions (05 R101 to R119), and the arithmetic that the rows of 09
compute with them (09 R190 to R203). Every result is formed exactly, on integers, and rounded once. -/

set_option Elab.async false

namespace Sys2Proof
namespace Machine

/-! ## Flags (03 R76) -/

def flNV : Nat := 1
def flDZ : Nat := 2
def flOF : Nat := 4
def flUF : Nat := 8
def flNX : Nat := 16
def flTC : Nat := 32

/-- The union of two flag sets. -/
def flOr (a b : Nat) : Nat := a ||| b

/-- A result's pattern and the flags it raises. -/
structure FRes where
  v : Nat
  fl : Nat
  deriving DecidableEq, Repr

/-! ## Formats (05 R103) -/

structure Fmt where
  ebits : Nat
  mbits : Nat
  /-- the format has infinities; .e4m3 has none -/
  inf : Bool
  deriving DecidableEq, Repr

def Fmt.f64 : Fmt := { ebits := 11, mbits := 52, inf := true }
def Fmt.f32 : Fmt := { ebits := 8, mbits := 23, inf := true }
def Fmt.f16 : Fmt := { ebits := 5, mbits := 10, inf := true }
def Fmt.bf16 : Fmt := { ebits := 8, mbits := 7, inf := true }
def Fmt.e5m2 : Fmt := { ebits := 5, mbits := 2, inf := true }
def Fmt.e4m3 : Fmt := { ebits := 4, mbits := 3, inf := false }

/-- The format of a scalar floating-point type; .f32 for any other type, which no operation passes here. -/
def fmtOf (t : Ty) : Fmt :=
  match t with
  | .f64 => .f64
  | .f16 => .f16
  | .bf16 => .bf16
  | .e5m2 => .e5m2
  | .e4m3 => .e4m3
  | _ => .f32

def Fmt.bias (F : Fmt) : Nat := 2 ^ (F.ebits - 1) - 1
def Fmt.bits (F : Fmt) : Nat := 1 + F.ebits + F.mbits
def Fmt.sign (F : Fmt) (neg : Bool) : Nat := if neg then 2 ^ (F.ebits + F.mbits) else 0

/-- The canonical NaN (05 R103). -/
def Fmt.nan (F : Fmt) : Nat :=
  if F.inf then (2 ^ F.ebits - 1) * 2 ^ F.mbits + 2 ^ (F.mbits - 1) else 2 ^ (F.ebits + F.mbits) - 1

def Fmt.infinity (F : Fmt) (neg : Bool) : Nat := F.sign neg + (2 ^ F.ebits - 1) * 2 ^ F.mbits

/-- The greatest significand of the greatest exponent: 448 is the largest .e4m3 value. -/
def Fmt.maxMant (F : Fmt) : Nat := if F.inf then 2 ^ (F.mbits + 1) - 1 else 2 ^ (F.mbits + 1) - 2

/-- The greatest exponent of a finite value. -/
def Fmt.emax (F : Fmt) : Int := if F.inf then (F.bias : Int) else (F.bias : Int) + 1

/-- The largest finite value (05 R103). -/
def Fmt.maxFin (F : Fmt) (neg : Bool) : Nat :=
  F.sign neg + (F.emax + F.bias).toNat * 2 ^ F.mbits + (F.maxMant - 2 ^ F.mbits)

/-- A value as a pattern names it (05 R104, R105). A finite nonzero value is `m` times 2 to the `e`. -/
inductive FV
  | nan (signalling : Bool)
  | inf (neg : Bool)
  | zero (neg : Bool)
  | fin (m : Int) (e : Int)
  deriving DecidableEq, Repr

def FV.isNan : FV → Bool
  | .nan _ => true
  | .inf _ | .zero _ | .fin .. => false

def FV.isSnan : FV → Bool
  | .nan b => b
  | .inf _ | .zero _ | .fin .. => false

def FV.neg : FV → Bool
  | .nan _ => false
  | .inf b | .zero b => b
  | .fin m _ => m < 0

/-- The value of a pattern (05 R104, R105). -/
def Fmt.read (F : Fmt) (x : Nat) : FV :=
  let neg := fld x (F.ebits + F.mbits) 1 == 1
  let e := fld x F.mbits F.ebits
  let f := fld x 0 F.mbits
  let sg (m : Nat) : Int := if neg then -(m : Int) else m
  if F.inf && e == 2 ^ F.ebits - 1 then
    if f = 0 then .inf neg else .nan (f < 2 ^ (F.mbits - 1))
  else if !F.inf && e == 2 ^ F.ebits - 1 && f == 2 ^ F.mbits - 1 then .nan false
  else if e = 0 then
    if f = 0 then .zero neg else .fin (sg f) (1 - F.bias - F.mbits)
  else .fin (sg (2 ^ F.mbits + f)) ((e : Int) - F.bias - F.mbits)

/-- A subnormal pattern. -/
def Fmt.isSub (F : Fmt) (x : Nat) : Bool := fld x F.mbits F.ebits == 0 && fld x 0 F.mbits != 0

/-- The value of a source under .ftz: a subnormal reads as a zero of its sign (05 R108). -/
def Fmt.readZ (F : Fmt) (ftz : Bool) (x : Nat) : FV :=
  if ftz && F.isSub x then .zero (fld x (F.ebits + F.mbits) 1 == 1) else F.read x

/-! ## Rounding (05 R106 to R108) -/

/-- The integer `n` with `m` times 2 to the `e`, a little more where `sticky`, rounded to `n` times 2 to the `q`, and whether that is
inexact. -/
def roundAt (m : Nat) (e q : Int) (sticky neg : Bool) (rm : Rm) : Nat × Bool :=
  if q ≤ e then
    let n := m * 2 ^ (e - q).toNat
    let up := match rm with | .rne => false | .rtz => false | .rup => sticky && !neg | .rdn => sticky && neg
    (n + b2n up, sticky)
  else
    let d := (q - e).toNat
    let n := m / 2 ^ d
    let r := m % 2 ^ d
    let h := 2 ^ (d - 1)
    let inexact := r != 0 || sticky
    let up := match rm with
      | .rne => h < r || (r == h && (sticky || n % 2 == 1))
      | .rtz => false
      | .rup => inexact && !neg
      | .rdn => inexact && neg
    (n + b2n up, inexact)

/-- Bits of a number. -/
def bitLen (m : Nat) : Nat := if m = 0 then 0 else Nat.log2 m + 1

/-- What an overflow yields (05 R107). -/
def Fmt.overflow (F : Fmt) (neg sat : Bool) (rm : Rm) : Nat :=
  let away := match rm with | .rne => true | .rtz => false | .rup => !neg | .rdn => neg
  if !away || sat then F.maxFin neg
  else if F.inf then F.infinity neg else F.nan

/-- The value `m` times 2 to the `e`, a little more in magnitude where `sticky`, of the sign `neg`, rounded to a format (05 R106 to
R108). `m` is positive. -/
def Fmt.round (F : Fmt) (rm : Rm) (ftz sat neg : Bool) (m : Nat) (e : Int) (sticky : Bool) : FRes :=
  let p := F.mbits + 1
  let E : Int := bitLen m - 1 + e
  let emin : Int := 1 - F.bias
  let qu := E - F.mbits
  let free := roundAt m e qu sticky neg rm
  let tiny := E < emin && !(E == emin - 1 && free.1 == 2 ^ p)
  if E < emin then
    let q := emin - F.mbits
    let r := roundAt m e q sticky neg rm
    if ftz && r.1 != 0 && r.1 < 2 ^ F.mbits then { v := F.sign neg, fl := flUF ||| flNX }
    else { v := F.sign neg + r.1, fl := (if tiny && r.2 then flUF else 0) ||| (if r.2 then flNX else 0) }
  else
    let n := if free.1 = 2 ^ p then 2 ^ F.mbits else free.1
    let x := if free.1 = 2 ^ p then E + 1 else E
    if F.emax < x ∨ (x = F.emax ∧ F.maxMant < n) then { v := F.overflow neg sat rm, fl := flOF ||| flNX }
    else { v := F.sign neg + (x + F.bias).toNat * 2 ^ F.mbits + (n - 2 ^ F.mbits), fl := if free.2 then flNX else 0 }

/-- An exact value rounded to a format. An infinity in .e4m3 stands for what 05 R112 makes of it. -/
def Fmt.roundV (F : Fmt) (rm : Rm) (ftz sat : Bool) : FV → FRes
  | .nan s => { v := F.nan, fl := if s then flNV else 0 }
  | .inf neg => { v := F.infinity neg, fl := 0 }
  | .zero neg => { v := F.sign neg, fl := 0 }
  | .fin m e => F.round rm ftz sat (m < 0) m.natAbs e false

/-- An integer as an exact value. -/
def FV.ofInt (v : Int) : FV := if v = 0 then .zero false else .fin v 0

/-- An exact value `m` times 2 to the `e`, or the zero of a sign. -/
def FV.mk (m e : Int) (negZero : Bool) : FV := if m = 0 then .zero negZero else .fin m e

/-! ## Exact arithmetic -/

/-- The exact sum; `none` is the invalid sum of opposite infinities. `rdn` says how an exact zero sum of opposite signs is signed
(05 R106). NaNs are dealt with before. -/
def FV.add (rdn : Bool) : FV → FV → Option FV
  | .nan a, _ => some (.nan a)
  | _, .nan b => some (.nan b)
  | .inf a, .inf b => if a = b then some (.inf a) else none
  | .inf a, _ => some (.inf a)
  | _, .inf b => some (.inf b)
  | .zero a, .zero b => some (.zero (if a = b then a else rdn))
  | .zero _, .fin m e => some (.fin m e)
  | .fin m e, .zero _ => some (.fin m e)
  | .fin m e, .fin m' e' =>
    let q := min e e'
    some (.mk (m * 2 ^ (e - q).toNat + m' * 2 ^ (e' - q).toNat) q rdn)

/-- The exact product; `none` is the invalid product of a zero and an infinity. -/
def FV.mul : FV → FV → Option FV
  | .nan a, _ => some (.nan a)
  | _, .nan b => some (.nan b)
  | .inf _, .zero _ => none
  | .zero _, .inf _ => none
  | .inf a, .inf b => some (.inf (a != b))
  | .inf a, .fin m _ => some (.inf (a != decide (m < 0)))
  | .fin m _, .inf b => some (.inf (b != decide (m < 0)))
  | .zero a, .zero b => some (.zero (a != b))
  | .zero a, .fin m _ => some (.zero (a != decide (m < 0)))
  | .fin m _, .zero b => some (.zero (b != decide (m < 0)))
  | .fin m e, .fin m' e' => some (.fin (m * m') (e + e'))

def FV.flip : FV → FV
  | .nan b => .nan b
  | .inf b => .inf (!b)
  | .zero b => .zero (!b)
  | .fin m e => .fin (-m) e

/-- NaN among sources, with NV where one is signalling (05 R105). -/
def anyNan (F : Fmt) (xs : List FV) : Option FRes :=
  if xs.any FV.isNan then some { v := F.nan, fl := if xs.any FV.isSnan then flNV else 0 } else none

/-- The invalid result: NV and the canonical NaN. -/
def Fmt.invalid (F : Fmt) : FRes := { v := F.nan, fl := flNV }

def isRdn (rm : Rm) : Bool := match rm with | .rdn => true | .rne | .rtz | .rup => false

/-- FADD (09 R190). -/
def fAdd (F : Fmt) (rm : Rm) (ftz : Bool) (a b : Nat) : FRes :=
  let x := F.readZ ftz a
  let y := F.readZ ftz b
  match anyNan F [x, y] with
  | some r => r
  | none => match FV.add (isRdn rm) x y with
    | none => F.invalid
    | some v => F.roundV rm ftz false v

/-- FSUB (09 R190). -/
def fSub (F : Fmt) (rm : Rm) (ftz : Bool) (a b : Nat) : FRes :=
  let x := F.readZ ftz a
  let y := F.readZ ftz b
  match anyNan F [x, y] with
  | some r => r
  | none => match FV.add (isRdn rm) x y.flip with
    | none => F.invalid
    | some v => F.roundV rm ftz false v

/-- FMUL (09 R190). -/
def fMul (F : Fmt) (rm : Rm) (ftz : Bool) (a b : Nat) : FRes :=
  let x := F.readZ ftz a
  let y := F.readZ ftz b
  match anyNan F [x, y] with
  | some r => r
  | none => match FV.mul x y with
    | none => F.invalid
    | some v => F.roundV rm ftz false v

/-- FFMA: a x b + d with one rounding (09 R190). 0 x infinity is invalid even where the addend is a quiet NaN. -/
def fFma (F : Fmt) (rm : Rm) (ftz : Bool) (a b d : Nat) : FRes :=
  let x := F.readZ ftz a
  let y := F.readZ ftz b
  let z := F.readZ ftz d
  if !x.isNan && !y.isNan && (FV.mul x y).isNone then F.invalid
  else
    match anyNan F [x, y, z] with
    | some r => r
    | none => match (FV.mul x y).bind (fun p => FV.add (isRdn rm) p z) with
      | none => F.invalid
      | some v => F.roundV rm ftz false v

/-- The order of two values that are no NaNs: -1, 0 or 1 as the first is less, equal or greater; zeros are equal. -/
def FV.cmp : FV → FV → Int
  | .inf a, .inf b => if a = b then 0 else if a then -1 else 1
  | .inf a, _ => if a then -1 else 1
  | _, .inf b => if b then 1 else -1
  | .fin m e, .fin m' e' =>
    let q := min e e'
    let d := m * 2 ^ (e - q).toNat - m' * 2 ^ (e' - q).toNat
    if d < 0 then -1 else if d = 0 then 0 else 1
  | .fin m _, _ => if m < 0 then -1 else 1
  | _, .fin m _ => if m < 0 then 1 else -1
  | _, _ => 0

/-- The same with -0 below +0 (09 R191). -/
def FV.cmpZ (x y : FV) : Int :=
  match x, y with
  | .zero a, .zero b => if a = b then 0 else if a then -1 else 1
  | _, _ => FV.cmp x y

/-- FMIN and FMAX (09 R191). -/
def fMinMax (F : Fmt) (max ftz : Bool) (a b : Nat) : FRes :=
  let x := F.readZ ftz a
  let y := F.readZ ftz b
  let fl := if x.isSnan || y.isSnan then flNV else 0
  let back (z : FV) := (F.roundV .rne false false z).v
  if x.isNan then if y.isNan then { v := F.nan, fl } else { v := back y, fl }
  else if y.isNan then { v := back x, fl }
  else
    let c := FV.cmpZ x y
    { v := back (if max then (if c < 0 then y else x) else (if 0 < c then y else x)), fl }

/-- FCMP: the truth of a condition, and its flags (09 R191). -/
def fCmp (F : Fmt) (c : FCnd) (a b : Nat) : Bool × Nat :=
  let x := F.read a
  let y := F.read b
  let nan := x.isNan || y.isNan
  let d := FV.cmp x y
  let order := match c with | .lt | .le | .gt | .ge => true | .eq | .ne | .un | .num => false
  let fl := if (nan && order) || x.isSnan || y.isSnan then flNV else 0
  let t := match c with
    | .eq => !nan && d == 0
    | .ne => nan || d != 0
    | .lt => !nan && d < 0
    | .le => !nan && d ≤ 0
    | .gt => !nan && 0 < d
    | .ge => !nan && 0 ≤ d
    | .un => nan
    | .num => !nan
  (t, fl)

/-- An exact value rounded to an integer by the mode, and whether that is inexact. -/
def roundInt (rm : Rm) (m e : Int) : Int × Bool :=
  let r := roundAt m.natAbs e 0 false (m < 0) rm
  (if m < 0 then -(r.1 : Int) else r.1, r.2)

/-- FRND (09 R191). -/
def fRnd (F : Fmt) (rm : Rm) (ftz : Bool) (a : Nat) : FRes :=
  match F.readZ ftz a with
  | .nan s => { v := F.nan, fl := if s then flNV else 0 }
  | .inf n => { v := F.infinity n, fl := 0 }
  | .zero n => { v := F.sign n, fl := 0 }
  | .fin m e =>
    let r := roundInt rm m e
    { v := (F.roundV .rne false false (.mk r.1 0 (m < 0))).v, fl := if r.2 then flNX else 0 }

/-- FCLASS (09 R191). -/
def fClass (F : Fmt) (a : Nat) : Nat :=
  match F.read a with
  | .nan s => if s then 2 ^ 8 else 2 ^ 9
  | .inf n => if n then 2 ^ 0 else 2 ^ 7
  | .zero n => if n then 2 ^ 3 else 2 ^ 4
  | .fin m _ => if F.isSub a then (if m < 0 then 2 ^ 2 else 2 ^ 5) else (if m < 0 then 2 ^ 1 else 2 ^ 6)

/-- Two 16-bit elements of an 8-stitch operand (09 R192). -/
def packed2 (f : Nat → FRes) : FRes :=
  let x := f 0
  let y := f 1
  { v := x.v + 2 ^ 16 * y.v, fl := x.fl ||| y.fl }

/-- Element `i` of 16 bits. -/
def half (x i : Nat) : Nat := fld x (16 * i) 16

/-- FDOT4 (09 R193). A NaN among the sources comes before an invalid product: with a quiet one a product 0 × ∞ raises no NV (DESIGN CHOICE,
log 59). -/
def fDot4 (F : Fmt) (rm : Rm) (a b d : Nat) : FRes :=
  let xs := (List.range 4).map (fun i => F.read (fld a (8 * i) 8))
  let ys := (List.range 4).map (fun i => F.read (fld b (8 * i) 8))
  let z := Fmt.f32.read d
  match anyNan .f32 (xs ++ ys ++ [z]) with
  | some r => r
  | none =>
    let sum := (xs.zip ys).foldl (fun (acc : Option FV) p =>
      acc.bind (fun v => (FV.mul p.1 p.2).bind (fun q => FV.add (isRdn rm) v q))) (some z)
    match sum with
    | none => Fmt.f32.invalid
    | some v => Fmt.f32.roundV rm false false v

/-! ## Division and roots (09 R194, R195) -/

/-- The integer square root, from bit `k` down. -/
def isqrtFrom (n : Nat) : Nat → Nat → Nat
  | 0, r => if (r + 1) * (r + 1) ≤ n then r + 1 else r
  | k + 1, r => isqrtFrom n k (if (r + 2 ^ (k + 1)) * (r + 2 ^ (k + 1)) ≤ n then r + 2 ^ (k + 1) else r)

def isqrt (n : Nat) : Nat := isqrtFrom n (bitLen n / 2 + 1) 0

/-- The quotient of two finite nonzero values, rounded once. -/
def divFin (F : Fmt) (rm : Rm) (ftz : Bool) (m e m' e' : Int) : FRes :=
  let a := m.natAbs
  let b := m'.natAbs
  let k := F.mbits + 4 + bitLen b
  let q := a * 2 ^ k / b
  F.round rm ftz false (decide (m < 0) != decide (m' < 0)) q (e - e' - k) (a * 2 ^ k % b != 0)

/-- FDIV (09 R194, R195). -/
def fDiv (F : Fmt) (rm : Rm) (ftz : Bool) (a b : Nat) : FRes :=
  let x := F.readZ ftz a
  let y := F.readZ ftz b
  match anyNan F [x, y] with
  | some r => r
  | none =>
    let neg := x.neg != y.neg
    match x, y with
    | .zero _, .zero _ => F.invalid
    | .inf _, .inf _ => F.invalid
    | .fin .., .zero _ => { v := F.infinity neg, fl := flDZ }
    | .inf _, _ => { v := F.infinity neg, fl := 0 }
    | _, .inf _ => { v := F.sign neg, fl := 0 }
    | .zero _, _ => { v := F.sign neg, fl := 0 }
    | .fin m e, .fin m' e' => divFin F rm ftz m e m' e'
    | _, _ => F.invalid

/-- FRCP (09 R194, R195). -/
def fRcp (F : Fmt) (rm : Rm) (ftz : Bool) (a : Nat) : FRes :=
  match F.readZ ftz a with
  | .nan s => { v := F.nan, fl := if s then flNV else 0 }
  | .zero n => { v := F.infinity n, fl := flDZ }
  | .inf n => { v := F.sign n, fl := 0 }
  | .fin m e => divFin F rm ftz 1 0 m e

/-- A finite value with an even exponent. -/
def evenExp (m : Nat) (e : Int) : Nat × Int := if e % 2 = 0 then (m, e) else (2 * m, e - 1)

/-- FSQRT (09 R194, R195). -/
def fSqrt (F : Fmt) (rm : Rm) (ftz : Bool) (a : Nat) : FRes :=
  match F.readZ ftz a with
  | .nan s => { v := F.nan, fl := if s then flNV else 0 }
  | .zero n => { v := F.sign n, fl := 0 }
  | .inf n => if n then F.invalid else { v := F.infinity false, fl := 0 }
  | .fin m e =>
    if m < 0 then F.invalid
    else
      let x := evenExp m.natAbs e
      let k := F.mbits + 4
      let n := x.1 * 2 ^ (2 * k)
      let r := isqrt n
      F.round rm ftz false false r (x.2 / 2 - k) (r * r != n)

/-- FRSQ (09 R194, R195). -/
def fRsq (F : Fmt) (rm : Rm) (ftz : Bool) (a : Nat) : FRes :=
  match F.readZ ftz a with
  | .nan s => { v := F.nan, fl := if s then flNV else 0 }
  | .zero n => { v := F.infinity n, fl := flDZ }
  | .inf n => if n then F.invalid else { v := F.sign false, fl := 0 }
  | .fin m e =>
    if m < 0 then F.invalid
    else
      let x := evenExp m.natAbs e
      let k := F.mbits + 4 + bitLen x.1
      let r := isqrt (2 ^ (2 * k) / x.1)
      F.round rm ftz false false r (-(x.2 / 2) - k) (r * r * x.1 != 2 ^ (2 * k))

/-! ## Faithfully rounded functions (09 R194, R195, log 12)

The exact value is bracketed with 220 fraction bits, far more than any .f32 argument needs; which of the two bracketing .f32 values
is delivered is a free value of Config. -/

/-- Fraction bits. -/
def fixBits : Nat := 220

/-- pi and the natural logarithm of 2, with 220 fraction bits, rounded down. -/
def fixPi : Nat := 0x3243f6a8885a308d313198a2e03707344a4093822299f31d0082efa9
def fixLn2 : Nat := 0xb17217f7d1cf79abc9e3b39803f2f6af40f343267298b62d8a0d175

def fixMul (a b : Nat) : Nat := a * b / 2 ^ fixBits

/-- The sum of x^k / k! from the term `t` of index `k` on. -/
def expTerms (x : Nat) : Nat → Nat → Nat → Nat
  | 0, _, t => t
  | fuel + 1, k, t => t + expTerms x fuel (k + 1) (fixMul t x / (k + 1))

/-- 2^f for a fraction f below 1, in fixed point. -/
def fixExp2 (f : Nat) : Nat := expTerms (fixMul f fixLn2) 60 0 (2 ^ fixBits)

/-- The alternating sum of the sine series from the positive term `t` of index `k` on, as its positive and negative parts. -/
def sinTerms (x2 : Nat) : Nat → Nat → Nat → Nat × Nat
  | 0, _, t => (t, 0)
  | fuel + 1, k, t =>
    let r := sinTerms x2 fuel (k + 2) (fixMul t x2 / ((k + 1) * (k + 2)))
    (t + r.2, r.1)

/-- sin(pi r) for r from 0 to below 1/2, in fixed point: less than one, however near. -/
def fixSinPi (r : Nat) : Nat :=
  let x := fixMul r fixPi
  let s := sinTerms (fixMul x x) 40 1 x
  min (s.1 - s.2) (2 ^ fixBits - 1)

/-- Fraction bits of log2 y for y from 1 to 2, most significant first. -/
def log2Digits : Nat → Nat → Nat → Nat
  | 0, _, acc => acc
  | fuel + 1, y, acc =>
    let z := fixMul y y
    if 2 * 2 ^ fixBits ≤ z then log2Digits fuel (z / 2) (2 * acc + 1) else log2Digits fuel z (2 * acc)

/-- Digits of a logarithm. -/
def logBits : Nat := 180

/-- The exact value `m` times 2 to the `e` lies strictly between two .f32 values or is delivered as one of them. -/
def faithful (op : Nat) (x : Nat) (ftz neg : Bool) (m : Nat) (e : Int) : FRes :=
  Fmt.f32.round (if Config.faithfulUp op (BitVec.ofNat 32 x) then .rup else .rdn) ftz false neg m e true

/-- FEXP2 (09 R194, R195). -/
def fExp2 (ftz : Bool) (a : Nat) : FRes :=
  let F := Fmt.f32
  match F.readZ ftz a with
  | .nan s => { v := F.nan, fl := if s then flNV else 0 }
  | .inf n => if n then { v := 0, fl := 0 } else { v := F.infinity false, fl := 0 }
  | .zero _ => { v := (F.roundV .rne false false (.fin 1 0)).v, fl := 0 }
  | .fin m e =>
    if 0 ≤ FV.cmp (.fin m e) (.fin 128 0) then { v := F.infinity false, fl := flOF ||| flNX }
    else if FV.cmp (.fin m e) (.fin (-150) 0) < 0 then { v := 0, fl := flUF ||| flNX }
    else
      let scaled : Int := m * 2 ^ (e + fixBits).toNat
      let n := scaled / (2 ^ fixBits : Nat)
      let f := (scaled % (2 ^ fixBits : Nat)).toNat
      if f = 0 ∧ -149 ≤ n then F.roundV .rne ftz false (.fin 1 n)
      else if f = 0 then faithful 0 a ftz false 1 n
      else faithful 0 a ftz false (fixExp2 f) (n - fixBits)

/-- FLOG2 (09 R194, R195). -/
def fLog2 (ftz : Bool) (a : Nat) : FRes :=
  let F := Fmt.f32
  match F.readZ ftz a with
  | .nan s => { v := F.nan, fl := if s then flNV else 0 }
  | .zero _ => { v := F.infinity true, fl := flDZ }
  | .inf n => if n then F.invalid else { v := F.infinity false, fl := 0 }
  | .fin m e =>
    if m < 0 then F.invalid
    else
      let k := bitLen m.natAbs - 1
      let E : Int := k + e
      if m.natAbs = 2 ^ k then F.roundV .rne false false (.ofInt E)
      else
        let d := log2Digits logBits (m.natAbs * 2 ^ (fixBits - k)) 0
        let v : Int := E * (2 ^ logBits : Nat) + d
        if v < 0 then faithful 1 a ftz true (v.natAbs - 1) (-(logBits : Int)) else faithful 1 a ftz false v.natAbs (-(logBits : Int))

/-- sin(pi x) for x in units of 2^-220 half-turns, reduced: the sign and the magnitude, with `none` for an exact result. -/
def sinPiOf (x : Int) : Bool × Option Nat × Nat :=
  let one := 2 ^ fixBits
  let t := (x % (2 * one : Nat)).toNat
  let neg := one ≤ t
  let u := if neg then t - one else t
  let r := if one < 2 * u then one - u else u
  if r = 0 then (neg, none, 0)
  else if 2 * r = one then (neg, none, 1)
  else (neg, some (fixSinPi r), 0)

/-- FSIN and FCOS from the argument in half-turns (09 R194, R195). -/
def fTrig (op : Nat) (ftz : Bool) (a : Nat) (cos : Bool) : FRes :=
  let F := Fmt.f32
  match F.readZ ftz a with
  | .nan s => { v := F.nan, fl := if s then flNV else 0 }
  | .inf _ => F.invalid
  | .zero n => if cos then { v := (F.roundV .rne false false (.fin 1 0)).v, fl := 0 } else { v := F.sign n, fl := 0 }
  | .fin m e =>
    let x : Int := m * 2 ^ (e + fixBits).toNat
    let x := if cos then x + (2 ^ (fixBits - 1) : Nat) else x
    match sinPiOf x with
    | (neg, none, v) =>
      if v = 0 then { v := if cos then 0 else F.sign (decide (m < 0)), fl := 0 }
      else F.roundV .rne false false (.fin (if neg then -1 else 1) 0)
    | (neg, some v, _) => faithful op a ftz neg v (-(fixBits : Int))

/-! ## Scaling and conversions (05 R110 to R113, 09 R196 to R198) -/

/-- FSCALE (09 R198). -/
def fScale (F : Fmt) (rm : Rm) (ftz : Bool) (a : Nat) (n : Int) : FRes :=
  match F.readZ ftz a with
  | .nan s => { v := F.nan, fl := if s then flNV else 0 }
  | .inf s => { v := F.infinity s, fl := 0 }
  | .zero s => { v := F.sign s, fl := 0 }
  | .fin m e => F.round rm ftz false (m < 0) m.natAbs (e + n) false

/-- A pattern of an integer type read as an integer (05 R102). -/
def readInt (t : Ty) (x : Nat) : Int := if t.signed then extS x t.bits else extZ x t.bits

/-- Saturation to a type (05 R102). -/
def satTo (t : Ty) (v : Int) : Int := if t.signed then satS v t.bits else satN v t.bits

/-- An integer in the range of a type. -/
def inRange (t : Ty) (v : Int) : Bool := satTo t v == v

/-- 05 R111: a floating-point value to an integer type; the result as an integer. -/
def floatToInt (t : Ty) (rm : Rm) : FV → Int × Nat
  | .nan _ => (0, flNV)
  | .inf n => (satTo t (if n then -(2 ^ 64 : Nat) else (2 ^ 64 : Nat)), flNV)
  | .zero _ => (0, 0)
  | .fin m e =>
    let r := roundInt rm m e
    if inRange t r.1 then (r.1, if r.2 then flNX else 0) else (satTo t r.1, flNV)

/-- 05 R113: an .f32 value to e8m0. -/
def toE8m0 (rm : Rm) : FV → FRes
  | .nan _ => { v := 0xFF, fl := flNV }
  | .zero _ => { v := 0xFF, fl := flNV }
  | .inf n => if n then { v := 0xFF, fl := flNV } else { v := 0xFE, fl := flOF ||| flNX }
  | .fin m x =>
    if m < 0 then { v := 0xFF, fl := flNV }
    else
      let k := bitLen m.natAbs - 1
      let e : Int := k + x
      let exact := m.natAbs == 2 ^ k
      let up := match rm with
        | .rup => !exact
        | .rne => 3 * 2 ^ k < 2 * m.natAbs || (2 * m.natAbs == 3 * 2 ^ k && e % 2 == 0)
        | .rtz => false
        | .rdn => false
      let c := if up then e + 1 else e
      if 127 < c then { v := 0xFE, fl := flOF ||| flNX }
      else if c < -127 then { v := 0x00, fl := flUF ||| flNX }
      else { v := (c + 127).toNat, fl := if !up && exact then 0 else flNX }

/-- The value of an e8m0 byte (05 R104). -/
def readE8m0 (b : Nat) : FV := if b % 256 = 0xFF then .nan false else .fin 1 ((b % 256 : Nat) - 127)

/-- 05 R112: an infinity in a conversion to an FP8 format; other values by the ordinary rounding. -/
def toFloat (t : Ty) (rm : Rm) (sat : Bool) (v : FV) : FRes :=
  let F := fmtOf t
  match v with
  | .inf n =>
    if sat && (t == .e4m3 || t == .e5m2) then { v := F.maxFin n, fl := flNX }
    else if t == .e4m3 then F.invalid
    else { v := F.infinity n, fl := 0 }
  | .nan s => { v := F.nan, fl := if s then flNV else 0 }
  | .zero n => { v := F.sign n, fl := 0 }
  | .fin m e => F.round rm false sat (m < 0) m.natAbs e false

/-- The value that a pattern of a type names. -/
def readTy (t : Ty) (x : Nat) : FV :=
  if t.isInt then .ofInt (readInt t x)
  else if t == .e8m0 then readE8m0 x
  else (fmtOf t).read x

/-- A conversion from one type to another (05 R110 to R113): the result as an integer, and its flags. `sat` is .sat; between
integer types it is 03 R60's, which saturates to a narrower type only. The value keeps the signedness of the source type until then, also in a
wider type of the other signedness (DEDUCED, log 59). -/
def convert (dst src : Ty) (rm : Rm) (sat : Bool) (x : Nat) : Int × Nat :=
  if dst.isInt then
    if src.isInt then
      let v := readInt src x
      (if sat && dst.bits < src.bits then satTo dst v else readInt dst (pat v dst.bits), 0)
    else floatToInt dst rm (readTy src x)
  else if dst == .e8m0 then
    if src == .e8m0 then ((x % 256 : Nat), 0)
    else let r := toE8m0 rm (readTy src x); ((r.v : Int), r.fl)
  else let r := toFloat dst rm sat (readTy src x); ((r.v : Int), r.fl)

/-! ## Block elements (05 R114 to R119) -/

/-- A BX8 or BX4 element (05 R116). -/
def readBx (bx4 : Bool) (x : Nat) : Int :=
  if bx4 then (if x % 16 = 8 then -7 else extS x 4) else (if x % 256 = 128 then -127 else extS x 8)

/-- A BT2 element, and TC for the reserved code (05 R116). -/
def readBt2 (x : Nat) : Int × Nat :=
  match x % 4 with
  | 0 => (0, 0)
  | 1 => (1, 0)
  | 2 => (0, flTC)
  | _ => (-1, 0)

/-- The greatest element of a block format (05 R114). -/
def bxMax (bx4 : Bool) : Int := if bx4 then 7 else 127

def clampI (v lo hi : Int) : Int := min (max v lo) hi

/-- One element of a vector. -/
def elemAt (l : List Nat) (i : Nat) : Nat := (l[i]?).getD 0

/-- One stage of the Hadamard butterfly over a group (05 R117): the values and the flags raised. -/
def hadStage (st : Nat) (x : List Nat) : List Nat × Nat :=
  let step := 2 ^ st
  let r := (List.range x.length).map (fun i =>
    if i / step % 2 = 0 then fAdd .f32 .rne false (elemAt x i) (elemAt x (i + step))
    else fSub .f32 .rne false (elemAt x (i - step)) (elemAt x i))
  (r.map (·.v), r.foldl (fun f e => f ||| e.fl) 0)

/-- The Hadamard transform of 2^k values (05 R117). -/
def hadamard : Nat → Nat → List Nat → List Nat × Nat
  | 0, _, x => (x, 0)
  | k + 1, st, x =>
    let r := hadStage st x
    let q := hadamard k (st + 1) r.1
    (q.1, r.2 ||| q.2)

/-- floor(log2 |v|) of a finite nonzero value. -/
def expOf (m e : Int) : Int := bitLen m.natAbs - 1 + e

/-- QBLK's quantisation of one block (05 R118): the scale byte, the elements with their NX, and NV for the whole block. -/
def quantise (bx4 : Bool) (xs : List Nat) : Nat × List (Int × Nat) × Nat :=
  let vs := xs.map Fmt.f32.read
  let bad := vs.any (fun v => match v with | .nan _ => true | .inf _ => true | .zero _ => false | .fin .. => false)
  if bad then (0xFF, xs.map (fun _ => (0, 0)), flNV)
  else
    let es := vs.filterMap (fun v => match v with | .fin m e => some (expOf m e) | .nan _ => none | .inf _ => none | .zero _ => none)
    match es with
    | [] => (0, xs.map (fun _ => (0, 0)), 0)
    | e0 :: et =>
      let E := et.foldl max e0
      let S := max (E - (if bx4 then 2 else 6)) (-127)
      let q (v : FV) : Int × Nat := match v with
        | .fin m e =>
          let r := roundInt .rne m (e - S)
          let c := clampI r.1 (-(bxMax bx4)) (bxMax bx4)
          (c, if r.2 || c != r.1 then flNX else 0)
        | .nan _ => (0, 0)
        | .inf _ => (0, 0)
        | .zero _ => (0, 0)
      ((S + 127).toNat, vs.map q, 0)

/-- DQBLK of one element (05 R119, 09 R201). -/
def dequantise (bx4 : Bool) (x sc : Nat) : FRes :=
  if sc % 256 = 0xFF then Fmt.f32.invalid
  else Fmt.f32.roundV .rne false false (.mk (readBx bx4 x) ((sc % 256 : Nat) - 127) false)

/-- REQ of one element from the source format to the destination format (05 R119, 09 R202). -/
def requantise (srcBx4 dstBx4 : Bool) (x s t : Nat) : Int × Nat :=
  if s = 0xFF ∨ t = 0xFF then (0, flNV)
  else
    let r := roundInt .rne (readBx srcBx4 x) ((s : Int) - t)
    let c := clampI r.1 (-(bxMax dstBx4)) (bxMax dstBx4)
    (c, if r.2 || c != r.1 then flNX else 0)

/-! ## Atomic .f32 arithmetic (10 R225) -/

/-- A source of an .f32 atomic: subnormals read as +0. -/
def atomRead (x : Nat) : FV := if Fmt.f32.isSub x then .zero false else Fmt.f32.read x

/-- A result of an .f32 atomic: a subnormal is written as +0 and raises UF and NX. -/
def atomRound (v : FV) : FRes :=
  let r := Fmt.f32.roundV .rne false false v
  if Fmt.f32.isSub r.v then { v := 0, fl := flUF ||| flNX } else r

/-- fadd, fmin and fmax of atomics and merges (10 R225). -/
def atomF (aop : Aop) (m x : Nat) : FRes :=
  let a := atomRead m
  let b := atomRead x
  if a.isNan || b.isNan then Fmt.f32.invalid
  else
    match aop with
    | .fmin => { v := (Fmt.f32.roundV .rne false false (if 0 < FV.cmpZ a b then b else a)).v, fl := 0 }
    | .fmax => { v := (Fmt.f32.roundV .rne false false (if FV.cmpZ a b < 0 then b else a)).v, fl := 0 }
    | _ => match FV.add false a b with
      | none => Fmt.f32.invalid
      | some v => atomRound v

end Machine
end Sys2Proof
end

