-- ==== Sys2Proof/Machine/Tab.lean ====
section
/-! DEFINITION. Tables: finite maps from numbers, kept as association lists in rising key order.

A table holds the parts of the machine that exist (cores with state of their own, resident gangs, tiles that have been
held, ...). Reading a key that is not listed gives the default that the reader names.
-/

set_option Elab.async false

namespace Sys2Proof

/-- A finite map from numbers. -/
abbrev Tab (α : Type) := List (Nat × α)

namespace Machine

/-- The entry at `k`, if there is one. -/
def tabFind {α : Type} : Tab α → Nat → Option α
  | [], _ => none
  | (k', v) :: t, k => if k' = k then some v else tabFind t k

/-- The entry at `k`, or `d`. -/
def tabGet {α : Type} (d : α) (t : Tab α) (k : Nat) : α := (tabFind t k).getD d

/-- The table with entry `v` at `k`. -/
def tabSet {α : Type} : Tab α → Nat → α → Tab α
  | [], k, v => [(k, v)]
  | (k', v') :: t, k, v =>
    if k < k' then (k, v) :: (k', v') :: t
    else if k = k' then (k, v) :: t
    else (k', v') :: tabSet t k v

/-- The table without the entry at `k`. -/
def tabDel {α : Type} (t : Tab α) (k : Nat) : Tab α := t.filter (fun e => e.1 != k)

/-- The first free number of a table, at least `n`. -/
def tabFresh {α : Type} (t : Tab α) (n : Nat) : Nat := t.foldl (fun m e => max m (e.1 + 1)) n

/-- `f` applied to each element of a list with its position. -/
def mapFrom {α β : Type} (f : Nat → α → β) : Nat → List α → List β
  | _, [] => []
  | n, a :: l => f n a :: mapFrom f (n + 1) l

/-- A list with element `i` replaced; unchanged where it is shorter. -/
def listSet {α : Type} : List α → Nat → α → List α
  | [], _, _ => []
  | _ :: l, 0, v => v :: l
  | a :: l, n + 1, v => a :: listSet l n v

/-- The first number below `n` that satisfies `p`, searching upwards. -/
def firstBelow (n : Nat) (p : Nat → Bool) : Option Nat := (List.range n).find? p

end Machine
end Sys2Proof
end

