-- ==== Sys2Proof/Machine/State.lean ====
section
/-! DEFINITION. The state of the module: everything the spec gives the machine, as plain data, and its value right after cold reset.

Fields marked MODEL are the model's own (log 1, log 2). Objects that come and go (resident gangs and teams, launches,
commands under way) stand in tables; an object that is not listed is not resident.
-/

set_option Elab.async false

namespace Sys2Proof
namespace Machine

/-- Memory: listed bytes in rising key order (log 3 gives the keys, log 4 what an unlisted byte reads as). -/
abbrev Memory := List Host.Cell

/-- A lane's stitches, poisoned rows, predicates and %fpsr (01 R9, 03 R57, R59, R71, R76). -/
structure Lane where
  st : BitVec 4096
  poison : BitVec 128
  preds : Word32
  fpsr : Word32
  deriving DecidableEq, Repr

/-- A gang's lanes; a gang of width 16 or 32 never has the upper ones in a mask (26 R408). -/
abbrev Lanes := Vector Lane 64

/-- A gang's uniform registers (03 R73). -/
abbrev KRegs := Vector Word64 64

/-- Roles of a gang (01 R17). -/
inductive Role
  | v | m | c
  deriving DecidableEq, Repr

/-- What a trapped group reports (18 R320, R321). -/
structure TrapInfo where
  cause : Nat
  ord : Nat
  off : Nat
  kept : Bool
  code : Nat
  detail : Nat
  resume : Nat
  deriving DecidableEq, Repr

/-- The first deferred fault of a lane in a trace (04 R95). -/
structure FaultRec where
  cause : Nat
  off : Nat
  detail : Nat
  deriving DecidableEq, Repr

/-- Results that come from an engine and are not known at issue (03 R425). -/
inductive LateKind
  | msync (quarters : List Nat) (clr : Bool) (cmds : List Nat)
  | drain (launch : Nat)
  | claim (tile : Nat)
  deriving DecidableEq, Repr

/-- A late result: its values once known (status, predicate, uniform). -/
structure Late where
  id : Nat
  kind : LateKind
  val : Option (Nat × Bool × Nat)
  deriving DecidableEq, Repr

/-- The value of a pending write: known, or a late result. -/
inductive PVal
  | now (v : Nat)
  | late (id : Nat)
  deriving DecidableEq, Repr

/-- A pending long-latency write (03 R64 to R66). `mask` holds the stitch bits that no later write has cancelled. -/
inductive Pend
  | st (lane start : Nat) (mask : BitVec 4096) (v : PVal)
  | pr (lane p : Nat) (v : PVal)
  | uni (k : Nat) (v : PVal)
  | fl (lane : Nat) (f : Word32)
  deriving DecidableEq, Repr

/-- One effect held in a store buffer (04 R85): a byte write under a bit mask, or a reduction. -/
inductive BufOp
  | write (key : Nat) (mask val : Byte) (pol : Nat)
  | red (keys : List (Option Nat)) (aop : Aop) (ty : Ty) (x : Nat) (ordm : Bool)
  deriving DecidableEq, Repr

/-- A lane's buffered entry for the word at an offset of its trace (04 R85, R90). -/
structure BufEntry where
  lane : Nat
  off : Nat
  rel : Option Scope
  ops : List BufOp
  deriving DecidableEq, Repr

/-- A row copied into the undo buffer, for all lanes (04 R84), with the lanes in which it was poisoned (03 R57). -/
structure UndoRow where
  row : Nat
  old : Vector Word32 64
  bad : Mask
  deriving DecidableEq, Repr

/-- A terminator that has issued, with what it read at issue: a LOOP has chosen its target by then (04 R91, 08 R169). -/
inductive Term
  | next
  | jmp (off : Int)
  | jsel (p : PSrc) (t f j : Int)
  | jtab (slot : Nat) (idx : Opnd)
  | call (off : Int) (link : Opnd)
  | callt (slot : Nat) (idx : Opnd)
  | ret (ra : Opnd)
  | exit
  | yield (off : Int) (on : YieldOn)
  | barw (b : Bar)
  | eret
  | codone
  | cosumm (k : Nat)
  | corefuse
  deriving DecidableEq, Repr

/-- The trace a slot is running (04 R77 to R88). -/
structure Run where
  hdr : Header
  /-- the words after the header, taken together when the header issued (18 R330) -/
  words : List Word64
  /-- offset of the next word to issue -/
  pos : Nat
  failed : Mask
  /-- failed lanes by alternative trace, in program order of the GRDs (04 R86) -/
  alts : List (Nat × Mask)
  faults : Tab FaultRec
  pends : List Pend
  lates : List Late
  undoRows : List UndoRow
  undoPF : Tab (Word32 × Word32)
  store : List BufEntry
  nGrd : Nat
  nBuf : Nat
  rows : List Nat
  trapi : Option (Nat × Mask)
  watch : Option (Nat × Nat)
  /-- an IDLE stands in the trace (18 R327) -/
  idle : Bool
  recld : List Nat
  /-- the number of this issue of the header (18 R329) -/
  born : Nat
  /-- the cycle in which the last of the pending results returns (03 R425) -/
  back : Nat
  /-- the cycle until which an access among them waits behind an acquire (10 R216) -/
  behind : Nat
  /-- the first word of a two-word terminator has issued (04 R100) -/
  half : Bool
  /-- the terminator that has issued and its offset, when the trace waits to resolve -/
  term : Option (Term × Nat)
  deriving DecidableEq, Repr

/-- The layout record, box and options of a copy command (13 R280 to R284, 22 R374). -/
structure CopyReq where
  kind : Nat
  lane : Nat
  layoutAddr : Nat
  box0 : Nat
  box1 : Nat
  spw : Nat
  bar : Option BarId
  br : Bar
  aop : Aop
  ty : Ty
  deriving DecidableEq, Repr

/-- What a word held at issue waits for from outside the core (18 R310). -/
inductive OutVal
  | ready (d : Opnd)
  | rflag (d : Opnd)
  | rclear (v : Nat)
  | meter (d : Opnd) (addr n : Nat)
  | icinv (page : Option (Nat × Nat))
  deriving DecidableEq, Repr

/-- A team that a CTXLD has loaded (18 R332), and what it was as a saved team, where it was one: to what it goes back when a recipe traps. -/
structure Loaded where
  team : Nat
  known : Bool
  image : Nat
  byCtx : Bool
  lanes : List Nat
  room : Option (Nat × Nat)
  deriving DecidableEq, Repr

/-- Why a slot that holds lanes does not issue (19 R347 names the stall reasons). A wait on a barrier says whether it is a YIELD's. `fill`,
`record` and `seal` stand before a word that has not issued: it names an overflow row to be filled (03 R70) or a record slot whose copy is on
its way (06 R138), or it is a BSEAL beyond the open batches of a lane (13 R286). `trapping` is an at-issue trap whose word stands after words
with results to come (03 R67). -/
inductive Wait
  | none
  | landing
  | trapping (cause off : Nat)
  | fill (row : Nat)
  | record (q : Nat)
  | seal (lane : Nat)
  | resolving
  | undo
  | join
  | barrier (b : BarId) (ph yield : Bool)
  | batch (lane n : Nat)
  | watch (a v : Nat)
  | claim (tile : Nat) (op : ClaimOp) (lanes : Mask)
  | bwait (lane n : Nat)
  | copy (q : CopyReq)
  | spawn (entry : Nat) (payload : Nat) (start : Nat) (left : Mask)
  | outside (v : OutVal) (lanes : Mask)
  | tlbsync
  | stopped
  | trapped (t : TrapInfo)
  | idle
  | saving (team : Nat) (d : Opnd) (lanes : Mask)
  /-- a CTXLD whose teams still run recipes (18 R332, 21 R370) -/
  | loading (teams : List Loaded) (d : Opnd) (lanes : Mask)
  /-- a word, or a header, that needs a function of the module which is not ready (27 R421) -/
  | unready
  /-- a store behind a FENCE finds the core's queue of held stores full (25 R397) -/
  | queue
  /-- a slot of a cast-off routine that ends as an overrun once its pending results have returned (11 R244, 03 R67) -/
  | overrun
  deriving DecidableEq, Repr

/-- A slot in a trap handler (18 R319, R325): what the trapped group had. -/
structure Hnd where
  trap : TrapInfo
  mask : Mask
  tok : Option Nat
  depth : Nat
  deriving DecidableEq, Repr

/-- A trace slot (04 R92). `run` is the trace in progress; with none, the slot is at its trace's entry. A slot with no
lanes is free. -/
structure Slot where
  mask : Mask
  entry : Nat
  tok : Option Nat
  wait : Wait
  run : Option Run
  hnd : Option Hnd
  /-- the entry at which a stopped slot was resumed (24 R392) -/
  resumed : Bool
  /-- the slot holds an undo and a store buffer (04 R83) -/
  pair : Bool
  /-- order of the slot's last issue; 0 when it has never issued (04 R93) -/
  stamp : Nat
  /-- cycles of the core before which the slot issues nothing, in rising order, each with the stall reason until then: bank conflicts (06 R129),
  the drain of a store buffer (04 R100), an entry on its way from the stack (04 R92) -/
  hold : List (Nat × Nat)
  deriving DecidableEq, Repr

/-- Entries of a divergence stack (04 R92). A path entry keeps what its group waits for: its trap's delivery (18 R324), a watched
word (13 R288), a barrier or a batch (log 21). -/
inductive StackEntry
  | path (addr : Nat) (mask : Mask) (tok : Option Nat) (wait : Wait)
  | token (id : Nat) (j : Nat) (expected arrived : Mask) (parent : Option Nat)
  deriving DecidableEq, Repr

/-- A C-gang lane's batches (13 R286): sealed and completed counts since admission. -/
structure LaneBatch where
  sealed : Nat
  done : Nat
  deriving DecidableEq, Repr

/-- The cast-off context of a registrant gang (11 R242). -/
structure Castoff where
  tile : Nat
  a : Slot
  b : Slot
  preds : List Word32
  fpsr : List Word32
  count : Nat
  bound : Nat
  depth : Nat
  deriving DecidableEq, Repr

/-- A TLBI that has not completed (18 R329): virtual device, and a page or all. Once the entries are dropped, `waits` holds the numbers of
the guarded traces, reductions and copies that may have translated through them. -/
structure TlbiReq where
  panel : Nat
  vd : Nat
  va : Option Nat
  waits : Option (List Nat)
  deriving DecidableEq, Repr

/-- The recipes that a restored gang runs before anything else (21 R370): slot A as saved, and the recipes to come, each with its entry and
lanes. -/
structure Rebuild where
  a : Slot
  todo : List (Nat × Mask)
  deriving DecidableEq, Repr

/-- A gang (01 R10, R11). -/
structure Gang where
  team : Option Nat
  num : Nat
  role : Role
  width : Nat
  lanes : Lanes
  k : KRegs
  a : Slot
  b : Slot
  stack : List StackEntry
  nextTok : Nat
  age : Nat
  starve : Nat
  stalls : List Nat
  /-- the stall counters of a width-64 pair's second member (26 R409) -/
  stalls1 : List Nat
  /-- loads and ATOMs of some lanes on their way, and the cycle in which they are performed (10 R216, 27 R422) -/
  loads : List (Mask × Nat)
  /-- stores and reductions of some lanes on their way to their places, and the cycle in which they are performed (10 R216, 27 R422) -/
  stores : List (Mask × Nat)
  /-- lanes whose stores the core holds behind a FENCE with release ordering, and the cycle until which it does (10 R221, 25 R397) -/
  fence : List (Mask × Nat)
  /-- lanes whose accesses wait behind an acquire on its way, and the cycle in which it is performed (10 R216) -/
  acq : List (Mask × Nat)
  batches : Tab LaneBatch
  co : Option Castoff
  rebuild : Option Rebuild
  tlbi : List TlbiReq
  live : Mask
  /-- stitches held in the register file (03 R68) -/
  bound : Nat
  /-- overflow rows in the window, least recently used first, with a written flag (03 R70) -/
  window : List (Nat × Bool)
  govb : Nat
  deriving DecidableEq, Repr

/-- A barrier register (13 R274). -/
structure Barrier where
  phase : Bool
  expmem : Nat
  arrmem : Nat
  expbytes : Nat
  arrbytes : Nat
  /-- gangs that have arrived in the current phase, each by its team's number and its own: 64 x team + %gang (21 R373) -/
  came : List Nat
  /-- the cycle from which it may complete again (13 R275) -/
  next : Nat
  deriving DecidableEq, Repr

/-- The fetch a RECLD has under way (10 R209): the copy of the record that it took, whether it met poison (27 R419), and the cycle in which it
returns (03 R425). -/
structure RecReq where
  slot : SlotRef
  lane : Nat
  off : Nat
  key : Nat
  copy : BitVec 256
  bad : Bool
  back : Nat
  deriving DecidableEq, Repr

/-- A record slot (06 R138). -/
structure RecSlot where
  body : BitVec 256
  valid : Bool
  pending : Option RecReq
  deriving DecidableEq, Repr

/-- A cast-off registration (11 R240). -/
structure Reg where
  gang : Nat
  entry : Nat
  bound : Nat
  deriving DecidableEq, Repr

/-- How a unit is being pre-empted (21 R366). A drain has the cycle of the request. -/
inductive Pre
  | none
  | drain (since : Nat)
  | flush
  | save
  | noRoom
  deriving DecidableEq, Repr

/-- A registered region control block (19 R334). -/
structure Rcb where
  panel : Nat
  addr : Nat
  leaf : Bool
  nq : Nat
  parent : Nat
  quantum : Nat
  prio : Nat
  fdom : Nat
  refb : Nat
  window : Nat
  cobnd : Nat
  limq : Nat
  limx : Nat
  emax : Nat
  meter : Nat
  ovr : Nat
  deriving DecidableEq, Repr

/-- A resident team (01 R11). `eff` holds the effective values of its region control block that were in force at its dispatch (19 R334,
R335). -/
structure Team where
  launch : Nat
  eff : Rcb
  idx : Nat
  core : Nat
  pos : Nat
  cluster : Nat
  /-- the number by which its launch keeps the barrier registers of its cluster: the cluster's, or one of its own for a further team that CTXLD has
  made (01 R13, 18 R332) -/
  cbar : Nat
  partner : Option Nat
  ngang : Nat
  stitches : Nat
  grant : Nat
  /-- gang places held, with the first granule and the granules of each (19 R342) -/
  regRuns : List (Nat × Nat × Nat)
  /-- grid barriers on which a gang is marked, with its number (13 R279) -/
  gmarks : List (Nat × Nat)
  spadBase : Nat
  scratch : Nat
  bars : List Barrier
  recs : List RecSlot
  reg : Option Reg
  /-- recalls that came up before this number are delivered before any other word of the team issues (11 R241) -/
  recallsTill : Nat
  refusals : Nat
  admitted : Nat
  /-- the order of admissions (21 R373) -/
  seq : Nat
  resid : Nat
  /-- the place in the recall window at resident cycle 0 (11 R246, 21 R370) -/
  winOff : Nat
  /-- core-cycles that the meter has (19 R338, 23 R385) -/
  metered : Nat
  saves : Nat
  spawned : Nat
  stallTot : List Nat
  pre : Pre
  ended : Option (Nat × Nat)
  /-- the address of the image that a save in progress writes (21 R368) -/
  image : Option Nat
  /-- the remap entry in force: the system address of the image's scratchpad section (21 R371) -/
  remap : Option Nat
  deriving DecidableEq, Repr

/-- A DRAIN in progress for a launch (13 R291): pairs swept, and the last sums. -/
structure Sweep where
  pairs : Nat
  half : Option (Nat × Nat)
  deriving DecidableEq, Repr

/-- A launch: its parameter block and descriptor, and how far it has been dispatched (19 R336, 26 R400). -/
structure Launch where
  panel : Nat
  vd : Nat
  rcb : Nat
  queue : Nat
  block : List Word64
  blockAddr : Nat
  desc : List Word64
  walk : Nat
  dispatched : Nat
  again : List Nat
  retired : Nat
  dropped : Bool
  gbars : List Barrier
  cbars : Tab (List Barrier)
  sent : Nat
  recv : Nat
  sweep : Option Sweep
  deriving DecidableEq, Repr

/-- One team's entry in a tile's recall queue (11 R236). `nb` says that CLAIM.nb made it, so that TILEQ reports its grant; `va` is the
address by which an extent was named. -/
structure TileReq where
  team : Nat
  cls : Cls
  prio : Nat
  arr : Nat
  nb : Bool
  va : Nat
  deriving DecidableEq, Repr

/-- How a tile is on its way from its holder (11 R238, R245, R246, R248). -/
inductive Passing
  | release
  | done
  | summary (addr : Nat)
  | strip (why : StripWhy)
  | revoke
  deriving DecidableEq, Repr

/-- A recall of a tile (11 R236, R241): none, come up as the `n`-th, or its routine in progress. -/
inductive Recall
  | none
  | due (n : Nat)
  | run
  deriving DecidableEq, Repr

/-- A claimable tile (11 R230 to R250). `next` is the claim that a revoked loan goes to (11 R234), `summ` the address that a COSUMM
hands to the next grant, `stripped` the teams for which the tile is marked, with the cause and
the address by which it was named (11 R246), `reports` the grants that a TILEQ
has yet to report with their summary addresses (11 R250). -/
structure Tile where
  holder : Option Nat
  /-- the module's cycle up to which its holding time is metered (11 R232, 23 R385) -/
  since : Nat
  cls : Cls
  va : Nat
  last : Option Nat
  queue : List TileReq
  waiting : List TileReq
  next : Option TileReq
  rcall : Recall
  passing : Option Passing
  summ : Option Nat
  stripped : List (Nat × Nat × Nat)
  reports : List (Nat × Nat)
  deriving DecidableEq, Repr

/-- How a quarter was last charged (12 R256). -/
inductive QShape
  | single | k1024Lead | k1024Follow | n1024Lead | n1024Follow
  deriving DecidableEq, Repr

/-- A quarter's charge record and status word (12 R256, R259). -/
structure Quarter where
  bt2 : Bool
  b16 : Bool
  shape : QShape
  status : Word32
  deriving DecidableEq, Repr

/-- A matrix place (12 R264): scratchpad offset of a team, or a memory address. -/
structure MPlace where
  vault : Bool
  addr : Nat
  deriving DecidableEq, Repr

/-- The format block as fields (12 R254). -/
structure FmtBlk where
  bscale : MPlace
  bt2 : Bool
  b16 : Bool
  abx4 : Bool
  a16 : Bool
  h : Nat
  i32 : Bool
  ascale : Nat
  deriving DecidableEq, Repr

/-- The matrix commands with the operands they read at issue (12 R266 to R270). -/
inductive MatOp
  | charge (place : MPlace) (f : FmtBlk) (n1024 : Bool)
  | mma (m aoff : Nat) (f : FmtBlk) (k1024 : Bool)
  | accz
  | accld (place : MPlace)
  | accst (place : MPlace) (ofmt : Nat) (rm : Rm)
  | accq (place sc : MPlace) (bx4 b16 : Bool)
  deriving DecidableEq, Repr

/-- A matrix command in a twin's sequence (12 R260). `a` is the A operand as captured (12 R263), `since` the module's cycle in which it started
(12 R261). -/
structure MatCmd where
  id : Nat
  core : Nat
  tw : Bool
  team : Nat
  gang : Nat
  qmask : Nat
  op : MatOp
  bar : Option BarId
  started : Bool
  since : Nat
  consumed : Bool
  a : List Byte
  /-- vault extents that its places name, by address / 2^20, each at its own number -/
  exts : Tab Nat
  deriving DecidableEq, Repr

/-- A copy command under way (13 R280 to R287, 22 R374). -/
structure Copy where
  id : Nat
  core : Nat
  team : Nat
  gangNum : Nat
  gang : Nat
  req : CopyReq
  layout : BitVec 256
  idx : List Nat
  pages : Tab Nat
  batch : Nat
  requested : Nat
  landed : List Nat
  deriving DecidableEq, Repr

/-- A reduction contribution on its way to its home bank (10 R227). -/
structure Redn where
  id : Nat
  core : Nat
  gang : Nat
  lane : Nat
  team : Option Nat
  dom : Nat
  key : Nat
  aop : Aop
  ty : Ty
  x : Nat
  ordm : Bool
  /-- the identity that its bytes are metered for (23 R385) -/
  meter : Option Nat
  /-- the context through which it was translated (18 R329) -/
  ctx : Nat
  /-- the link on which it travels to a peer (27 R416) -/
  link : Option Nat
  deriving DecidableEq, Repr

/-- An L1 line of 128 bytes (06 R132, 10 R217). -/
structure L1Line where
  line : Nat
  valid : BitVec 128
  dirty : BitVec 128
  data : BitVec 1024
  /-- bytes that an error has poisoned here (27 R418) -/
  bad : BitVec 128
  /-- who answers for the stores that the dirty bytes hold: the teams, or service gangs, that a lost write-back ends (27 R419, R420) -/
  who : List Nat
  deriving DecidableEq, Repr

/-- A cached leaf translation (20 R355): the part of its first-stage page that one second-stage page maps. -/
structure TlbE where
  ctx : Nat
  va : Nat
  size : Nat
  /-- the first-stage page (18 R329) -/
  va1 : Nat
  size1 : Nat
  ipa : Nat
  /-- bytes of the second-stage page (23 R383) -/
  size2 : Nat
  key : Nat
  space : Nat
  r1 : Bool
  w1 : Bool
  x1 : Bool
  u1 : Bool
  r2 : Bool
  w2 : Bool
  x2 : Bool
  dt : Bool
  d : Bool
  dkey : Nat
  deriving DecidableEq, Repr

/-- A table entry that the walkers of a die hold (20 R355): its place and its value; whether it is one of the second stage, for its panel, or of the
first, for a context; and the addresses of that stage that it serves. -/
structure TableE where
  die : Nat
  ctx : Nat
  stage2 : Bool
  key : Nat
  word : Nat
  base : Nat
  size : Nat
  deriving DecidableEq, Repr

/-- A trace held in a core's trace cache (18 R330). -/
structure TraceE where
  ctx : Nat
  va : Nat
  words : List Word64
  /-- the cycle in which its words arrive (19 R347) -/
  ready : Nat
  deriving DecidableEq, Repr

/-- A spawn bin (01 R18). `lanes` holds each arrival's payload, in order of arrival. -/
structure Bin where
  bound : Bool
  team : Nat
  entry : Nat
  role : Role
  lanes : List (BitVec 256)
  left : Nat
  due : Bool
  deriving DecidableEq, Repr

/-- A word that a scheduler of a core issues in this cycle, or still issues (19 R345): its gang and slot, its offset and its trace's ordinal, the
cycles that it still takes, this one among them, and whether it was selected in this one. -/
structure Busy where
  gang : Nat
  b : Bool
  off : Nat
  ord : Nat
  left : Nat
  first : Bool
  deriving DecidableEq, Repr

/-- One core (01 R16, 18 R311, 24 R390). -/
structure Core where
  clock : Word64
  tvec : Word64
  tframe : Word64
  sbase : Word64
  slim : Word64
  svec : Word64
  svcerr : Word64
  miss : Nat
  period : Nat
  count : Nat
  dbg : Word64
  bps : List Word64
  dbgobj : Word64
  snap : List Nat
  /-- an expiry of ctl.timer that is to be delivered: the snapshot words of its cycle, each with the slot and the entry whose header gives its
  ordinal (18 R327) -/
  expired : Option (List (Nat × Option (SlotRef × Nat)))
  /-- words issuing in this cycle, one of a scheduler at most (01 R16) -/
  busy : List Busy
  /-- schedulers whose issue is withheld in this cycle (27 R423) -/
  withheld : List Nat
  /-- lines of the L1, the next to be replaced first (06 R132) -/
  l1 : List L1Line
  /-- the last command that its matrix engine has retired was an MMA (12 R261) -/
  lastMma : Bool
  /-- lines of the constant cache (06 R133), never dirty, the next to be replaced first -/
  cc : List L1Line
  /-- the queue of held stores: the cycle in which each entry frees (25 R397) -/
  held : List Nat
  teamRel : Bool
  tlb : List TlbE
  traces : List TraceE
  undoWait : List SlotRef
  bins : List Bin
  forced : List Nat
  deriving DecidableEq, Repr

/-- A launch queue (19 R339). -/
structure Queue where
  panel : Nat
  rcb : Nat
  q : Nat
  launches : List Nat
  deficit : Int
  idle : Bool
  deriving DecidableEq, Repr

/-- A doorbell handle (27 R412). -/
structure Handle where
  leaf : Option (Nat × Nat)
  status : Nat
  /-- a submission that is being read: the doorbell's value, and the module's cycle in which it ends -/
  reading : Option (Nat × Nat)
  deriving DecidableEq, Repr

/-- A team saved out to an image (21 R367, 23 R382), with what its image does not hold: for each of its copies that of a lane of a width-64 gang's
second member, for which a descriptor has no bit, among them. `byCtx` says that CTXSV saved it in its device's current slice. -/
structure Saved where
  team : Nat
  body : Team
  panel : Nat
  vd : Nat
  image : Nat
  byCtx : Bool
  lanes : List Nat
  deriving DecidableEq, Repr

/-- Room reserved in a save area (23 R382). -/
structure Reserve where
  vd : Nat
  panel : Nat
  team : Nat
  base : Nat
  len : Nat
  deriving DecidableEq, Repr

/-- A Purl link (27 R415, R417). -/
structure Link where
  up : Bool
  seq : Nat
  lost : List Nat
  deriving DecidableEq, Repr

/-- The module's readiness (27 R414, R421). -/
structure Ready where
  mgmt : Bool
  cxl : Bool
  purl : BitVec 12
  lpg : BitVec 12
  twins : BitVec 96
  vlayers : BitVec 384
  deriving DecidableEq, Repr

/-- The management mailbox (27 R414): command, buffer, busy bit and result. `panel` is the panel that the invalidation under way names, `waits` the
numbers of what it waits for, by context (23 R383). -/
structure Mailbox where
  cmd : Word64
  buf : Nat
  busy : Bool
  result : Nat
  panel : Nat
  waits : List (Nat × Nat)
  deriving DecidableEq, Repr

/-- Where an error of storage comes up (27 R418): an uncorrectable one in a register row, in the unit of memory, macro or accumulator bytes that
holds a key, or in the 8 bytes of an L1 that hold a key; a correctable one that an access corrects in a unit, or one that lies in a vault until a
scrub reads it. -/
inductive ErrSite
  | row (gang lane row : Nat)
  | bytes (key : Nat)
  | line (core key : Nat)
  | fixed (unit : Nat)
  | latent (vault : Nat)
  deriving DecidableEq, Repr

/-- What firmware and the neighbours of the module set (27 R411, R415, R417, R422): the inbound window of a source, the links of a peer's route
set, addresses of space 3 that a peer's window refuses, a panel's HDM decoder, the T_L of a channel group. -/
inductive Setup
  | window (src lo hi : Nat)
  | route (peer links : Nat)
  | refused (lo hi : Nat)
  | hdm (panel base len : Nat)
  | train (group cycles : Nat)
  deriving DecidableEq, Repr

/-- MODEL (log 1). What happens next: a scheduler of a core selects a word, an event of the table takes place, a cycle
passes on every core, a core's L1 evicts a line or its trace cache drops a trace, the walkers of a die keep the table entries that a walk reads
or drop one, an error comes up, firmware sets something up, a scheduler's
issue cycle is withheld (27 R423), or the host reads a doorbell (27 R412), writes its own memory, or flushes a line of it that the device caches (27
R413). -/
inductive Agendum
  | issue (core sched : Nat)
  | event (i : Instr)
  | cycle
  | evict (core line : Nat)
  | dropTrace (core va : Nat)
  | keepTables (die ctx va : Nat)
  | dropTable (die key : Nat)
  | error (e : ErrSite)
  | setup (x : Setup)
  | withhold (core sched : Nat)
  | doorbellRead (handle : Nat)
  | hostStore (addr : Nat) (bs : List Byte)
  | hostFlush (line : Nat)
  deriving DecidableEq, Repr

/-- What the host's last access received (27 R411, R412, R419). -/
inductive Reply
  | none
  | data (bs : List Byte)
  | poison
  | unsupported
  deriving DecidableEq, Repr

/-- The module. -/
structure State where
  /-- MODEL (log 1) -/
  agenda : List Agendum
  /-- MODEL (log 2) -/
  fresh : Nat
  /-- MODEL (log 1): the slot whose word is being executed -/
  cur : SlotRef
  mem : Memory
  /-- keys of poisoned bytes (27 R418, R419) -/
  poison : List Nat
  cores : Tab Core
  gangs : Tab Gang
  teams : Tab Team
  launches : Tab Launch
  /-- launches that are over, from whose images CTXLD makes further teams (18 R332) -/
  past : Tab Launch
  tiles : Tab Tile
  quarters : Tab Quarter
  mats : List MatCmd
  copies : List Copy
  reds : List Redn
  /-- table entries that the walkers of the dies hold (20 R355) -/
  tables : List TableE
  /-- lines that the home caches hold, by 2^20 x vault + set, each set from its least recently used line on (06 R424) -/
  home : Tab (List Nat)
  /-- home records of local owners: line, core (10 R217) -/
  owners : List (Nat × Nat)
  /-- reduction-flag words by fault domain (10 R228) -/
  rflags : Tab Word32
  rcbs : List Rcb
  queues : List Queue
  visit : Tab Nat
  /-- visits of a panel in a row that have dispatched nothing (19 R339) -/
  quiet : Tab Nat
  handles : Tab Handle
  panels : Tab (List Word64)
  vds : Tab (List Word64)
  /-- the virtual device of a panel's slice, that its slice has ended, and the cycle in which it began (23 R381) -/
  slice : Tab (Nat × Bool × Nat)
  saved : List Saved
  reserved : List Reserve
  meters : Tab (List Nat)
  /-- what is to be added to the meters of an identity (23 R385) -/
  used : Tab (List Nat)
  report : Nat
  epoch : Nat
  highWater : Nat
  mailbox : Mailbox
  ready : Ready
  /-- T_L of each channel group that training has measured (27 R422) -/
  train : Tab Nat
  links : Tab Link
  windows : Tab (Nat × Nat)
  routes : Tab Nat
  /-- addresses of space 3 outside the inbound windows of their peers (27 R417) -/
  refused : List (Nat × Nat)
  /-- the HDM decoder of a panel: base and length (27 R411) -/
  hdm : Tab (Nat × Nat)
  /-- lines of device memory that the host holds (27 R413) -/
  hostLines : List Nat
  /-- what the host's last access received (27 R411, R412, R419) -/
  reply : Reply
  /-- accesses from outside the module that wait for a function of it which is not ready (27 R421) -/
  waiting : List Instr
  errors : Tab Nat
  /-- correctable errors of a vault that no access and no scrub has met (27 R418) -/
  latent : Tab Nat
  reportSeq : Tab Nat
  /-- agents of a cycle that the last walk of a panel found, each with its slot's stamp (21 R373) -/
  deadPrev : Tab (List (SlotRef × Nat))
  /-- MODEL (log 26): the traces of slots saved at a word stop, by the number that their slot entries hold -/
  kept : List Run
  throttled : Bool
  nextTeam : Nat
  nextLaunch : Nat
  nextCmd : Nat
  /-- core cycles of the module since the boot epoch began, two to a management cycle (23 R386) -/
  mclock : Nat
  deriving DecidableEq, Repr

/-- Why the machine stops with a fault. -/
inductive Fault
  /-- Raised by the meaning of an instruction word when the slot under the cursor holds no lanes or is not running a
  trace in which the word could stand: no word issues from such a slot (04 R92), so the spec gives the word no effect.
  SAFE: no run of `step` meets it, because `step` executes a word only for a slot that issues it. -/
  | slotEmpty
  deriving DecidableEq, Repr

/-- Why a step has no meaning. -/
inductive Refusal
  /-- Raised by `exec` for a row that has no meaning yet. SAFE: nothing is claimed of it. -/
  | notModelled (mnemonic : String)
  deriving DecidableEq, Repr

def Lane.reset : Lane := { st := 0, poison := 0, preds := 1, fpsr := 0 }

/-- A free slot (04 R92). -/
def Slot.free : Slot :=
  { mask := 0, entry := 0, tok := none, wait := .none, run := none, hnd := none, resumed := false, pair := false, stamp := 0, hold := [] }

/-- A slot at a trace entry. -/
def Slot.at (entry : Nat) (mask : Mask) (tok : Option Nat) : Slot := { Slot.free with entry, mask, tok }

/-- A gang as it stands before anything is said of it: every stitch zero, predicates false but p0 (03 R74). -/
def Gang.blank : Gang :=
  { team := none, num := 0, role := .v, width := 32, lanes := Vector.replicate 64 Lane.reset,
    k := Vector.replicate 64 0, a := Slot.free, b := Slot.free, stack := [], nextTok := 0, age := 0, starve := 0,
    stalls := List.replicate 16 0, stalls1 := List.replicate 16 0, loads := [], stores := [], fence := [], acq := [], batches := [], co := none, rebuild := none, tlbi := [], live := 0, bound := 0,
    window := [], govb := 0 }

/-- A free spawn bin (01 R18). -/
def Bin.free : Bin := { bound := false, team := 0, entry := 0, role := .v, lanes := [], left := 0, due := false }

/-- A core after cold reset (18 R315, R316, 24 R390). -/
def Core.reset : Core :=
  { clock := 0, tvec := 0, tframe := 0, sbase := 0, slim := 0, svec := 0, svcerr := 0, miss := 0, period := 0, count := 0,
    dbg := 0, bps := [0, 0, 0, 0], dbgobj := 0, snap := List.replicate 48 0, expired := none, busy := [], withheld := [], lastMma := false, l1 := [], cc := [], held := [], teamRel := false, tlb := [],
    traces := [], undoWait := [], bins := List.replicate 16 Bin.free, forced := [] }

def Barrier.init (expmem : Nat) : Barrier := { phase := false, expmem, arrmem := 0, expbytes := 0, arrbytes := 0, came := [], next := 0 }

/-- A record slot at admission: invalid (06 R138). -/
def RecSlot.init : RecSlot := { body := 0, valid := false, pending := none }

/-- A tile that no team has held since cold reset (11 R237). -/
def Tile.reset : Tile :=
  { holder := none, since := 0, cls := .fix, va := 0, last := none, queue := [], waiting := [], next := none, rcall := .none, passing := none,
    summ := none, stripped := [], reports := [] }

/-- A cleared quarter (12 R256). -/
def Quarter.cleared : Quarter := { bt2 := false, b16 := false, shape := .single, status := 0 }

def Handle.unbound : Handle := { leaf := none, status := 0, reading := none }

/-- The module right after cold reset: nothing is ready, no panel is enabled, no team is resident, memory lists
nothing (27 R421). The boot epoch, the sequence counter and the mailbox have no reset value in the spec (log 5). -/
def State.reset : State :=
  { agenda := [], fresh := 0, cur := { gang := 0, b := false }, mem := [], poison := [], cores := [], gangs := [], teams := [],
    launches := [], past := [], tiles := [], quarters := [], mats := [], copies := [], reds := [], tables := [], home := [], owners := [], rflags := [], rcbs := [],
    queues := [], visit := [], quiet := [], handles := [], panels := [], vds := [], slice := [], saved := [], reserved := [], meters := [], used := [],
    report := 0, epoch := 0, highWater := 0, mailbox := { cmd := 0, buf := 0, busy := false, result := 0, panel := 0, waits := [] },
    ready := { mgmt := false, cxl := false, purl := 0, lpg := 0, twins := 0, vlayers := 0 }, train := [], links := [], windows := [],
    routes := [], refused := [], hdm := [], hostLines := [], reply := .none, waiting := [], errors := [], latent := [], reportSeq := [], deadPrev := [], kept := [], throttled := false, nextTeam := 1, nextLaunch := 1,
    nextCmd := 1, mclock := 0 }

end Machine
end Sys2Proof
end

