-- ==== Sys2Proof/Machine/Mem.lean ====
section
/-! DEFINITION. Memory: where each space's bytes lie (06 R126, log 3), what an unlisted byte reads as (log 4), reads and writes of
bytes, and values of several bytes, little-endian (00 R2).
-/

set_option Elab.async false

namespace Sys2Proof
namespace Machine

/-- Bytes of one region of keys. -/
def regionSize : Nat := 2 ^ 56

/-- The key of byte `addr` of region `r`. Regions 1 to 4 are the spaces of 06 R126 by physical address; region 0 holds the cores'
scratchpads, region 6 macro weights, region 7 macro scale bytes and region 8 accumulators (12 R255 to R258). -/
def memKey (r addr : Nat) : Nat := r * regionSize + addr

/-- The region of a space: constant memory lies in device memory (06 R126). -/
def spaceRegion (space : Nat) : Nat := if space = 5 then 2 else space

/-- The key of byte `pa` of a panel's device memory: each panel has its own channel groups, and 52-bit addresses (06 R131, 23 R377). -/
def devKey (panel pa : Nat) : Nat := memKey 2 (panel * 2 ^ 52 + pa)

/-- Byte `off` of a core's scratchpad (01 R16). -/
def spadKey (core off : Nat) : Nat := memKey 0 (core * 2 ^ 20 + off)

/-- Byte `i` of quarter `q`'s weights (12 R255). -/
def wtKey (q i : Nat) : Nat := memKey 6 (q * 2 ^ 16 + i)

/-- Scale byte `i` of quarter `q` (12 R255). -/
def scKey (q i : Nat) : Nat := memKey 7 (q * 2 ^ 13 + i)

/-- First byte of accumulator element `e` of a core (12 R258). -/
def accKey (core e : Nat) : Nat := memKey 8 (core * 2 ^ 17 + 4 * e)

def keyRegion (k : Nat) : Nat := k / regionSize

def keyAddr (k : Nat) : Nat := k % regionSize

/-- What an unlisted byte reads as: 0x7F for a macro scale byte (12 R256), and zero elsewhere (log 4). -/
def unlisted (k : Nat) : Byte := if keyRegion k = 7 then 0x7F else 0

/-- The byte at a key. -/
def Memory.read (m : Memory) (k : Nat) : Byte := tabGet (unlisted k) m k

/-- The listed cells of a run of bytes from `k`. -/
def cellsOf : Nat → List Byte → Memory
  | _, [] => []
  | k, b :: bs => if b = unlisted k then cellsOf (k + 1) bs else (k, b) :: cellsOf (k + 1) bs

/-- Memory with the bytes `bs` from key `k` on. -/
def Memory.writeRange (m : Memory) (k : Nat) (bs : List Byte) : Memory :=
  m.filter (fun c => c.1 < k) ++ cellsOf k bs ++ m.filter (fun c => k + bs.length ≤ c.1)

/-- Memory with byte `b` at key `k`. -/
def Memory.write (m : Memory) (k : Nat) (b : Byte) : Memory := m.writeRange k [b]

/-- Keys rise strictly. -/
def keysRise : Memory → Bool
  | [] => true
  | [_] => true
  | a :: b :: t => a.1 < b.1 && keysRise (b :: t)

/-- The canonical form: keys rise, and no entry equals what its key reads as unlisted. -/
def Memory.wf (m : Memory) : Bool := keysRise m && m.all (fun c => c.2 != unlisted c.1)

/-- `n` bytes from a key. -/
def Memory.readBytes (m : Memory) (k n : Nat) : List Byte := (List.range n).map (fun i => m.read (k + i))

/-- The number that bytes hold, least significant first (00 R2). -/
def bytesNat : List Byte → Nat
  | [] => 0
  | b :: bs => b.toNat + 256 * bytesNat bs

/-- `n` bytes of a number, least significant first (00 R2). -/
def natBytes : Nat → Nat → List Byte
  | 0, _ => []
  | n + 1, v => BitVec.ofNat 8 v :: natBytes n (v / 256)

/-- The `n`-byte little-endian value at a key (00 R2). -/
def Memory.readN (m : Memory) (k n : Nat) : Nat := bytesNat (m.readBytes k n)

/-- Memory with the `n`-byte value `v` at key `k` (00 R2). -/
def Memory.writeN (m : Memory) (k n v : Nat) : Memory := m.writeRange k (natBytes n v)

end Machine
end Sys2Proof
end

