-- ==== Sys2Proof/Machine/Ops.lean ====
section
/-! DEFINITION. Named operations over the state: cores, gangs, slots, lanes and their registers, the writes of a word with its undo
copies and pending results (03 R59 to R73, 04 R84), at-issue traps (04 R97), the core's clock and counters (18 R316, 19 R345 to
R347), and the rules that every issue of a body word or terminator obeys (07 R159, 08 R161). -/

set_option Elab.async false

namespace Sys2Proof
namespace Machine

/-! ## Places -/

/-- Numbers below this are those of teams; above it they name the places of service gangs (27 R419). -/
def ownerBase : Nat := 2 ^ 64

/-- The core of a gang's place. -/
def coreOf (g : Nat) : Nat := g / 64

/-- The gang slot of a gang's place (18 R314). -/
def gslotOf (g : Nat) : Nat := g % 64

/-- The service gang's place (18 R326). -/
def isSvc (g : Nat) : Bool := g % 64 == Config.serviceSlot

/-- The issue scheduler of a gang: 12 gang slots each; the service gang issues on scheduler 0 (18 R326, 19 R342). -/
def schedOf (g : Nat) : Nat := if isSvc g then 0 else gslotOf g / 12

def State.core (s : State) (c : Nat) : Core := tabGet Core.reset s.cores c
def State.setCore (s : State) (c : Nat) (x : Core) : State := { s with cores := tabSet s.cores c x }
def State.gang (s : State) (g : Nat) : Gang := tabGet Gang.blank s.gangs g
def State.setGang (s : State) (g : Nat) (x : Gang) : State := { s with gangs := tabSet s.gangs g x }
def State.team? (s : State) (t : Nat) : Option Team := tabFind s.teams t
def State.setTeam (s : State) (t : Nat) (x : Team) : State := { s with teams := tabSet s.teams t x }
def State.launch? (s : State) (l : Nat) : Option Launch := tabFind s.launches l
def State.setLaunch (s : State) (l : Nat) (x : Launch) : State := { s with launches := tabSet s.launches l x }
def State.tile (s : State) (t : Nat) : Tile := tabGet Tile.reset s.tiles t
def State.setTile (s : State) (t : Nat) (x : Tile) : State := { s with tiles := tabSet s.tiles t x }
def State.quarter (s : State) (q : Nat) : Quarter := tabGet Quarter.cleared s.quarters q
def State.setQuarter (s : State) (q : Nat) (x : Quarter) : State := { s with quarters := tabSet s.quarters q x }

/-- A team as it stands, resident or saved out (21 R367). -/
def State.teamBody (s : State) (t : Nat) : Option Team :=
  match s.team? t with
  | some T => some T
  | none => (s.saved.find? (fun (u : Saved) => u.team == t)).map (·.body)

/-- The meter identity of a gang's team (23 R385). -/
def meterOf (s : State) (g : Nat) : Option Nat := ((s.gang g).team.bind s.team?).map (fun (T : Team) => T.eff.meter)

/-- Something that happens to a registered identity is to be added to one of its meters (23 R384, R385). -/
def accrue (s : State) (id : Option Nat) (meter n : Nat) : State :=
  match id with
  | some i =>
    if n = 0 ∨ (tabFind s.meters i).isNone then s
    else
      let l := tabGet (List.replicate 9 0) s.used i
      { s with used := tabSet s.used i (listSet l meter ((l[meter]?).getD 0 + n)) }
  | none => s

/-- The meter of the bytes moved in the space of a key (23 R385). -/
def spaceMeter (key : Nat) : Nat := 3 + keyRegion key

/-- A team, changed where it is resident. -/
def State.updTeam (s : State) (t : Nat) (f : Team → Team) : State :=
  match s.team? t with
  | some x => s.setTeam t (f x)
  | none => s

def State.updLaunch (s : State) (l : Nat) (f : Launch → Launch) : State :=
  match s.launch? l with
  | some x => s.setLaunch l (f x)
  | none => s

def Gang.slot (G : Gang) (b : Bool) : Slot := if b then G.b else G.a
def Gang.setSlot (G : Gang) (b : Bool) (x : Slot) : Gang := if b then { G with b := x } else { G with a := x }

def State.slot (s : State) (r : SlotRef) : Slot := (s.gang r.gang).slot r.b
def State.setSlot (s : State) (r : SlotRef) (x : Slot) : State := s.setGang r.gang ((s.gang r.gang).setSlot r.b x)

/-- The state with an event to take place before everything else. -/
def State.before (s : State) (e : Instr) : State := { s with agenda := .event e :: s.agenda }

/-- The state with an event to take place after what is already to come. -/
def State.after (s : State) (e : Instr) : State := { s with agenda := s.agenda ++ [.event e] }

/-- A value that the spec leaves open, of `w` bits, and the state with the next one fresh (log 2). -/
def State.openVal (s : State) (w : Nat) : Nat × State := (Config.freeBits s.fresh % 2 ^ w, { s with fresh := s.fresh + 1 })

/-- The slot runs in system mode (18 R308). -/
def sysMode (s : State) (r : SlotRef) : Bool := isSvc r.gang || (s.slot r).hnd.isSome

/-- The launch of a gang's team. -/
def launchOf (s : State) (g : Nat) : Option Launch := do
  let t ← (s.gang g).team
  let T ← s.team? t
  s.launch? T.launch

/-- Stitches that a gang's team declares (01 R9). -/
def declared (s : State) (g : Nat) : Nat := ((s.gang g).team.bind s.team?).elim 0 (·.stitches)

/-- Stitches that a word of the slot may name: the declared count, 32 in the service gang, and s0 to s31 always in system mode
(03 R56, 18 R322, R326). -/
def stitchLimit (s : State) (r : SlotRef) : Nat :=
  if isSvc r.gang then 32
  else if (s.slot r).hnd.isSome then max 32 (declared s r.gang) else declared s r.gang

/-! ## Lanes -/

/-- The number whose bit `i` says `f i`, for `i` below `n`. -/
def bitsOf (f : Nat → Bool) : Nat → Nat
  | 0 => 0
  | n + 1 => bitsOf f n + if f n then 2 ^ n else 0

/-- The lanes below 64 that satisfy `f`. -/
def maskOf (f : Nat → Bool) : Mask := BitVec.ofNat 64 (bitsOf f 64)

def Mask.has (m : Mask) (l : Nat) : Bool := m.getLsbD l

/-- The lanes of a mask in ascending order. -/
def Mask.lanes (m : Mask) : List Nat := (List.range 64).filter (Mask.has m)

def Mask.lowest (m : Mask) : Option Nat := (List.range 64).find? (Mask.has m)

def Gang.lane (G : Gang) (l : Nat) : Lane := (G.lanes.toList[l]?).getD Lane.reset

/-- The lanes of a mask changed by `f`. -/
def mapLanes (m : Mask) (f : Nat → Lane → Lane) (v : Lanes) : Lanes :=
  Vector.ofFn (fun i => if Mask.has m i.val then f i.val v[i] else v[i])

/-- The value of an operand in a lane (03 R59). -/
def Lane.rd (L : Lane) (o : Opnd) : Nat := (L.st.extractLsb' (4 * o.start) o.w.bits).toNat

/-- `n` stitches of a lane from `start`. -/
def Lane.rdAt (L : Lane) (start n : Nat) : Nat := (L.st.extractLsb' (4 * start) (4 * n)).toNat

/-- The stitch bits of `n` stitches from `start`. -/
def stitchMask (start n : Nat) : BitVec 4096 := (BitVec.ofNat 4096 (2 ^ (4 * n) - 1)) <<< (4 * start)

/-- The rows that `n` stitches from `start` cover whole: a write of a whole row clears its poison (03 R57). -/
def wholeRows (start n : Nat) : BitVec 128 :=
  BitVec.ofNat 128 (bitsOf (fun r => start ≤ 8 * r && 8 * r + 8 ≤ start + n) 128)

/-- A lane's stitch bits under a mask replaced. -/
def Lane.wrMask (L : Lane) (m v : BitVec 4096) : Lane := { L with st := (L.st &&& ~~~m) ||| (v &&& m) }

/-- The rows that a stitch mask covers whole. -/
def maskRows (m : BitVec 4096) : BitVec 128 :=
  BitVec.ofNat 128 (bitsOf (fun r => m.extractLsb' (32 * r) 32 == BitVec.allOnes 32) 128)

/-- Stitch bits written under a mask by a landing; a row written whole loses its poison (03 R57). -/
def Lane.landMask (L : Lane) (m v : BitVec 4096) : Lane :=
  let L' := L.wrMask m v
  if L.poison = 0 then L' else { L' with poison := L.poison &&& ~~~(maskRows m) }

/-- `n` stitches from `start` written with `v` (03 R57, R59). -/
def Lane.wr (L : Lane) (start n v : Nat) : Lane :=
  { L.wrMask (stitchMask start n) ((BitVec.ofNat 4096 v) <<< (4 * start)) with poison := L.poison &&& ~~~(wholeRows start n) }

/-- Predicate `p` (03 R71): p0 reads as true. -/
def Lane.pred (L : Lane) (p : Nat) : Bool := p == 0 || L.preds.getLsbD p

/-- A predicate source (07 R146). -/
def Lane.psrc (L : Lane) (p : PSrc) : Bool := L.pred p.n != p.neg

/-- Predicate `p` written; a write to p0 is discarded (01 R9). -/
def Lane.setPred (L : Lane) (p : Nat) (b : Bool) : Lane :=
  if p = 0 then L
  else { L with preds := (L.preds &&& ~~~(1#32 <<< p)) ||| ((if b then 1#32 else 0#32) <<< p) }

/-- Flags raised in %fpsr (03 R76). -/
def Lane.raise (L : Lane) (f : Nat) : Lane := { L with fpsr := L.fpsr ||| BitVec.ofNat 32 f }

/-- One effect of a word in one lane. -/
inductive LW
  /-- `n` stitches from `start` -/
  | st (start n v : Nat)
  | pr (p : Nat) (b : Bool)
  /-- flags to raise -/
  | fl (f : Nat)
  /-- %fpsr [5:0] cleared (08 R183) -/
  | clr
  deriving DecidableEq, Repr

def Lane.apply (L : Lane) : LW → Lane
  | .st a n v => L.wr a n v
  | .pr p b => L.setPred p b
  | .fl f => L.raise f
  | .clr => { L with fpsr := L.fpsr &&& ~~~0x3F#32 }

/-- A destination operand written with `v`. -/
def wrTo (o : Opnd) (v : Nat) : LW := .st o.start o.w.stitches v

/-! ## Slots and traces -/

/-- The cycle, counted for the module: what is timed does not move when software writes ctl.clock (18 R315). -/
def State.now (s : State) : Nat := s.mclock

/-- The trace a slot is running, where it runs one and may issue its next word. -/
def liveRun (s : State) (r : SlotRef) : Option Run :=
  let X := s.slot r
  if X.mask = 0 then none
  else
    match X.wait with
    | .none => X.run
    | _ => none

def State.setRun (s : State) (r : SlotRef) (R : Run) : State := s.setSlot r { s.slot r with run := some R }

def State.setWait (s : State) (r : SlotRef) (w : Wait) : State := s.setSlot r { s.slot r with wait := w }

/-- Lanes with a recorded fault (04 R95). -/
def Run.faulted (R : Run) : Mask := maskOf (fun l => (tabFind R.faults l).isSome)

/-- The lanes in which a guard holds (03 R71). -/
def guardMask (G : Gang) (hd : Hd) : Mask :=
  if hd.pg = 0 then maskOf (fun _ => true) else maskOf (fun l => (G.lane l).pred hd.pg != hd.neg)

/-- Participating lanes of a word (08 R161). A fault-pending lane takes part only in a guarded trace, and there in no memory
word (04 R95). -/
def participants (s : State) (r : SlotRef) (R : Run) (hd : Hd) (memory : Bool) : Mask :=
  let m := (s.slot r).mask &&& ~~~R.failed &&& guardMask (s.gang r.gang) hd
  if R.hdr.guarded && !memory then m else m &&& ~~~R.faulted

/-- Rows that an operand touches (03 R55). -/
def rowsOf (o : Opnd) : List Nat :=
  let lo := o.start / 8
  let hi := (o.start + o.w.stitches - 1) / 8
  (List.range (hi - lo + 1)).map (· + lo)

/-- Row `n` of a lane (03 R57). -/
def Lane.row (L : Lane) (n : Nat) : Word32 := L.st.extractLsb' (32 * n) 32

/-- The row as the lanes hold it. -/
def copyRow (G : Gang) (n : Nat) : UndoRow :=
  { row := n, old := Vector.ofFn (fun i => (G.lanes[i]).row n), bad := maskOf (fun l => (G.lane l).poison.getLsbD n) }

/-- Undo copies of the rows that a word of a guarded trace will write (04 R84). -/
def undoRows (G : Gang) (R : Run) (rows : List Nat) : Run :=
  if R.hdr.guarded then
    rows.foldl (fun R n => if R.rows.contains n then R
      else { R with rows := R.rows ++ [n], undoRows := R.undoRows ++ [copyRow G n] }) R
  else R

/-- Undo copies of the predicates and %fpsr of the writing lanes (03 R72). -/
def undoPF (G : Gang) (R : Run) (m : Mask) : Run :=
  if R.hdr.guarded then
    (Mask.lanes m).foldl (fun R l => match tabFind R.undoPF l with
      | some _ => R
      | none => { R with undoPF := tabSet R.undoPF l ((G.lane l).preds, (G.lane l).fpsr) }) R
  else R

/-- A pending result with the locations removed that a later write of lane `l` covers (03 R66). -/
def Pend.cancel (p : Pend) (l : Nat) : LW → Pend
  | .st a n _ => match p with
    | .st l' s m v => if l' = l then .st l' s (m &&& ~~~(stitchMask a n)) v else p
    | .pr l' q v => .pr l' q v
    | .uni k v => .uni k v
    | .fl l' f => .fl l' f
  | .pr q _ => match p with
    | .pr l' q' v => if l' = l ∧ q' = q then .pr l' 0 v else p
    | .st l' s m v => .st l' s m v
    | .uni k v => .uni k v
    | .fl l' f => .fl l' f
  | .fl _ => p
  | .clr => p

/-- Pending results after later writes of some lanes (03 R66). -/
def cancelAll (ps : List Pend) (m : Mask) (f : Nat → List LW) : List Pend :=
  match ps with
  | [] => []
  | p :: t => (Mask.lanes m).foldl (fun p l => (f l).foldl (fun p w => p.cancel l w) p) p :: cancelAll t m f

/-- The writes of a fixed-latency word: in each lane of `m` the effects that `f` gives, visible to the next word (03 R63). -/
def fixedEff (s : State) (r : SlotRef) (R : Run) (m : Mask) (f : Nat → Lane → List LW) : State :=
  let G := s.gang r.gang
  let R' := { R with pends := cancelAll R.pends m (fun l => f l (G.lane l)) }
  (s.setGang r.gang { G with lanes := mapLanes m (fun l L => (f l L).foldl Lane.apply L) G.lanes }).setRun r R'

/-- A pending result of one lane. Flags are pending with the result and reach %fpsr when it lands; a MOVS with .clr in the same group cancels
none of them (DESIGN CHOICE, log 59: 03 R66 names stitches, predicates and uniform bits only). -/
def pendOf (l : Nat) : LW → List Pend
  | .st a n v => [.st l a (stitchMask a n) (.now v)]
  | .pr p b => [.pr l p (.now (b2n b))]
  | .fl f => if f = 0 then [] else [.fl l (BitVec.ofNat 32 f)]
  | .clr => []

/-- The writes of a long-latency word: pending until the switch group ends (03 R64 to R66). -/
def longEff (s : State) (r : SlotRef) (R : Run) (m : Mask) (f : Nat → List LW) : State :=
  let old := cancelAll R.pends m f
  s.setRun r { R with pends := old ++ (Mask.lanes m).flatMap (fun l => (f l).flatMap (pendOf l)) }

/-- Uniform register `k` read (03 R73). -/
def kreg (s : State) (r : SlotRef) (k : Nat) : Nat := (((s.gang r.gang).k.toList[k]?).getD 0).toNat

def Gang.setK (G : Gang) (k : Nat) (v : Nat) : Gang :=
  { G with k := Vector.ofFn (fun i => if i.val = k then BitVec.ofNat 64 v else G.k[i]) }

/-- A pending uniform result cancelled (03 R66). -/
def cancelUni (ps : List Pend) (k : Nat) : List Pend :=
  ps.filter (fun p => match p with | .uni k' _ => k' != k | .st .. => true | .pr .. => true | .fl .. => true)

/-- Uniform register `k` written once for the gang (03 R73). -/
def uniEff (s : State) (r : SlotRef) (R : Run) (k v : Nat) : State :=
  (s.setGang r.gang ((s.gang r.gang).setK k v)).setRun r { R with pends := cancelUni R.pends k }

/-- The value of a pending result: the status, the predicate or the uniform value of a late one (03 R425). -/
def PVal.status (ls : List Late) : PVal → Nat
  | .now v => v
  | .late id => match ls.find? (·.id == id) with
    | some l => match l.val with | some (st, _, _) => st | none => 0
    | none => 0
def PVal.predicate (ls : List Late) : PVal → Bool
  | .now v => v != 0
  | .late id => match ls.find? (·.id == id) with
    | some l => match l.val with | some (_, p, _) => p | none => false
    | none => false
def PVal.uniform (ls : List Late) : PVal → Nat
  | .now v => v
  | .late id => match ls.find? (·.id == id) with
    | some l => match l.val with | some (_, _, k) => k | none => 0
    | none => 0

/-- One pending result lands; a lane that failed a guard writes nothing (03 R67). -/
def landOne (R : Run) (G : Gang) : Pend → Gang
  | .st l a m v =>
    if Mask.has R.failed l then G
    else { G with lanes := mapLanes (1#64 <<< l) (fun _ L =>
            L.landMask m ((BitVec.ofNat 4096 (v.status R.lates)) <<< (4 * a))) G.lanes }
  | .pr l p v =>
    if Mask.has R.failed l then G
    else { G with lanes := mapLanes (1#64 <<< l) (fun _ L => L.setPred p (v.predicate R.lates)) G.lanes }
  | .uni k v => G.setK k (v.uniform R.lates)
  | .fl l f =>
    if Mask.has R.failed l then G
    else { G with lanes := mapLanes (1#64 <<< l) (fun _ L => { L with fpsr := L.fpsr ||| f }) G.lanes }

/-- Every late result of a trace is known: its switch group can end (03 R64). -/
def Run.groupDone (R : Run) : Bool := R.lates.all (fun l => l.val.isSome)

/-- The trace can resolve: besides, no record that it fetches is on its way, since a record fault is taken at its resolution (04
R88, 06 R138). -/
def Run.landable (R : Run) : Bool := R.groupDone && R.recld.isEmpty

/-- The pending results of a trace have returned: late ones are known, and the cycle has come (03 R64, R425). -/
def returned (s : State) (R : Run) : Bool :=
  R.groupDone && (R.pends.isEmpty || R.back ≤ s.now)

/-- Overflow rows of some stitch bits that stand in a gang's window are marked as written (03 R70). -/
def markRows (G : Gang) (rows : BitVec 128) : Gang :=
  { G with window := G.window.map (fun e => (e.1, e.2 || rows.getLsbD e.1)) }

/-- The rows that a stitch mask touches. -/
def maskTouches (m : BitVec 4096) : BitVec 128 := BitVec.ofNat 128 (bitsOf (fun r => m.extractLsb' (32 * r) 32 != 0) 128)

/-- The rows on which some pending results land. -/
def pendRows (ps : List Pend) : BitVec 128 := ps.foldl (fun m p => match p with
  | .st _ _ x _ => m ||| maskTouches x
  | .pr .. => m
  | .uni .. => m
  | .fl .. => m) 0

/-- The pending results of a slot return no earlier than a number of cycles from now (03 R425). -/
def returnsBy (s : State) (r : SlotRef) (n : Nat) : State :=
  match (s.slot r).run with
  | some R => s.setRun r { R with back := max R.back (s.now + n) }
  | none => s

/-- All the pending results of a slot's group land together (03 R64). -/
def land (s : State) (r : SlotRef) (R : Run) : State :=
  let G := R.pends.foldl (landOne R) (s.gang r.gang)
  let G := if G.window.isEmpty then G else markRows G (pendRows R.pends)
  (s.setGang r.gang G).setRun r { R with pends := [], lates := [] }

/-! ## Undo -/

/-- A row of a lane as its undo copy has it; a row that was poisoned is so again (03 R57). -/
def restoreRow (l : Nat) (L : Lane) (u : UndoRow) : Lane :=
  let L := L.wr (8 * u.row) 8 (((u.old.toList[l]?).getD 0).toNat)
  if Mask.has u.bad l then { L with poison := L.poison ||| (1#128 <<< u.row) } else L

/-- A lane restored from the undo buffer (04 R84). -/
def restoreLane (R : Run) (l : Nat) (L : Lane) : Lane :=
  let L := R.undoRows.foldl (restoreRow l) L
  match tabFind R.undoPF l with
  | some (p, f) => { L with preds := p, fpsr := f }
  | none => L

def restoreLanes (s : State) (r : SlotRef) (R : Run) (m : Mask) : State :=
  let G := s.gang r.gang
  let G := if G.window.isEmpty then G else markRows G (R.undoRows.foldl (fun (m : BitVec 128) u => m ||| (1#128 <<< u.row)) 0)
  s.setGang r.gang { G with lanes := mapLanes m (restoreLane R) G.lanes }

/-! ## Traps -/

/-- A trapped group keeps its slot until it is delivered (18 R319), unless it stands in the service gang, whose double trap is
recorded in ctl.svcerr and which then waits as after IDLE (18 R323), or in a handler, where a second trap ends the team. A trap in a recipe
ends the team (21 R370). In a cast-off context the trap ends the routine as an overrun (11 R244), which CASTOFF_BOUND_OVERRUN does. -/
def takeTrap (s : State) (r : SlotRef) (t : TrapInfo) : State :=
  let X := s.slot r
  let G := s.gang r.gang
  if isSvc r.gang then
    let c := s.core (coreOf r.gang)
    let c := { c with svcerr := BitVec.ofNat 64 (t.ord * 2 ^ 44 + t.off * 2 ^ 37 + t.cause) }
    (s.setCore (coreOf r.gang) c).setGang r.gang { G with
      a := { Slot.free with mask := G.live, entry := c.svec.toNat, wait := .idle }, b := Slot.free, stack := [] }
  else
    let s := s.setSlot r { X with wait := .trapped t }
    if G.rebuild.isSome then s.before (.teamEnd (G.team.getD 0) 52 t.detail)
    else if G.co.isSome then s.before (.castoffBoundOverrun r.gang)
    else if X.hnd.isSome then s.before (.teamEnd (G.team.getD 0) 49 t.detail)
    else s

/-- The ordinal reported when no valid header is known (18 R321). -/
def noOrd : Nat := 0xFFFFF

/-- An at-issue trap of a slot (04 R97): in a guarded trace every lane is restored and nothing commits; in a plain trace the
pending results land first, once they have returned (03 R67). `off` is the word offset of the trapping word. -/
def atIssueAt (s : State) (r : SlotRef) (R : Run) (cause off : Nat) : State :=
  let X := s.slot r
  let t : TrapInfo := { cause, ord := R.hdr.ord, off, kept := R.hdr.guarded || Nat.min off (R.hdr.len + 1) ≤ 1, code := 0, detail := 0,
                        resume := X.entry }
  if R.hdr.guarded then
    let s := restoreLanes s r R X.mask
    takeTrap (s.setSlot r { s.slot r with run := none, wait := .none, pair := false }) r t
  else if !returned s R then s.setSlot r { s.slot r with wait := .trapping cause off }
  else
    let s := land s r R
    takeTrap (s.setSlot r { s.slot r with run := none, wait := .none, pair := false }) r t

/-- An at-issue trap of the word that is about to issue. -/
def atIssue (s : State) (r : SlotRef) (R : Run) (cause : Nat) : State := atIssueAt s r R cause (R.pos + 1)

/-- A trap of a header or fetch, where no word of a trace has issued (04 R79, R99). -/
def entryTrap (s : State) (r : SlotRef) (cause ord detail : Nat) : State :=
  let X := s.slot r
  takeTrap (s.setSlot r { X with run := none, wait := .none, pair := false }) r
    { cause, ord, off := 0, kept := true, code := 0, detail, resume := X.entry }

/-! ## Clock and counters -/

/-- The slot goes on where it waits for exactly this; one whose terminator has issued resolves. -/
def Slot.wake (X : Slot) (w : Wait) : Slot :=
  if X.wait = w then { X with wait := if X.run.any (fun R => R.term.isSome) then .resolving else .none } else X

/-- Slots that wait for exactly this go on. -/
def State.wakeAll (s : State) (w : Wait) : State :=
  { s with gangs := s.gangs.map (fun e => (e.1, { e.2 with a := e.2.a.wake w, b := e.2.b.wake w })) }

/-- Slots of a team that wait for exactly this go on. -/
def State.wakeTeam (s : State) (team : Nat) (w : Wait) : State :=
  { s with gangs := s.gangs.map (fun e => if e.2.team = some team then (e.1, { e.2 with a := e.2.a.wake w, b := e.2.b.wake w }) else e) }

/-- The reason a gang counts when it neither issues nor is ready, by the wait of a slot (19 R347). -/
def Wait.reason : Wait → Nat
  | .none => 0
  | .landing => 1
  | .trapping .. => 1
  | .fill _ => 11
  | .record _ => 12
  | .seal _ => 5
  | .resolving => 1
  | .undo => 7
  | .join => 10
  | .barrier .. => 6
  | .batch .. => 3
  | .watch .. => 13
  | .claim .. => 14
  | .bwait .. => 3
  | .copy .. => 12
  | .spawn .. => 15
  | .outside .. => 15
  | .tlbsync => 15
  | .stopped => 15
  | .trapped _ => 15
  | .idle => 15
  | .saving .. => 15
  | .loading .. => 15
  | .unready => 3
  | .queue => 3
  | .overrun => 1

/-- The slot holds lanes whose next word can issue (01 R21). -/
def Slot.ready (X : Slot) : Bool :=
  X.mask != 0 && (match X.wait with | .none => true | _ => false)

/-- The team's registration (11 R240). -/
def registered (s : State) (team : Nat) : Option Reg := (s.team? team).bind (·.reg)

/-- The first recall that became deliverable among the tiles that a team holds (11 R241). -/
def firstRecall (s : State) (team : Nat) : Option Nat :=
  let due := s.tiles.filterMap (fun e => match e.2.holder, e.2.rcall with
    | some h, .due n => if h = team ∧ e.2.passing.isNone then some (n, e.1) else none
    | _, _ => none)
  (due.foldl (fun (best : Option (Nat × Nat)) x => match best with
    | some b => if x.1 < b.1 then some x else some b
    | none => some x) none).map (·.2)

/-- A recall waits for the gang (11 R241): it is its team's registrant, outside any routine, and its slots stand at their entries until the
routine starts. -/
def recallFor (s : State) (g : Nat) : Option (Nat × Reg) := do
  let G := s.gang g
  let team ← G.team
  let q ← registered s team
  if q.gang = g ∧ G.co.isNone ∧ G.rebuild.isNone ∧ G.a.hnd.isNone ∧ G.b.hnd.isNone then
    let t ← firstRecall s team
    some (t, q)
  else none

/-- Another gang's word waits for the recalls that were pending as its team was restored (11 R241). -/
def recallsFirst (s : State) (g : Nat) : Bool :=
  match (s.gang g).team with
  | none => false
  | some t => match s.team? t with
    | none => false
    | some T => T.recallsTill != 0 && !T.reg.any (fun (q : Reg) => q.gang == g) && s.tiles.any (fun e =>
        e.2.holder == some t && e.2.passing.isNone && (match e.2.rcall with | .due n => n < T.recallsTill | .none | .run => false))

/-- The group of a word, OP[9:6] (07 R145). -/
def wordGroup (w : Nat) : Nat := opOf w / 64

/-- The slot stands at a stop point of its team's pre-emption (21 R365): at an entry, or before a word of group 0xB, 0xC or 0xD of a plain
trace. A slot in a handler stops after its ERET. -/
def atStop (X : Slot) : Bool :=
  X.hnd.isNone &&
  match X.run with
  | none => true
  | some R => !R.hdr.guarded && (match R.words[R.pos]? with
    | some w => 0xB ≤ wordGroup w.toNat && wordGroup w.toNat ≤ 0xD
    | none => false)

/-- The team of a gang is being saved, or stops to be flushed (21 R366). -/
def stopping (s : State) (g : Nat) : Bool :=
  match (s.gang g).team.bind s.team? with
  | none => false
  | some T => match T.pre with
    | .save | .flush => true
    | .none | .drain _ | .noRoom => false

/-- Commands that a core's matrix engine holds (12 R260). -/
def engineLoad (s : State) (core : Nat) : Nat :=
  (s.mats.filter (fun c => c.core == core || (c.tw && c.core / 2 == core / 2))).length

/-- The engines that a matrix word needs are full (12 R260); MSYNC needs none. -/
def engineFull (s : State) (core : Nat) (tw : Bool) : Bool :=
  Config.engineSlots ≤ engineLoad s core || (tw && Config.engineSlots ≤ engineLoad s (core / 2 * 2 + (1 - core % 2)))

/-- The slot's next word is a matrix command that finds its engine full (12 R260). -/
def engineHeld (s : State) (r : SlotRef) : Bool :=
  match (s.slot r).run with
  | none => false
  | some R => match R.words[R.pos]? with
    | none => false
    | some w => R.pos < R.hdr.len && wordGroup w.toNat == 0xB && opOf w.toNat != 0x2C6 && engineFull s (coreOf r.gang) (bit w.toNat 9)

/-- The command words of the transfer unit: CPY, CPYG and CPYRD. -/
def isCopyOp (op : Nat) : Bool := 0x300 ≤ op && op ≤ 0x302

/-- Commands that a core's transfer unit holds, those under check among them (13 R280). -/
def unitLoad (s : State) (core : Nat) : Nat :=
  (s.copies.filter (fun c => c.core == core)).length
    + ((s.gangs.filter (fun e => coreOf e.1 == core)).map (fun e =>
        ([e.2.a, e.2.b].filter (fun (X : Slot) => match X.wait with | .copy _ => X.mask != 0 | _ => false)).length)).sum

/-- The transfer unit of a core is full (13 R280). -/
def unitFull (s : State) (core : Nat) : Bool := Config.copySlots ≤ unitLoad s core

/-- The slot's next word is a copy command that finds the unit full (13 R280). -/
def unitHeld (s : State) (r : SlotRef) : Bool :=
  match (s.slot r).run with
  | none => false
  | some R => match R.words[R.pos]? with
    | none => false
    | some w => R.pos < R.hdr.len && isCopyOp (opOf w.toNat) && unitFull s (coreOf r.gang)

/-- The reason for which a slot whose word could issue is held back: a recall at a trace entry (11 R241), a stop point (21 R365),
a full matrix engine (12 R260) or a full transfer unit (13 R280). -/
def heldBack (s : State) (r : SlotRef) : Option Nat :=
  let X := s.slot r
  if X.run.isNone && (recallFor s r.gang).isSome then some 14
  else if recallsFirst s r.gang then some 14
  else if stopping s r.gang && (s.gang r.gang).rebuild.isNone && atStop X then some 15
  else if engineHeld s r then some 4
  else if unitHeld s r then some 5
  else none

/-- The stall reason of a slot that issues nothing before a cycle to come (06 R129, 04 R92, R100). -/
def holdReason (s : State) (r : SlotRef) : Option Nat :=
  match (s.slot r).hold with
  | [] => none
  | h => (h.find? (fun e => s.now < e.1)).map (·.2)

/-- A slot may issue; while a handler runs in one slot the other issues nothing (18 R319), nor does slot B while recipes run in slot A (21
R370). -/
def slotReady (s : State) (r : SlotRef) : Bool :=
  (s.slot r).ready && (holdReason s r).isNone && !((s.gang r.gang).slot (!r.b)).hnd.isSome && !(r.b && (s.gang r.gang).rebuild.isSome) && (heldBack s r).isNone

/-- The slot of a gang that issues next: the ready one that issued least recently, one that has never issued first (04 R93). -/
def nextSlot (s : State) (g : Nat) : Option Bool :=
  let G := s.gang g
  if slotReady s { gang := g, b := false } then
    if slotReady s { gang := g, b := true } then some (G.b.stamp < G.a.stamp) else some false
  else if slotReady s { gang := g, b := true } then some true else none

/-- Gangs of a scheduler that are ready. -/
def readyGangs (s : State) (core sched : Nat) : List Nat :=
  (s.gangs.filter (fun e => coreOf e.1 == core && schedOf e.1 == sched && (nextSlot s e.1).isSome)).map (·.1)

/-- The service gang is older than any other on its core (18 R326); ties go to the lower slot (19 R345). -/
def older (s : State) (a b : Nat) : Bool :=
  if isSvc a then true
  else if isSvc b then false
  else (s.gang a).age < (s.gang b).age || ((s.gang a).age == (s.gang b).age && a < b)

/-- The oldest of some gangs. -/
def oldest (s : State) : List Nat → Option Nat
  | [] => none
  | g :: t => match oldest s t with
    | some h => some (if older s g h then g else h)
    | none => some g

/-- The gang that a scheduler selects: the head of its forced queue, or else the oldest ready one (19 R345, R346). -/
def selectGang (s : State) (core sched : Nat) : Option Nat :=
  let ready := readyGangs s core sched
  match ((s.core core).forced.filter (fun g => schedOf g == sched && ready.contains g)).head? with
  | some g => some g
  | none => oldest s ready

/-- The gang would issue in this cycle, but its scheduler's issue is withheld (27 R423). -/
def withheldFrom (s : State) (g : Nat) : Bool :=
  (s.core (coreOf g)).withheld.contains (schedOf g) && selectGang s (coreOf g) (schedOf g) == some g

/-- The cycle until which one of some lanes is concerned, by a list of lanes with their cycles. -/
def laneTill (l : List (Mask × Nat)) (m : Mask) : Nat := ((l.filter (fun e => e.1 &&& m != 0)).map (·.2)).foldl max 0

/-- Lanes concerned until a cycle to come entered in such a list; what is over leaves it. -/
def laneNote (now : Nat) (l : List (Mask × Nat)) (m : Mask) (till : Nat) : List (Mask × Nat) :=
  if m = 0 ∨ till ≤ now then l else l.filter (fun e => now < e.2) ++ [(m, till)]

/-- The cycle from which an access of some lanes that issues now is performed: behind the acquires of these lanes that are on their way (10
R216). -/
def accessFrom (s : State) (g : Nat) (m : Mask) : Nat := max s.now (laneTill (s.gang g).acq m)

/-- The cycle from which a store, a reduction or an ATOM of some lanes is performed: behind their fences too (10 R221). -/
def storeFrom (s : State) (g : Nat) (m : Mask) : Nat := max (accessFrom s g m) (laneTill (s.gang g).fence m)

/-- Results of a slot are pending of which an access waits behind an acquire on its way (10 R216). -/
def behindAcquire (s : State) (r : SlotRef) : Bool := (s.slot r).run.any (fun R => s.now < R.behind)

/-- The reason that keeps a slot waiting. -/
def slotReason (s : State) (r : SlotRef) : Nat :=
  match holdReason s r with
  | some why => why
  | none => match (s.slot r).wait with
    | .none => (heldBack s r).getD 15
    | .landing => if behindAcquire s r then 3 else 1
    | w => w.reason

/-- The stall reason of a gang in a cycle in which it does not issue (19 R347, 27 R423). -/
def stallReason (s : State) (g : Nat) : Nat :=
  let G := s.gang g
  if (G.team.bind s.team?).any (fun (T : Team) => T.pre == .save) then 15
  else if G.a.hnd.isSome && G.b.mask != 0 || G.b.hnd.isSome && G.a.mask != 0 then 15
  else if (nextSlot s g).isSome then (if withheldFrom s g then 15 else 0)
  else
    let b : Bool := G.b.mask != 0 && (G.a.mask == 0 || G.b.stamp < G.a.stamp)
    slotReason s { gang := g, b }

/-- One of some stall-reason counters advanced; it saturates at 2^32 - 1 (19 R347). -/
def countStall (l : List Nat) (reason : Nat) : List Nat := listSet l reason (min ((l[reason]?).getD 0 + 1) (2 ^ 32 - 1))

/-- A stall-reason counter of a gang advanced, that of each member of a width-64 pair (19 R347, 26 R409). -/
def Gang.stall (G : Gang) (reason : Nat) : Gang :=
  { G with stalls := countStall G.stalls reason, stalls1 := if G.width = 64 then countStall G.stalls1 reason else G.stalls1 }

/-- The gang issues in this cycle, or still occupies its scheduler (19 R347). -/
def Core.issuing (c : Core) (g : Nat) : Bool := c.busy.any (fun x => x.gang == g)

/-- A scheduler of a core has selected a gang in this cycle, is still occupied by a word (19 R345), or has its issue withheld (27 R423). -/
def schedTaken (c : Core) (sched : Nat) : Bool := c.withheld.contains sched || c.busy.any (fun x => schedOf x.gang == sched)

/-- A scheduler of a core has selected another gang in this cycle (19 R346). -/
def passedOver (c : Core) (g : Nat) : Bool := c.busy.any (fun x => x.first && schedOf x.gang == schedOf g && x.gang != g)

/-- The starvation counter of a gang after a cycle in which it does not issue (19 R346). -/
def starveNext (s : State) (g : Nat) (G : Gang) : Nat :=
  if (nextSlot s g).isNone then 0
  else if passedOver (s.core (coreOf g)) g then G.starve + 1 else G.starve

/-- A gang after a cycle of its core: its stall reason and its starvation counter, where it has not issued (19 R346, R347); the service gang has
no counters of stalls (18 R326). -/
def gangCycle (s : State) (g : Nat) (G : Gang) : Gang :=
  if (s.core (coreOf g)).issuing g then G
  else if isSvc g then { G with starve := starveNext s g G }
  else { G.stall (stallReason s g) with starve := starveNext s g G }

/-- The gangs of a core advance by a cycle. -/
def tickGangs (s : State) (core : Nat) : Tab Gang :=
  s.gangs.map (fun e => if coreOf e.1 = core then (e.1, gangCycle s e.1 e.2) else e)

/-- Gangs whose starvation counter has reached 52 and which are not in the forced queue (19 R346). -/
def starved (core : Nat) (forced : List Nat) (t : Tab Gang) : List Nat :=
  (t.filter (fun e => coreOf e.1 == core && Config.starveLimit ≤ e.2.starve && !forced.contains e.1)).map (·.1)

/-- Spawn bins whose timer runs out in this cycle (01 R19). -/
def dueBins (c : Core) : List Nat :=
  (List.range c.bins.length).filter (fun i => match c.bins[i]? with | some b => b.bound && b.left == 1 | none => false)

/-- Teams of a core whose recall window, counted from their admission, ends in this cycle, and which have refused (11 R246). -/
def dueWindows (s : State) (core : Nat) : List Nat :=
  (s.teams.filter (fun e => e.2.core == core && e.2.refusals != 0 && e.2.eff.window != 0 && (e.2.resid + e.2.winOff + 1) % e.2.eff.window == 0)).map (·.1)

/-- The events that a cycle of a core brings about: its timer's expiry (18 R316), spawn-bin timers (01 R19), recall windows (11 R246), starved
gangs (19 R346). -/
def tickEvents (s : State) (core : Nat) (c : Core) (t : Tab Gang) : List Agendum :=
  (if c.period ≠ 0 ∧ c.count ≤ 1 then [.event (.timerExpiry core)] else [])
    ++ (dueBins c).map (fun i => .event (.spawnBinTimerExpiry core i))
    ++ (dueWindows s core).map (fun t => .event (.refusalWindowExpiry t))
    ++ (starved core c.forced t).map (fun g => .event (.forcedQueueJoin g))

/-- A word that the slot holds at issue has issued and is not passed. -/
def Wait.held : Wait → Bool
  | .claim .. | .bwait .. | .copy .. | .spawn .. | .outside .. | .tlbsync | .saving .. | .loading .. => true
  | .none | .landing | .trapping .. | .fill _ | .record _ | .seal _ | .resolving | .undo | .join | .barrier .. | .batch .. | .watch ..
  | .stopped | .trapped _ | .idle | .unready | .queue | .overrun => false

/-- The gang that holds gang slot `i` of a core; a width-64 pair holds two (26 R409). -/
def gangAt (s : State) (core i : Nat) : Option Nat :=
  if (tabFind s.gangs (core * 64 + i)).isSome then some (core * 64 + i)
  else if i % 2 = 1 ∧ (tabFind s.gangs (core * 64 + i - 1)).any (fun (G : Gang) => G.width == 64) then some (core * 64 + i - 1)
  else none

/-- The snapshot word of a gang slot in a cycle (18 R328), but for the ordinal of a slot that stands at its entry, which is named. -/
def snapWord (s : State) (core : Nat) (i : Nat) : Nat × Option (SlotRef × Nat) :=
  match gangAt s core i with
  | none => (0, none)
  | some g =>
    let G := s.gang g
    let iss := (s.core core).busy.find? (fun x => x.gang == g)
    let b : Bool := match iss with | some x => x.b | none => G.a.mask == 0
    let X := G.slot b
    let at_ : Nat × Nat := match iss, X.run with
      | some x, _ => (x.off, x.ord)
      | none, none => (0, 0)
      | none, some R => ((match R.term with | some (_, o) => o | none => R.pos + 1), R.hdr.ord)
    (2 ^ 63 + b2n iss.isSome * 2 ^ 62 + (if iss.isSome then 0 else stallReason s g) * 2 ^ 58 + b2n b * 2 ^ 57 + at_.1 % 128 * 2 ^ 50 + at_.2 * 2 ^ 30
      + ((G.team.bind s.team?).elim 0 (fun (T : Team) => T.pos)) * 2 ^ 26 + G.num % 64 * 2 ^ 20 + (s.core core).clock.toNat % 2 ^ 20,
     if iss.isNone && X.run.isNone then some ({ gang := g, b }, X.entry) else none)

/-- A core's counters after a cycle; words that take more than one go on. -/
def Core.cycle (c : Core) : Core :=
  { c with
    clock := c.clock + 1
    count := if c.period = 0 then c.count else if c.count ≤ 1 then c.period else c.count - 1
    busy := (c.busy.filter (fun x => 1 < x.left)).map (fun x => { x with left := x.left - 1, first := false })
    withheld := []
    bins := c.bins.map (fun b => { b with left := b.left - 1 }) }

/-- A cycle ends on a core (log 1): its timer latches a snapshot where it expires, gangs that stopped being ready leave the forced queue (19 R346),
and the events of the cycle come before everything else. -/
def tickCore (s : State) (core : Nat) : State :=
  let gangs := tickGangs s core
  let c := s.core core
  let c := { c with forced := c.forced.filter (fun g => c.issuing g || (nextSlot s g).isSome) }
  let c' := if c.period ≠ 0 ∧ c.count ≤ 1 then { c.cycle with expired := some ((List.range 48).map (snapWord s core)) } else c.cycle
  let teams : Tab Team := s.teams.map (fun e => if e.2.core = core then (e.1, { e.2 with resid := e.2.resid + 1 }) else e)
  { (s.setCore core c') with gangs, teams, agenda := tickEvents s core c gangs ++ s.agenda }

/-! ## Issue -/

/-- How an effect leaves a word: done, held at issue by a wait already set in the slot, an at-issue trap, waiting before its issue, or reading
a poisoned row. -/
inductive Eff
  | done (s : State)
  | hold (s : State)
  | trap (cause : Nat)
  | wait (w : Wait)
  | poison

/-- What the shared rules of issue need to know of a word. -/
structure WordInfo where
  hd : Hd
  /-- OP[9:6] (07 R145) -/
  group : Nat
  srcs : List Opnd
  dsts : List Opnd
  /-- every operand has a width that the word accepts, and no other illegal-operand condition of the word's own holds (03 R56) -/
  ok : Bool
  /-- the word may write a predicate or a flag (03 R72) -/
  pf : Bool
  memory : Bool
  /-- forbidden in a guarded trace (04 R87) -/
  noGuard : Bool
  /-- forbidden in a trap handler (18 R322) -/
  noHandler : Bool
  /-- forbidden in the cast-off context (11 R243) -/
  noCast : Bool
  /-- open only to the service gang (18 R327, R328, R332) -/
  svc : Bool
  /-- open only to C gangs, apart from its group's own rule (01 R17) -/
  roleC : Bool
  grd : Bool
  /-- buffered in a guarded trace (04 R85) -/
  buffered : Bool
  /-- its stitch operands are read in the lowest participating lane only (08 R186, 10 R209) -/
  lowest : Bool
  /-- cycles that the word occupies its scheduler, apart from 03 R58 (09 R189) -/
  cyc : Nat
  /-- cycles from its issue to the return of its results; 0 for a word of fixed latency, and where the place decides (03 R425) -/
  lat : Nat

/-- A word with nothing special about it. -/
def WordInfo.plain (hd : Hd) (group : Nat) (srcs dsts : List Opnd) (ok : Bool) : WordInfo :=
  { hd, group, srcs, dsts, ok, pf := false, memory := false, noGuard := false, noHandler := false, noCast := false, svc := false,
    roleC := false, grd := false, buffered := false, lowest := false, cyc := 1, lat := 0 }

/-- Role, privilege and context (01 R17, 11 R243, 18 R309, R322). -/
def WordInfo.allowed (w : WordInfo) (s : State) (r : SlotRef) : Bool :=
  let G := s.gang r.gang
  (!(w.group == 0x5 || w.group == 0x6) || G.role == .v)
  && (!(w.group == 0xB) || G.role == .m)
  && (!w.roleC || G.role == .c)
  && (!(w.group == 0xE) || sysMode s r)
  && (!w.svc || isSvc r.gang)
  && (!(w.noHandler && (s.slot r).hnd.isSome))
  && (!(w.noCast && G.co.isSome))

/-- A stitch operand within the slot's limit, aligned where its width asks for it (03 R56). -/
def opndOk (limit : Nat) (o : Opnd) : Bool :=
  o.start + o.w.stitches ≤ limit && o.start + o.w.stitches ≤ 1024 && (o.w.stitches < 16 || o.start % 8 == 0)

/-- The distinct rows that a trace has written once a word has issued (04 R79). -/
def rowsAfter (R : Run) (dsts : List Opnd) : List Nat :=
  (dsts.flatMap rowsOf).foldl (fun l n => if l.contains n then l else l ++ [n]) R.rows

/-- The count limits of 04 R79, of a guarded trace (log 7); a GRD in a plain trace exceeds its count. -/
def WordInfo.within (w : WordInfo) (R : Run) : Bool :=
  (!w.grd || R.nGrd < R.hdr.grdn)
  && (!R.hdr.guarded || ((!w.buffered || R.nBuf < R.hdr.bufn) && (rowsAfter R w.dsts).length ≤ R.hdr.wset / 2))

/-- Row `n` of a gang is an overflow row: at or above the bound, and below the declared count (03 R69); the rows that only system mode names
are none (18 R322). -/
def overflowRow (s : State) (g n : Nat) : Bool := (s.gang g).bound ≤ 8 * n && 8 * n < declared s g

/-- The first overflow row named by a word that is not in the gang's window (03 R70). -/
def missingRow (s : State) (g : Nat) (os : List Opnd) : Option Nat :=
  (os.flatMap rowsOf).find? (fun n => overflowRow s g n && !((s.gang g).window.map (·.1)).contains n)

/-- A row named by a source of the word is poisoned in a participating lane (03 R57). -/
def readsPoison (G : Gang) (m : Mask) (os : List Opnd) : Bool :=
  (Mask.lanes m).any (fun l => (os.flatMap rowsOf).any (fun n => (G.lane l).poison.getLsbD n))

/-- The lanes in which a word reads its stitch operands, of those that participate. -/
def WordInfo.readers (w : WordInfo) (m : Mask) : Mask :=
  if w.lowest then (match Mask.lowest m with | some l => 1#64 <<< l | none => 0) else m

/-- Extra register-file read cycles (03 R58). -/
def extraReads (os : List Opnd) : Nat := (os.filter (fun o => o.w.stitches ≤ 8 && 1 < (rowsOf o).length)).length

/-- Overflow rows touched by a word become the most recently used, and those written are marked (03 R70). -/
def touchWindow (G : Gang) (srcs dsts : List Opnd) : Gang :=
  let f (w : Bool) (win : List (Nat × Bool)) (n : Nat) : List (Nat × Bool) :=
    match win.find? (·.1 == n) with
    | some e => win.filter (·.1 != n) ++ [(n, e.2 || w)]
    | none => win
  { G with window := (dsts.flatMap rowsOf).foldl (f true) ((srcs.flatMap rowsOf).foldl (f false) G.window) }

/-- The undo copies, counts, time of return and window marks that the issue of a word makes (03 R70, R72, R425, 04 R84). -/
def enterWord (w : WordInfo) (s : State) (r : SlotRef) (R : Run) (m : Mask) : State × Run :=
  let G := s.gang r.gang
  let R := undoRows G R (w.dsts.flatMap rowsOf)
  let R := if w.pf then undoPF G R m else R
  let R := { R with nGrd := R.nGrd + b2n w.grd, nBuf := R.nBuf + b2n w.buffered,
                    back := if w.lat = 0 ∨ m = 0 then R.back else max R.back (s.now + w.lat) }
  let s := if G.window.isEmpty then s else s.setGang r.gang (touchWindow G w.srcs w.dsts)
  (s.setRun r R, R)

/-- The gang issues a word, which occupies its scheduler for some cycles: its starvation
counter and its place in the forced queue, the slot's place in the alternation (04 R93, 19 R346), and its cast-off count (11 R244). `at_` is the
word's offset and its trace's ordinal. A recipe's words count for no routine (11 R244, 21 R370). A word of a width-64 pair takes twice the cycles that it takes of another gang, its extra reads among them
(DESIGN CHOICE, log 70: 26 R408 gives two cycles for each word and says nothing of 03 R58's). -/
def issued (s : State) (r : SlotRef) (words cyc : Nat) (at_ : Nat × Nat) : State :=
  let G := s.gang r.gang
  let X := G.slot r.b
  let G := { G with starve := 0, co := if G.rebuild.isSome then G.co else G.co.map (fun (c : Castoff) => { c with count := c.count + words }) }
  let c := s.core (coreOf r.gang)
  let x : Busy := { gang := r.gang, b := r.b, off := at_.1, ord := at_.2, left := if G.width = 64 then 2 * cyc else cyc, first := true }
  let s := s.setCore (coreOf r.gang) { c with forced := c.forced.filter (· != r.gang), busy := c.busy ++ [x] }
  s.setGang r.gang (G.setSlot r.b { X with stamp := max G.a.stamp G.b.stamp + 1 })

/-- The slot passes a body word: the next word's turn, or the end of a switch group, at which the slot parks until the pending
results land (03 R64). -/
def advance (s : State) (r : SlotRef) (sw : Bool) : State :=
  let X := s.slot r
  match X.run with
  | some R =>
    let w := if sw && !R.pends.isEmpty then Wait.landing else Wait.none
    s.setSlot r { X with run := some { R with pos := R.pos + 1 }, wait := w }
  | none => s

/-- The word that would make the count of a cast-off routine exceed its bound (11 R244). -/
def overBound (G : Gang) (words : Nat) : Bool :=
  G.rebuild.isNone && match G.co with
  | some c => c.bound < c.count + words
  | none => false

/-- A word that waits for an event, which takes place first. -/
def waitFor (e : Instr) (s : State) : Host.Outcome State Fault Refusal := .next (s.before e)

/-- A word reads a poisoned row: its team is ended (03 R57); the service gang has none, and traps with cause 48 (18 R323, 23 R380). -/
def rowPoison (s : State) (r : SlotRef) (R : Run) : Host.Outcome State Fault Refusal :=
  match (s.gang r.gang).team with
  | some t => waitFor (.poisonConsumed t 0) s
  | none => .next (atIssue s r R 48)

/-- A body word issues from the slot at the cursor: the checks of 07 R159 in their order, then its effect, then the turn of the
next word. One that needs a function which is not ready waits, with none of its effect (27 R421). -/
def bodyWord (w : WordInfo) (eff : State → SlotRef → Run → Mask → Eff) (s : State) : Host.Outcome State Fault Refusal :=
  let r := s.cur
  match liveRun s r with
  | none => .fault .slotEmpty
  | some R =>
    let G := s.gang r.gang
    let os := w.srcs ++ w.dsts
    if overBound G 1 then waitFor (.castoffBoundOverrun r.gang) s
    else if !w.allowed s r then .next (atIssue s r R 1)
    else if R.hdr.guarded && w.noGuard then .next (atIssue s r R 1)
    else if !(w.ok && os.all (opndOk (stitchLimit s r))) then .next (atIssue s r R 2)
    else if !w.within R then .next (atIssue s r R 3)
    else
      match missingRow s r.gang os with
      | some n => .next (s.setWait r (.fill n))
      | none =>
        let m := participants s r R w.hd w.memory
        if readsPoison G (w.readers m) w.srcs then rowPoison s r R
        else
          let e := enterWord w s r R m
          match eff e.1 r e.2 m with
          | .done s' =>
            if (s'.slot r).wait = .unready then .next (s.setWait r .unready)
            else .next (issued (advance s' r w.hd.sw) r 1 (w.cyc + extraReads w.srcs) (R.pos + 1, R.hdr.ord))
          | .hold s' => .next (issued s' r 1 (w.cyc + extraReads w.srcs) (R.pos + 1, R.hdr.ord))
          | .trap c => .next (atIssue s r R c)
          | .wait v => .next (s.setWait r v)
          | .poison => rowPoison s r R

/-- What the shared rules of issue need to know of a terminator. `term` and the state after it are worked out at issue. -/
structure TermInfo where
  /-- words that it takes -/
  words : Nat
  /-- stitch operands read at resolution, and those written there (08 R165) -/
  srcs : List Opnd
  dsts : List Opnd
  ok : Bool
  noGuard : Bool
  noHandler : Bool
  noCast : Bool
  /-- open only to C gangs (01 R17), only in a cast-off routine (11 R243), only in a handler (18 R333) -/
  roleC : Bool
  castOnly : Bool
  hndOnly : Bool
  /-- a WAITM may stand in its trace (13 R288) -/
  withWatch : Bool

def TermInfo.plain : TermInfo :=
  { words := 1, srcs := [], dsts := [], ok := true, noGuard := false, noHandler := false, noCast := false, roleC := false, castOnly := false,
    hndOnly := false, withWatch := false }

/-- Role, privilege and context of a terminator (01 R17, 11 R243, 18 R309, R322, R333). -/
def TermInfo.allowed (w : TermInfo) (s : State) (r : SlotRef) : Bool :=
  let G := s.gang r.gang
  (!w.roleC || G.role == .c)
  && (!(w.noHandler && (s.slot r).hnd.isSome))
  && (!(w.noCast && G.co.isSome))
  && (!w.castOnly || G.co.isSome)
  && (!w.hndOnly || (s.slot r).hnd.isSome)

/-- A WAITM stands in the trace's body (13 R288). -/
def Run.hasWaitm (R : Run) : Bool := (R.words.take R.hdr.len).any (fun w => opOf w.toNat == 0x30E)

/-- A terminator issues: it waits to resolve at the end of its switch group (04 R88), once the checks of 07 R159 have passed in their
order. `eff` gives the terminator as it stands at issue and the state after its own effect there. A terminator of two words issues them one after
the other, so that the gang's other slot may issue between them (04 R93, R100). -/
def termWord (w : TermInfo) (eff : State → SlotRef → Term × State) (s : State) : Host.Outcome State Fault Refusal :=
  let r := s.cur
  match liveRun s r with
  | none => .fault .slotEmpty
  | some R =>
    let G := s.gang r.gang
    let os := w.srcs ++ w.dsts
    if !R.half && overBound G w.words then waitFor (.castoffBoundOverrun r.gang) s
    else if !w.allowed s r then .next (atIssue s r R 1)
    else if !w.withWatch && R.hasWaitm then .next (atIssue s r R 1)
    else if R.hdr.guarded && w.noGuard then .next (atIssue s r R 1)
    else if !(w.ok && os.all (opndOk (stitchLimit s r))) then .next (atIssue s r R 2)
    else if R.hdr.guarded && R.hdr.wset / 2 < (rowsAfter R w.dsts).length then .next (atIssue s r R 3)
    else
      match missingRow s r.gang os with
      | some n => .next (s.setWait r (.fill n))
      | none =>
        if w.words = 2 ∧ R.half = false then .next (issued (s.setRun r { R with half := true }) r 1 1 (R.pos + 1, R.hdr.ord))
        else
          let x := eff (if G.window.isEmpty then s else s.setGang r.gang (touchWindow G w.srcs w.dsts)) r
          match (x.2.slot r).run with
          | some R => .next (issued (x.2.setSlot r { x.2.slot r with run := some { R with term := some (x.1, R.pos + 1) }, wait := .resolving }) r
              1 (1 + extraReads w.srcs) (R.pos + w.words, R.hdr.ord))
          | none => .fault .slotEmpty

end Machine
end Sys2Proof
end

