-- ==== Sys2Proof/Machine/Xlate.lean ====
section
/-! DEFINITION. Memory at its places: home banks and their caches (06 R131, R424), poisoned bytes (27 R418, R419), and translation in two stages (20
R350 to R357). -/

set_option Elab.async false

namespace Sys2Proof
namespace Machine

/-! ## The home bank of a line of device memory (06 R131, R424) -/

/-- Word `i` of a descriptor. -/
def descWord (d : List Word64) (i : Nat) : Nat := ((d[i]?).getD 0).toNat

def State.panel (s : State) (p : Nat) : List Word64 := tabGet [] s.panels p

/-- The twins of a panel as a bit set (23 R376). -/
def twinBits (d : List Word64) : Nat := descWord d 1 + fld (descWord d 2) 0 32 * 2 ^ 64

/-- The physical twin of panel twin `t` (23 R377). -/
def physTwin (d : List Word64) (t : Nat) : Option Nat :=
  let sp (i : Nat) := fld (descWord d 4) (16 * i) 16
  match (List.range 4).find? (fun i => bit (sp i) 15 && fld (sp i) 8 7 == t) with
  | some i => some (fld (sp i) 0 7)
  | none => ((List.range 96).filter (fun i => bit (twinBits d) i))[t]?

/-- Twins of a panel (23 R376). -/
def nTwinOf (d : List Word64) : Nat := fld (descWord d 0) 52 7

/-- The line of a key. -/
def lineOf (key : Nat) : Nat := key / 128

/-- The home bank of a line of device memory: the panel vault that the hash names (06 R131). -/
def homeVault (d : List Word64) (pa : Nat) : Nat :=
  let v := pa / 128
  (v ^^^ (v / 2 ^ 13) ^^^ (v / 2 ^ 26) ^^^ (v / 2 ^ 39)) % 2 ^ 13 % nTwinOf d

/-- The physical twin of the home bank of a line of device memory (06 R131, 23 R377). -/
def homeTwin (s : State) (key : Nat) : Nat :=
  let d := s.panel (keyAddr key / 2 ^ 52)
  (physTwin d (homeVault d (keyAddr key % 2 ^ 52))).getD 0

/-- HCACHE of a panel: every 32 extents of a vault that it reserves as home cache (06 R130, 23 R376). -/
def homeCode (d : List Word64) : Nat := fld (descWord d 0) 37 3

/-- The set in which a line of device memory belongs in its home cache, by 2^20 x vault + set: a cache of C bytes has C / 2,048 of them. -/
def homeSet (s : State) (key : Nat) : Option Nat :=
  let c := homeCode (s.panel (keyAddr key / 2 ^ 52))
  if keyRegion key = 2 ∧ c ≠ 0 then some (2 ^ 20 * homeTwin s key + keyAddr key % 2 ^ 52 / 128 % (2 ^ 14 * c)) else none

/-- Lines of one set of a home cache. -/
def homeWays : Nat := 16

/-- A home cache holds a line. -/
def homeHolds (s : State) (key : Nat) : Bool := (homeSet s key).any (fun i => (tabGet [] s.home i).contains (lineOf key))

/-- An access reaches the home bank of a line, which its cache then holds as the most recently used of its set. -/
def useHome (s : State) (key : Nat) : State :=
  match homeSet s key with
  | none => s
  | some i =>
    let l := (tabGet [] s.home i).filter (· != lineOf key) ++ [lineOf key]
    { s with home := tabSet s.home i (l.drop (l.length - homeWays)) }

/-! ## Bytes of memory and their poison -/

/-- The bits of `new` under a mask, and the others of `old`. -/
def mergeByte (old mask new : Byte) : Byte := (old &&& ~~~mask) ||| (new &&& mask)

/-- A byte of memory written under a mask. A byte overwritten whole loses its poison (27 R419); a copy of its line that the host holds has been
back-invalidated (27 R413); the access reaches the line's home bank (06 R424). -/
def State.put (s : State) (key : Nat) (mask val : Byte) : State :=
  { useHome s key with
           mem := s.mem.write key (mergeByte (s.mem.read key) mask val),
           poison := if mask = 0xFF then s.poison.filter (· != key) else s.poison,
           hostLines := s.hostLines.filter (· != key / 128) }

/-- A byte is poisoned (27 R418, R419). -/
def State.poisoned (s : State) (key : Nat) : Bool := s.poison.contains key

/-- One of `n` bytes from a key is poisoned. -/
def State.poisonedIn (s : State) (key n : Nat) : Bool := !s.poison.isEmpty && (List.range n).any (fun i => s.poisoned (key + i))

/-- The poison of `n` bytes from a key cleared: they are overwritten whole (27 R419). -/
def State.unpoison (s : State) (key n : Nat) : State :=
  if s.poison.isEmpty then s else { s with poison := s.poison.filter (fun p => !(key ≤ p && p < key + n)) }

/-- Bytes that an error poisons together: 8 of the scratchpad or of a vault, 64 of the spaces that DRAM holds, an accumulator element, a macro row
(27 R418; the bytes of a macro row are a DESIGN CHOICE, log 39). -/
def poisonUnit (key : Nat) : Nat :=
  if keyRegion key ≤ 1 then 8 else if keyRegion key = 8 then 4 else 64

/-- A write of the bytes `cover` does not overwrite all the poison of the unit in which its byte `key` lies, so it is lost (27 R419,
R420, log 40). -/
def State.loses (s : State) (cover : List Nat) (key : Nat) : Bool :=
  !s.poison.isEmpty && s.poisoned key &&
  s.poison.any (fun p => p / poisonUnit key == key / poisonUnit key && !cover.contains p)

/-- A team is about to be ended for what it did. -/
def doomed (s : State) (team : Option Nat) : Bool :=
  s.agenda.any (fun a => match a with
    | .event (.poisonConsumed t _) => some t == team
    | _ => false)

/-- The physical address of a key (21 R363); macros and accumulators have none. -/
def keyPa (key : Nat) : Nat :=
  match keyRegion key with
  | 2 => keyAddr key % 2 ^ 52
  | 0 | 1 | 3 | 4 => keyAddr key
  | _ => 0

/-- Who answers for a gang's accesses: its team; for the service gang, which has none, a number beyond every team's that names its place. -/
def State.owner (s : State) (g : Nat) : Option Nat :=
  match (s.gang g).team with
  | some t => some t
  | none => if isSvc g then some (ownerBase + g) else none

/-- An access that fails ends who answers for it next, with a detail (27 R417, R419). -/
def storageError (s : State) (owner : Option Nat) (detail : Nat) : State :=
  match owner with
  | some t => if doomed s owner then s else s.before (.poisonConsumed t detail)
  | none => s

/-- An access that consumed poison at a key ends who answers for it (27 R419); the detail is the failing line's physical address. -/
def consumed (s : State) (owner : Option Nat) (key : Nat) : State := storageError s owner (keyPa (key / 128 * 128))

/-! ## Translation -/

/-- The number of a translation context: virtual device `vd` of a panel, 16 for the panel's system address space (20 R350). -/
def ctxId (panel vd : Nat) : Nat := panel * 17 + vd

def sysCtx (panel : Nat) : Nat := ctxId panel 16

/-- A virtual device's descriptor (23 R379); the table's keys are 16 x panel + device. -/
def State.vd (s : State) (panel vd : Nat) : List Word64 := tabGet [] s.vds (panel * 16 + vd)

/-- The S1ROOT and S2ROOT addresses of a context (20 R350). -/
def ctxRoots (s : State) (ctx : Nat) : Nat × Nat :=
  let d := if ctx % 17 = 16 then s.panel (ctx / 17) else s.vd (ctx / 17) (ctx % 17)
  (fld (descWord d 6) 12 40 * 2 ^ 12, fld (descWord d 7) 12 40 * 2 ^ 12)

/-- Page bytes of a SIZE code (20 R352). -/
def pageSize (code : Nat) : Option Nat :=
  match code with
  | 0 => some (2 ^ 12) | 1 => some (2 ^ 14) | 2 => some (2 ^ 16) | 3 => some (2 ^ 18) | 4 => some (2 ^ 20) | 5 => some (2 ^ 21)
  | 6 => some (2 ^ 22) | 7 => some (2 ^ 24) | 8 => some (2 ^ 26) | 9 => some (2 ^ 28) | 10 => some (2 ^ 30) | 11 => some (2 ^ 32)
  | _ => none

/-- Leaf sizes allowed at a level (20 R351). -/
def sizeAt (level code : Nat) : Bool :=
  match level with
  | 2 => code == 10 || code == 11
  | 3 => 5 ≤ code && code ≤ 9
  | 4 => code ≤ 4
  | _ => false

/-- Bytes that one entry of a level covers (20 R351). -/
def granule (level : Nat) : Nat := 2 ^ (48 - 9 * level)

/-- A leaf as a walk finds it: the page's first byte, its bytes, the entry's number, and the address of its run's first
entry (20 R353). -/
structure Leaf where
  addr : Nat
  size : Nat
  entry : Nat
  first : Nat
  deriving DecidableEq, Repr

/-- What one table entry says at a level (20 R352, R354); `none` is a translation fault. -/
inductive Found
  | next (table : Nat)
  | leaf (l : Leaf)
  deriving DecidableEq, Repr

/-- An entry read at `table`, index `idx` of a level, by stage. D of an entry that is no second-stage leaf is ignored (log 9). -/
def readEntry (e level table idx : Nat) (stage2 : Bool) : Option Found :=
  let addr := fld e 12 40 * 2 ^ 12
  if !bit e 63 || bit e 52 || fld e 8 4 != 0 || fld e 0 4 != 0 then none
  else if stage2 && bit e 4 then none
  else if bit e 62 then
    if level < 4 && fld e 55 3 == 0 && !bit e 54 then some (.next addr) else none
  else
    let code := fld e 58 4
    match pageSize code with
    | none => none
    | some size =>
      if !sizeAt level code || addr % size != 0 then none
      else if stage2 && (fld e 55 3 == 0 || 5 < fld e 55 3) then none
      else if !stage2 && (fld e 55 3 != 0 || bit e 54) then none
      else
        let run := max 1 (size / granule level)
        some (.leaf { addr, size, entry := e, first := table + 8 * (idx / run * run) })

/-- A second-stage walk of an intermediate address from `table` at `level`; tables are read at their home in the panel's device memory (20
R351, R356, 23 R377). -/
def walk2 (m : Memory) (panel ipa : Nat) : Nat → Nat → Nat → Option Leaf
  | 0, _, _ => none
  | fuel + 1, level, table =>
    let idx := ipa / granule level % (if level = 0 then 16 else 512)
    match readEntry (m.readN (devKey panel (table + 8 * idx)) 8) level table idx true with
    | some (.leaf l) => some l
    | some (.next t) => walk2 m panel ipa fuel (level + 1) t
    | none => none

/-- The outcome of a first-stage walk. -/
inductive Walk1
  | leaf (l : Leaf)
  | fault1
  | fault2
  deriving DecidableEq, Repr

/-- A first-stage walk; the address of each table is an intermediate address (20 R351, R354). -/
def walk1 (m : Memory) (panel s2 va : Nat) : Nat → Nat → Nat → Walk1
  | 0, _, _ => .fault1
  | fuel + 1, level, table =>
    let idx := va / granule level % 512
    let ipa := table + 8 * idx
    match walk2 m panel ipa 5 0 s2 with
    | none => .fault2
    | some l =>
      match readEntry (m.readN (devKey panel (l.addr + ipa % l.size)) 8) level table idx false with
      | some (.leaf l) => .leaf l
      | some (.next t) => walk1 m panel s2 va fuel (level + 1) t
      | none => .fault1

/-- Table entries that the walkers of a die hold (20 R355). -/
def walkerEntries : Nat := 256

/-- The die of a core, which shares its walkers (20 R355, 27 R422). -/
def dieOf (core : Nat) : Nat := core / 96

/-- What a held entry serves belongs to the walks of a context. -/
def TableE.serves (e : TableE) (ctx : Nat) : Bool := if e.stage2 then e.ctx / 17 == ctx / 17 else e.ctx == ctx

/-- Memory as the walks of a context on a die read it: at the places of the entries that the die's walkers hold, these (20 R355, R356). The management
core's own walks, which are on neither die, hold none. -/
def walkMem (s : State) (die ctx : Nat) : Memory :=
  if 2 ≤ die then s.mem
  else (s.tables.filter (fun e => e.die == die && e.serves ctx)).foldl (fun m e => m.writeN e.key 8 e.word) s.mem

/-- A table entry of a level as a walker may hold it: it serves the page of its leaf, or what it covers. -/
def heldEntry (m : Memory) (die ctx : Nat) (stage2 : Bool) (key level addr : Nat) (f : Found) : TableE :=
  let n := match f with
    | .leaf l => max (granule level) l.size
    | .next _ => granule level
  { die, ctx, stage2, key, word := m.readN key 8, base := addr / n * n, size := n }

/-- The valid entries that a second-stage walk reads. -/
def path2 (m : Memory) (die ctx ipa : Nat) : Nat → Nat → Nat → List TableE
  | 0, _, _ => []
  | fuel + 1, level, table =>
    let idx := ipa / granule level % (if level = 0 then 16 else 512)
    let key := devKey (ctx / 17) (table + 8 * idx)
    match readEntry (m.readN key 8) level table idx true with
    | some (.leaf l) => [heldEntry m die ctx true key level ipa (.leaf l)]
    | some (.next t) => heldEntry m die ctx true key level ipa (.next t) :: path2 m die ctx ipa fuel (level + 1) t
    | none => []

/-- The valid entries that a walk of both stages reads. -/
def path1 (m : Memory) (die ctx s2 va : Nat) : Nat → Nat → Nat → List TableE
  | 0, _, _ => []
  | fuel + 1, level, table =>
    let idx := va / granule level % 512
    let ipa := table + 8 * idx
    path2 m die ctx ipa 5 0 s2 ++
    match walk2 m (ctx / 17) ipa 5 0 s2 with
    | none => []
    | some l =>
      let key := devKey (ctx / 17) (l.addr + ipa % l.size)
      match readEntry (m.readN key 8) level table idx false with
      | some (.leaf x) => heldEntry m die ctx false key level va (.leaf x) :: path2 m die ctx (x.addr + va % x.size) 5 0 s2
      | some (.next t) => heldEntry m die ctx false key level va (.next t) :: path1 m die ctx s2 va fuel (level + 1) t
      | none => []

/-- The walkers of a die keep the valid entries that a walk reads, each once (20 R355). -/
def keepTables (s : State) (die ctx va : Nat) : State :=
  if 2 ≤ die then s
  else
    let roots := ctxRoots s ctx
    let same (a b : TableE) : Bool := a.die == b.die && a.ctx == b.ctx && a.stage2 == b.stage2 && a.key == b.key
    let now := (path1 (walkMem s die ctx) die ctx roots.2 va 5 0 roots.1).foldl (fun es e => if es.any (same e) then es else es ++ [e]) []
    let old := s.tables.filter (fun e => !now.any (same e))
    { s with tables := (now ++ old.filter (fun e => e.die == die)).take walkerEntries ++ old.filter (fun e => e.die != die) }

/-- Extent `x` of a vault is reserved as home cache: the highest-numbered ones are (06 R130, 23 R376). -/
def reservedExtent (d : List Word64) (x : Nat) : Bool := 256 - 32 * homeCode d ≤ x

/-- The bytes of a space that a leaf of `size` bytes at an address names touch an extent reserved as home cache, which cannot be mapped (06
R130). -/
def mapsReserved (d : List Word64) (space addr size : Nat) : Bool :=
  space == 1 && reservedExtent d ((addr + (size - 1)) / 2 ^ 20 % 256)

/-- The key of an address of a space in a panel (06 R126, 23 R377). -/
def spaceKey (panel space addr : Nat) : Nat := if spaceRegion space = 2 then devKey panel addr else memKey space addr

/-- A walk of both stages on a die: the translation to cache, or the cause 8 or 9 (20 R354). The entry stands for the lesser of the two
pages. A leaf that names an extent reserved as home cache maps nothing (06 R130; the cause is a DESIGN CHOICE, log 60). -/
def walk (s : State) (die ctx va : Nat) : Nat ⊕ TlbE :=
  let roots := ctxRoots s ctx
  let panel := ctx / 17
  let m := walkMem s die ctx
  match walk1 m panel roots.2 va 5 0 roots.1 with
  | .fault1 => .inl 8
  | .fault2 => .inl 9
  | .leaf l1 =>
    let ipa := l1.addr + va % l1.size
    match walk2 m panel ipa 5 0 roots.2 with
    | none => .inl 9
    | some l2 =>
      let size := min l1.size l2.size
      let space := fld l2.entry 55 3
      let addr := l2.addr + ipa % l2.size / size * size
      if mapsReserved (s.panel panel) space addr size then .inl 9
      else
      .inr { ctx, va := va / size * size, size, va1 := va / l1.size * l1.size, size1 := l1.size, ipa := ipa / size * size, size2 := l2.size,
             key := spaceKey panel space addr, space,
             r1 := bit l1.entry 5, w1 := bit l1.entry 6, x1 := bit l1.entry 7, u1 := bit l1.entry 4,
             r2 := bit l2.entry 5, w2 := bit l2.entry 6, x2 := bit l2.entry 7, dt := bit l2.entry 54,
             d := bit (m.readN (devKey panel l2.first) 8) 53, dkey := devKey panel l2.first }

/-- The kind of access is allowed (20 R354). -/
def accOk (a : Acc) (r w x : Bool) : Bool :=
  match a with
  | .read => r
  | .write => w
  | .readWrite => r && w
  | .fetch => x

def accWrites : Acc → Bool
  | .write | .readWrite => true
  | .read | .fetch => false

/-- A translation in use: the space and key, or the cause of a fault (20 R354). -/
inductive XRes
  | ok (space key : Nat)
  | fault (cause : Nat)
  deriving DecidableEq, Repr

/-- The checks of an entry for an access (20 R354). -/
def TlbE.check (e : TlbE) (va : Nat) (a : Acc) (user : Bool) (space : Option Nat) : XRes :=
  if space.isSome && space != some e.space then .fault 9
  else if user && !e.u1 || !accOk a e.r1 e.w1 e.x1 then .fault 10
  else if !accOk a e.r2 e.w2 e.x2 then .fault 11
  else .ok e.space (e.key + va % e.size)

def TlbE.covers (e : TlbE) (ctx va : Nat) : Bool := e.ctx == ctx && e.va ≤ va && va < e.va + e.size

/-- Translations that a core caches (20 R355). -/
def tlbEntries : Nat := 2048

/-- A translation cached by a core in place of one for the same page (20 R355). -/
def tlbInsert (s : State) (core : Nat) (e : TlbE) : State :=
  let c := s.core core
  s.setCore core { c with tlb := (e :: c.tlb.filter (fun o => !(o.ctx == e.ctx && o.va == e.va))).take tlbEntries }

/-- The places of the entries that a second-stage walk reads, valid ones and the last. -/
def keys2 (m : Memory) (panel ipa : Nat) : Nat → Nat → Nat → List Nat
  | 0, _, _ => []
  | fuel + 1, level, table =>
    let idx := ipa / granule level % (if level = 0 then 16 else 512)
    let key := devKey panel (table + 8 * idx)
    match readEntry (m.readN key 8) level table idx true with
    | some (.next t) => key :: keys2 m panel ipa fuel (level + 1) t
    | some (.leaf _) => [key]
    | none => [key]

/-- The places of the entries that a walk of both stages reads. -/
def keys1 (m : Memory) (panel s2 va : Nat) : Nat → Nat → Nat → List Nat
  | 0, _, _ => []
  | fuel + 1, level, table =>
    let idx := va / granule level % 512
    let ipa := table + 8 * idx
    keys2 m panel ipa 5 0 s2 ++
    match walk2 m panel ipa 5 0 s2 with
    | none => []
    | some l =>
      let key := devKey panel (l.addr + ipa % l.size)
      match readEntry (m.readN key 8) level table idx false with
      | some (.next t) => key :: keys1 m panel s2 va fuel (level + 1) t
      | some (.leaf x) => key :: keys2 m panel (x.addr + va % x.size) 5 0 s2
      | none => [key]

/-- The places of the entries that a walk reads from memory: those that the walkers of the die do not hold. -/
def walkKeys (s : State) (die ctx va : Nat) : List Nat :=
  let roots := ctxRoots s ctx
  (keys1 (walkMem s die ctx) (ctx / 17) roots.2 va 5 0 roots.1).filter (fun k => !s.tables.any (fun o => o.die == die && o.serves ctx && o.key == k))

/-- The entries that a walk reads from memory reach their home banks (06 R424). -/
def walkUses (s : State) (die ctx va : Nat) : State := (walkKeys s die ctx va).foldl useHome s

/-- The entry that a core has cached for an access, which serves it unless it would have to set D (20 R355, R357). -/
def tlbServes (s : State) (core ctx va : Nat) (a : Acc) : Option TlbE :=
  (s.core core).tlb.find? (fun e => e.covers ctx va && !(accWrites a && e.dt && !e.d))

/-- Translation of an access from a core: a cached entry serves it unless it would have to set D (20 R355, R357); otherwise the
tables are walked, the translation cached and D set before the write. -/
def translate (s : State) (core ctx va : Nat) (a : Acc) (user : Bool) (space : Option Nat) : State × XRes :=
  let serve (s : State) (e : TlbE) : State × XRes :=
    match e.check va a user space with
    | .fault c => (tlbInsert s core e, .fault c)
    | .ok sp k =>
      if accWrites a && e.dt && !e.d then
        ((tlbInsert (useHome { s with mem := s.mem.write (e.dkey + 6) (s.mem.read (e.dkey + 6) ||| 0x20) } e.dkey) core { e with d := true }),
          .ok sp k)
      else (tlbInsert s core e, .ok sp k)
  match tlbServes s core ctx va a with
  | some e => (s, e.check va a user space)
  | none =>
    let x := walk s (dieOf core) ctx va
    let s := walkUses s (dieOf core) ctx va
    match x with
    | .inl c => (s, .fault c)
    | .inr e => serve s e

/-- A translation for the management core or the distributor, which cache none (20 R350). -/
def mgmtXlate (s : State) (ctx va : Nat) (acc : Acc) : State × XRes :=
  let x := translate { s with cores := [] } Config.nCores ctx va acc false none
  ({ x.1 with cores := s.cores }, x.2)

/-- The panel of a core and its panel core number; panel 0 and its own number where no enabled panel names the core. -/
def panelCore (s : State) (core : Nat) : Nat × Nat :=
  let hit := s.panels.filterMap (fun e =>
    if bit (descWord e.2 0) 63 then
      ((List.range (nTwinOf e.2)).find? (fun t => physTwin e.2 t == some (core / 2))).map (fun t => (e.1, 2 * t + core % 2))
    else none)
  hit.headD (0, core)

/-- The context through which a gang's accesses translate, and whether it does so in user mode (20 R350): the service gang and
handlers use the system context (23 R376, log 18). -/
def gangCtx (s : State) (r : SlotRef) : Nat × Bool :=
  if sysMode s r then (sysCtx (panelCore s (coreOf r.gang)).1, false)
  else
    match launchOf s r.gang with
    | some L => (ctxId L.panel L.vd, true)
    | none => (sysCtx (panelCore s (coreOf r.gang)).1, true)

end Machine
end Sys2Proof
end

