-- ==== Sys2Proof/Machine/Operands.lean ====
section
/-! DEFINITION. The operand forms of a word: stitch operands at a type (03 R60, R61), predicate and special-register sources (03 R75, 07 R146),
uniform sources (08 R184), pairs of uniform registers (07 R146), the widths that words accept, and the fields of a launch that they
read (19 R336). -/

set_option Elab.async false

namespace Sys2Proof
namespace Machine

/-! ## Widths -/

/-- 1 to 16 stitches (08 R171). -/
def intW (o : Opnd) : Bool := o.w.stitches ≤ 16

/-- Exactly `n` stitches. -/
def wIs (n : Nat) (o : Opnd) : Bool := o.w.stitches == n

/-- 8 or 16 stitches: addresses and control registers (10 R205, 18 R310). -/
def addrW (o : Opnd) : Bool := o.w.stitches == 8 || o.w.stitches == 16

/-- A start that is a multiple of 8, for operands of which a terminator writes 16 stitches (08 R165). -/
def rowStart (o : Opnd) : Bool := o.start % 8 == 0

/-! ## Values at a type -/

/-- A source of `w` bits brought to the type's width (03 R60): its pattern. -/
def srcPat (t : Ty) (x w : Nat) : Nat := pat (if t.signed then extS x w else extZ x w) t.bits

/-- A source of `w` bits read at an integer type (03 R60, 08 R171). -/
def srcInt (t : Ty) (x w : Nat) : Int := readInt t (srcPat t x w)

/-- Src(A, T) of a lane (08 R171). -/
def Lane.src (L : Lane) (t : Ty) (o : Opnd) : Int := srcInt t (L.rd o) o.w.bits

/-- The pattern at the type of a lane's operand. -/
def Lane.srcP (L : Lane) (t : Ty) (o : Opnd) : Nat := srcPat t (L.rd o) o.w.bits

/-- A result brought to a destination of `w` bits (03 R60). -/
def dstPat (t : Ty) (sat : Bool) (v : Int) (w : Nat) : Nat :=
  pat (if sat && w < t.bits then (if t.signed then satS v w else satN v w) else v) w

/-- A result of an integer row written to its destination by 03 R60. -/
def wrInt (o : Opnd) (t : Ty) (sat : Bool) (v : Int) : LW := wrTo o (dstPat t sat v o.w.bits)

/-- The exact result of a row brought to its type (08 R171): saturated where the row saturates and .sat is given, else wrapped. -/
def toType (t : Ty) (sat : Bool) (v : Int) : Int := if sat then satTo t v else readInt t (pat v t.bits)

/-- A uniform source at a type (08 R184). -/
def kSrc (t : Ty) (v : Nat) : Int := readInt t v

/-- A pair of uniform registers as a 128-bit value (07 R146). -/
def kpair (s : State) (r : SlotRef) (k : Nat) : Nat := kreg s r k + 2 ^ 64 * kreg s r (k + 1)

/-! ## Launches and regions -/

/-- A field of the launch parameter block (19 R336). -/
def Launch.blk (L : Launch) (d lo n : Nat) : Nat := fld (descWord L.block d) lo n

def Launch.dimx (L : Launch) : Nat := L.blk 2 0 20
def Launch.dimy (L : Launch) : Nat := L.blk 2 20 20
def Launch.dimz (L : Launch) : Nat := L.blk 2 40 20
def Launch.teams (L : Launch) : Nat := L.dimx * L.dimy * L.dimz
/-- Launched gangs of a team (19 R336). -/
def Launch.gangs (L : Launch) : Nat := L.blk 3 24 8 + L.blk 3 32 8 + L.blk 3 40 8
def Launch.grid (L : Launch) : Bool := L.blk 4 28 1 == 1
def Launch.twin (L : Launch) : Bool := L.blk 4 27 1 == 1
def Launch.stitch (L : Launch) : Nat := L.blk 3 0 11

/-- The registered region control block of a panel at an address, as registered (19 R334). -/
def findRcb (s : State) (panel addr : Nat) : Option Rcb := s.rcbs.find? (fun (b : Rcb) => b.panel == panel && b.addr == addr)

def teamOf (s : State) (g : Nat) : Option Team := (s.gang g).team.bind s.team?

/-- The blocks from a registered block to its root (19 R334, R335). -/
def rcbPath (s : State) (panel : Nat) : Nat → Nat → List Rcb
  | 0, _ => []
  | n + 1, addr =>
    match findRcb s panel addr with
    | none => []
    | some b => b :: (if b.parent = 0 then [] else rcbPath s panel n b.parent)

/-- More blocks than a panel's tree is deep: every registered one. -/
def rcbFuel (s : State) : Nat := s.rcbs.length

/-- Field `i` of a path's leaf: that of the first block that overrides it (19 R335). -/
def effField (path : List Rcb) (i : Nat) (f : Rcb → Nat) : Nat :=
  match path.find? (fun (b : Rcb) => bit b.ovr i) with
  | some b => f b
  | none => 0

/-- A block with its effective values (19 R335). The tile limits are not inherited: each counts at the block that overrides it. -/
def effRcb (s : State) (b : Rcb) : Rcb :=
  let p := rcbPath s b.panel (rcbFuel s) b.addr
  { b with quantum := effField p 0 (·.quantum), prio := effField p 1 (·.prio), fdom := effField p 2 (·.fdom),
           refb := effField p 3 (·.refb), window := effField p 4 (·.window), cobnd := effField p 5 (·.cobnd),
           emax := effField p 8 (·.emax), meter := effField p 9 (·.meter) }

/-- A fault domain by number: virtual device and FDOM (23 R380); device 16 with FDOM 0 is the panel domain. -/
def domId (ctx fdom : Nat) : Nat := ctx * 256 + fdom

/-- The fault domain of a team (23 R380). -/
def teamDom (s : State) (T : Team) : Nat :=
  match s.launch? T.launch with
  | some L => domId (ctxId L.panel L.vd) T.eff.fdom
  | none => 0

/-- The fault domain of a gang; the service gang belongs to the panel domain (18 R318). -/
def gangDom (s : State) (g : Nat) : Nat :=
  match teamOf s g with
  | some T => teamDom s T
  | none => domId (sysCtx (panelCore s (coreOf g)).1) 0

/-! ## Special registers -/

/-- Bits of a special register (03 R75). -/
def specialBits (n : Nat) : Nat := if n = 12 then 64 else 32

/-- A special register as lane `l` of a slot reads it (03 R75, 01 R15). In the service gang, which has no team and no launch, %ngang, %tidx to %tidz and
%tdimx to %tdimz read 0, and %gang the number 0 that it is given (DESIGN CHOICE, log 59: the spec says nothing of them there). -/
def special (s : State) (r : SlotRef) (l n : Nat) : Nat :=
  let G := s.gang r.gang
  let core := coreOf r.gang
  let T := teamOf s r.gang
  let L := T.bind (fun T => s.launch? T.launch)
  let x := L.elim 1 Launch.dimx
  let y := L.elim 1 Launch.dimy
  let i := T.elim 0 (·.idx)
  match n with
  | 0 => l
  | 1 => G.num
  | 2 => T.elim 0 (·.ngang)
  | 3 => i % x
  | 4 => i / x % y
  | 5 => i / (x * y)
  | 6 => L.elim 0 Launch.dimx
  | 7 => L.elim 0 Launch.dimy
  | 8 => L.elim 0 Launch.dimz
  | 9 => (panelCore s core).2
  | 10 => (panelCore s core).2 / 2
  | 11 => core / 2 / 48
  | 12 => (s.core core).clock.toNat
  | 13 => b2n r.b
  | 14 => (G.lane l).fpsr.toNat
  | _ => 0

end Machine
end Sys2Proof
end

