-- ==== Sys2Proof/Machine/Flags.lean ====
section
/-! DEFINITION. Flag computations: carries and borrows (08 R173), integer conditions (08 R176), the flags of a word in %fpsr (03 R76) and the
reduction-flag words of fault domains (10 R228). -/

set_option Elab.async false

namespace Sys2Proof
namespace Machine

/-- The sum and the unsigned carry of `w`-bit patterns (08 R173). -/
def addCarry (w a b : Nat) (c : Bool) : Nat × Bool :=
  let u := a + b + b2n c
  (u % 2 ^ w, 2 ^ w ≤ u)

/-- The difference and the unsigned borrow of `w`-bit patterns (08 R173). -/
def subBorrow (w a b : Nat) (c : Bool) : Nat × Bool :=
  let u : Int := (a : Int) - b - b2n c
  (pat u w, u < 0)

/-- An integer condition (08 R176). -/
def cndHolds (c : Cnd) (a b : Int) : Bool :=
  match c with
  | .eq => a == b
  | .ne => a != b
  | .lt => a < b
  | .le => a ≤ b
  | .gt => b < a
  | .ge => b ≤ a

/-- Bits of a reduction-flag word (10 R228). -/
def rflagMask : Word32 := 0x1D

/-- Flags raised in a fault domain's reduction-flag word. -/
def raiseRflag (s : State) (dom fl : Nat) : State :=
  let f := BitVec.ofNat 32 fl &&& rflagMask
  if f = 0 then s else { s with rflags := tabSet s.rflags dom (tabGet 0 s.rflags dom ||| f) }

end Machine
end Sys2Proof
end

