-- ==== Sys2Proof/Machine/L1.lean ====
section
/-! DEFINITION. A core's caches and what stands behind them: the L1 with its dirty bytes and the homes' records of local owners (06 R132, 10 R217, R218,
R220), reductions on their way to their places (10 R224 to R228), the constant cache (06 R133), latencies (27 R422), links and readiness (27 R415 to
R421), the scratchpad (06 R128). -/

set_option Elab.async false

namespace Sys2Proof
namespace Machine

/-! ## The L1 -/

/-- The key lies in memory that the core's L1 may hold: spaces 1 (remote vaults), 2, 3 and 4 (06 R132). A vault's physical
addresses begin at 2^28 times its twin (log 3). -/
def cacheable (core key : Nat) : Bool :=
  let r := keyRegion key
  r == 2 || r == 3 || r == 4 || (r == 1 && keyAddr key / 2 ^ 28 != core / 2)

def findLine (c : Core) (line : Nat) : Option L1Line := c.l1.find? (·.line == line)

def L1Line.byte (l : L1Line) (i : Nat) : Byte := l.data.extractLsb' (8 * i) 8

def L1Line.put (l : L1Line) (i : Nat) (b : Byte) (dirty : Bool) : L1Line :=
  let m := (BitVec.ofNat 1024 0xFF) <<< (8 * i)
  { l with data := (l.data &&& ~~~m) ||| ((BitVec.ofNat 1024 b.toNat) <<< (8 * i)), bad := l.bad &&& ~~~(1#128 <<< i),
           valid := l.valid ||| (1#128 <<< i), dirty := if dirty then l.dirty ||| (1#128 <<< i) else l.dirty }

/-- A core's lines with one replaced or added. -/
def setLine (c : Core) (l : L1Line) : Core :=
  { c with l1 := if (findLine c l.line).isSome then c.l1.map (fun o => if o.line = l.line then l else o) else c.l1 ++ [l] }

def dropLine (c : Core) (line : Nat) : Core := { c with l1 := c.l1.filter (·.line != line) }

/-- A line serves its byte `i` to a load: a dirty byte always, a clean one while the line is held whole, so that the parts of one access are
never of different ages (10 R217, 14 R294). -/
def L1Line.serves (l : L1Line) (i : Nat) : Bool := l.dirty.getLsbD i || l.valid == BitVec.allOnes 128

/-- A core's L1 serves a byte. -/
def inL1 (s : State) (core key : Nat) : Bool :=
  cacheable core key && (findLine (s.core core) (lineOf key)).any (fun l => l.serves (key % 128))

/-- A byte is dirty in a core's L1. -/
def dirtyIn (s : State) (core key : Nat) : Bool :=
  cacheable core key && (findLine (s.core core) (lineOf key)).any (fun l => l.dirty.getLsbD (key % 128))

/-- A byte that a core's L1 holds is poisoned there (27 R418). -/
def badIn (s : State) (core key : Nat) : Bool :=
  cacheable core key && (findLine (s.core core) (lineOf key)).any (fun l => l.bad.getLsbD (key % 128))

/-- A byte that a core reads at its place, its own dirty bytes apart, is poisoned (27 R419). -/
def placePoisoned (s : State) (core key : Nat) : Bool :=
  (!s.poison.isEmpty && s.poisoned key && !dirtyIn s core key) || (dirtyIn s core key && badIn s core key)

/-- Nothing that a core may read is poisoned, at its place or in its L1. -/
def unspoilt (s : State) (core : Nat) : Bool := s.poison.isEmpty && (s.core core).l1.all (·.bad == 0)

/-- A byte that a core loads is poisoned, at its place or in what its L1 serves (27 R418, R419). -/
def readPoisoned (s : State) (core key : Nat) : Bool :=
  (!s.poison.isEmpty && s.poisoned key && !inL1 s core key) || (inL1 s core key && badIn s core key)

/-- The byte that a core sees at a key: its own L1 copy, or the place's (10 R217). -/
def coreByte (s : State) (core key : Nat) : Byte :=
  if cacheable core key then
    match findLine (s.core core) (lineOf key) with
    | some l => if l.serves (key % 128) then l.byte (key % 128) else s.mem.read key
    | none => s.mem.read key
  else s.mem.read key

/-- The byte that a core sees of its own dirty bytes, and otherwise the place's: the view of an access that uses no clean copy (10
R209, R217). -/
def dirtyByte (s : State) (core key : Nat) : Byte :=
  if cacheable core key then
    match findLine (s.core core) (lineOf key) with
    | some l => if l.dirty.getLsbD (key % 128) then l.byte (key % 128) else s.mem.read key
    | none => s.mem.read key
  else s.mem.read key

/-- A line that holds nothing. -/
def L1Line.empty (line : Nat) : L1Line := { line, valid := 0, dirty := 0, data := 0, bad := 0, who := [] }

/-- A line with every byte that is not dirty taken from its place, at one moment (14 R294); poisoned bytes are not held (27 R419). -/
def L1Line.fill (s : State) (l : L1Line) : L1Line :=
  (List.range 128).foldl (fun (l : L1Line) i =>
    if l.dirty.getLsbD i || s.poisoned (l.line * 128 + i) then l else l.put i (s.mem.read (l.line * 128 + i)) false) { l with valid := l.dirty }

/-- The clean bytes of a core's line invalidated: an access of the core has read its place (14 R293). -/
def dropClean (s : State) (core line : Nat) : State :=
  let c := s.core core
  match findLine c line with
  | none => s
  | some l =>
    if l.dirty = 0 then s.setCore core (dropLine c line) else s.setCore core (setLine c { l with valid := l.dirty, bad := l.bad &&& l.dirty })

/-- A store to a byte at its place; a clean copy in the core's own L1 follows it. A store of part of a byte changes only its
bits, and the core gives up its clean bytes of the line, which may be older than the byte's other bits (14 R294). -/
def placeStore (s : State) (core key : Nat) (mask val : Byte) : State :=
  let b := mergeByte (s.mem.read key) mask val
  let s := s.put key mask val
  if mask ≠ 0xFF then (if cacheable core key then dropClean s core (lineOf key) else s)
  else if cacheable core key then
    let c := s.core core
    match findLine c (lineOf key) with
    | some l =>
      if l.valid.getLsbD (key % 128) && !l.dirty.getLsbD (key % 128) then s.setCore core (setLine c (l.put (key % 128) b false)) else s
    | none => s
  else s

/-! ## Links and readiness (27 R415 to R417, R421) -/

/-- The peer of a space-3 address (27 R415). -/
def peerOf (addr : Nat) : Nat := addr / 2 ^ 44

/-- The channel groups that a panel holds, in ascending order (23 R377). -/
def panelGroups (d : List Word64) : List Nat := (List.range 12).filter (bit (fld (descWord d 0) 40 12))

/-- The channel group of a line of device memory: lines are interleaved over the groups of its panel alone (23 R377); in which order is a free
value (log 62). -/
def groupOf (s : State) (key : Nat) : Nat :=
  let gs := panelGroups (s.panel (keyAddr key / 2 ^ 52))
  (gs[Config.channelOf (lineOf key) % gs.length]?).getD 0

def State.link (s : State) (n : Nat) : Link := tabGet { up := false, seq := 0, lost := [] } s.links n

/-- A panel's weight on a Purl link (23 R376). -/
def linkWeight (d : List Word64) (link : Nat) : Nat := fld (descWord d 3) (5 * link) 5

/-- The link of a flow: the one that the fixed hash of core and peer chooses from the peer's route set, of the links on which the core's panel has
a weight (27 R416, 23 R378); while that one is down, the next of them that is up (27 R417; which one is a DESIGN CHOICE, log 17). -/
def flowLink (s : State) (core peer : Nat) : Option Nat :=
  let d := s.panel (panelCore s core).1
  let set := (List.range 12).filter (fun i => bit (tabGet 0 s.routes peer) i && linkWeight d i != 0)
  let h := Config.flowHash core peer % set.length
  (set.drop h ++ set.take h).find? (fun i => (s.link i).up)

/-- The vault layers of a physical twin are ready. Which layer holds an address is not said, and an access waits for all four (DESIGN CHOICE, log
58). -/
def vaultReady (s : State) (twin : Nat) : Bool := (List.range 4).all (fun i => s.ready.vlayers.getLsbD (4 * twin + i))

/-- The flows of a core are fenced until each team of it whose request a link that went down has lost is ended (27 R417). -/
def fenced (s : State) (core : Nat) : Bool :=
  s.links.any (fun e => e.2.lost.any (fun t => (s.team? t).any (fun (T : Team) => T.core == core && T.ended.isNone)))

/-- The functions that an access to a place needs are ready (27 R421): a vault's layers; a line's home bank and channel group; a link of the route
set; the CXL link. -/
def placeReady (s : State) (core key : Nat) : Bool :=
  match keyRegion key with
  | 1 => vaultReady s (keyAddr key / 2 ^ 28)
  | 2 => vaultReady s (homeTwin s key) && s.ready.lpg.getLsbD (groupOf s key)
  | 3 => (flowLink s core (peerOf (keyAddr key))).isSome && !fenced s core
  | 4 => s.ready.cxl
  | _ => true

/-- The functions that a translation needs are ready: those of the table entries that it reads (27 R421). -/
def walkReady (s : State) (core ctx va : Nat) (a : Acc) : Bool :=
  (tlbServes s core ctx va a).isSome || (walkKeys s (dieOf core) ctx va).all (placeReady s core)

/-- The functions that an access of a core to the `n` bytes at an address needs, all of one page, are ready, its translation's among them (27
R421). -/
def vaReady (s : State) (core ctx va n : Nat) (a : Acc) : Bool :=
  walkReady s core ctx va a &&
  match (translate s core ctx va a false none).2 with
  | .ok _ k => (List.range (n / 128 + 1)).all (fun i => placeReady s core (k + min (128 * i) (n - 1)))
  | .fault _ => true

/-- The peer that holds an address does not admit the access (27 R417). -/
def peerRefuses (s : State) (key : Nat) : Bool :=
  keyRegion key == 3 && s.refused.any (fun w => w.1 ≤ keyAddr key && keyAddr key < w.2)

/-- A key that an access of a slot reaches. One that a peer's window refuses is not accessed, and the access ends who answers for it, with the
address as its detail (27 R417); a word that needs a function which is not ready is to wait (27 R421). -/
def reached (s : State) (r : SlotRef) (key : Nat) : State × Option Nat :=
  if peerRefuses s key then (storageError s (s.owner r.gang) (keyAddr key), none)
  else if (s.slot r).wait = .none ∧ !placeReady s (coreOf r.gang) key then (s.setWait r .unready, some key)
  else (s, some key)

/-! ## Reductions in flight -/

/-- The result of an atomic operation on a `w`-bit element (10 R224): the new value and, for .f32, its flags. -/
def atomOp (aop : Aop) (t : Ty) (m x cmp : Nat) : FRes :=
  let w := t.bits
  let lt := readInt t m < readInt t x
  match aop with
  | .add => { v := (m + x) % 2 ^ w, fl := 0 }
  | .min => { v := if lt then m else x, fl := 0 }
  | .max => { v := if lt then x else m, fl := 0 }
  | .and => { v := m &&& x, fl := 0 }
  | .or => { v := m ||| x, fl := 0 }
  | .xor => { v := m ^^^ x, fl := 0 }
  | .inc => { v := if x ≤ m then 0 else m + 1, fl := 0 }
  | .dec => { v := if m = 0 ∨ x < m then x else m - 1, fl := 0 }
  | .fadd | .fmin | .fmax => atomF aop m x
  | .exch => { v := x, fl := 0 }
  | .cas => { v := if m = cmp then x else m, fl := 0 }

/-- Reductions that may merge on their way to a home bank (10 R227). -/
def mergeable (aop : Aop) : Bool :=
  match aop with
  | .add | .min | .max | .and | .or | .xor | .fadd | .fmin | .fmax => true
  | .inc | .dec | .exch | .cas => false

/-- A contribution applied to its element at its place (10 R224 to R228); clean copies in the contributing cores' own L1 follow
(10 R206). -/
def applyAtPlace (s : State) (cores : List Nat) (key : Nat) (aop : Aop) (t : Ty) (x dom : Nat) : State :=
  let n := t.bits / 8
  let f := atomOp aop t (s.mem.readN key n) x 0
  let s := raiseRflag s dom f.fl
  let bs := mapFrom (fun i b => (i, b)) 0 (natBytes n f.v)
  let s := bs.foldl (fun s e => s.put (key + e.1) 0xFF e.2) s
  cores.foldl (fun s c => bs.foldl (fun s e => placeStore s c (key + e.1) 0xFF e.2) s) s

/-- Messages that a team's launch has sent, counted for a launch with grid barriers (13 R291). -/
def countSent (s : State) (team : Option Nat) (n : Nat) : State :=
  match team.bind s.team? with
  | some T => s.updLaunch T.launch (fun L => if L.grid then { L with sent := L.sent + n } else L)
  | none => s

/-- Messages of a team's launch received at their places (13 R291). -/
def countRecv (s : State) (team : Option Nat) (n : Nat) : State :=
  match team.bind s.team? with
  | some T => s.updLaunch T.launch (fun L => if L.grid then { L with recv := L.recv + n } else L)
  | none => s

/-- Who answers for a contribution. -/
def Redn.owner (d : Redn) : Option Nat := match d.team with
  | some t => some t
  | none => some (ownerBase + d.gang)

/-- Two contributions travel to a peer in one flow (27 R416). -/
def sameFlow (core key : Nat) (d : Redn) : Bool :=
  keyRegion key == 3 && keyRegion d.key == 3 && d.core == core && peerOf (keyAddr d.key) == peerOf (keyAddr key)

/-- A single contribution applied; one that would read poison is lost, and its team is ended. What follows it in its flow is not performed (27
R420). -/
def applyRed (s : State) (d : Redn) : State :=
  let s := countRecv { s with reds := s.reds.filter (fun e => e.id != d.id) } d.team 1
  if keyRegion d.key = 3 ∧ doomed s d.owner then s
  else if s.poisonedIn d.key (d.ty.bits / 8) then consumed s d.owner d.key
  else applyAtPlace (accrue s d.meter (spaceMeter d.key) (d.ty.bits / 8)) [d.core] d.key d.aop d.ty d.x d.dom

/-- A contribution to a byte. -/
def Redn.at (d : Redn) (key : Nat) : Bool := d.key ≤ key && key < d.key + d.ty.bits / 8

/-- The link on which a request to a place travels, where it leads to a peer (27 R416). -/
def linkOf (s : State) (core key : Nat) : Option Nat := if keyRegion key = 3 then flowLink s core (peerOf (keyAddr key)) else none

/-- The context through which a lane of a gang translates, by the slot that holds the lane (20 R350). -/
def laneCtx (s : State) (g l : Nat) : Nat := (gangCtx s { gang := g, b := Mask.has (s.gang g).b.mask l }).1

/-- Two contributions that are performed in the order in which they were made: those of a lane that meet in a byte (10 R206), and those of a flow (27
R416). -/
def mustFollow (a b : Redn) : Bool :=
  (a.gang == b.gang && a.lane == b.lane && (a.at b.key || b.at a.key)) || sameFlow b.core b.key a

/-- The contributions that satisfy `p`, and those that go before one of them. -/
def withLeaders (p : Redn → Bool) : List Redn → List Redn
  | [] => []
  | d :: t =>
    let u := withLeaders p t
    if p d || u.any (mustFollow d) then d :: u else u

/-- The contributions that satisfy `p` are performed, with those that go before them, in the order in which they were made. -/
def flushReds (s : State) (p : Redn → Bool) : State := (withLeaders p s.reds).foldl applyRed s

/-- The lane's own contributions to bytes that it accesses are performed first (10 R206), and those that go before the access in its flow to a peer
(27 R416). -/
def flushLane (s : State) (g l : Nat) (keys : List (Option Nat)) : State :=
  if s.reds.isEmpty then s
  else flushReds s (fun d => keys.any (fun k => match k with
    | some k => d.gang == g && d.lane == l && d.at k || sameFlow (coreOf g) k d
    | none => false))

/-! ## Write-back -/

/-- A line's dirty bytes can be sent to a peer: a link carries the flow (27 R417, R421). -/
def lineSent (s : State) (core : Nat) (l : L1Line) : Bool := keyRegion (l.line * 128) != 3 || placeReady s core (l.line * 128)

/-- Every dirty line of a core can be sent; a release that would write one back waits until it can (27 R421). -/
def linesSent (s : State) (core : Nat) : Bool := (s.core core).l1.all (fun l => l.dirty == 0 || lineSent s core l)

/-- The contributions that go before a line's dirty bytes in their flow to a peer are performed (27 R416). -/
def flushFlow (s : State) (core key : Nat) : State :=
  if keyRegion key = 3 ∧ !s.reds.isEmpty then flushReds s (sameFlow core key) else s

/-- A line's dirty bytes written back to their place (10 R217). A byte whose poison they do not wholly overwrite is lost, and one that is poisoned in
the L1 is not delivered but poisons its place; the teams that stored to the line are then ended (27 R419, R420). Nothing of them is performed at a
peer once one of these teams has lost what went before it in its flow (27 R420). -/
def writeBack (s : State) (core : Nat) (l : L1Line) : State :=
  let s := flushFlow s core (l.line * 128)
  if keyRegion (l.line * 128) = 3 ∧ l.who.any (fun t => doomed s (some t)) then s
  else
  let ds := (List.range 128).filter (fun i => l.dirty.getLsbD i)
  let cover := ds.map (fun i => l.line * 128 + i)
  let lost := cover.filter (s.loses cover)
  let bad := ds.filter (fun i => l.bad.getLsbD i)
  let s' := (ds.filter (fun i => !l.bad.getLsbD i && !lost.contains (l.line * 128 + i))).foldl (fun s i => s.put (l.line * 128 + i) 0xFF (l.byte i)) s
  let s' := if bad.isEmpty then s' else { s' with poison := s'.poison ++ (bad.map (l.line * 128 + ·)).filter (fun k => !s'.poison.contains k) }
  if lost.isEmpty && bad.isEmpty then s' else l.who.foldl (fun s t => consumed s (some t) (l.line * 128)) s'

/-- The home of a line of spaces 1 and 2 records a core as its local owner (10 R217); the host gives up its copy first (27 R413). -/
def addOwner (s : State) (core key : Nat) : State :=
  let s := { s with hostLines := s.hostLines.filter (· != lineOf key) }
  if (keyRegion key = 1 ∨ keyRegion key = 2) ∧ !s.owners.contains (lineOf key, core) then { s with owners := s.owners ++ [(lineOf key, core)] } else s

/-- A line's owner record dropped (10 R218). -/
def dropOwner (s : State) (core line : Nat) : State := { s with owners := s.owners.filter (fun o => !(o.1 == line && o.2 == core)) }

/-- A line that has been written back. One held whole serves loads further; of another no byte is kept (10 R217, 14 R294). -/
def L1Line.cleaned (l : L1Line) : L1Line :=
  { l with valid := if l.valid = BitVec.allOnes 128 ∧ l.bad = 0 then l.valid else 0, dirty := 0, bad := 0, who := [] }

/-- A line cleaned: its dirty bytes written back, the line kept (10 R222). The home's record stands while a team-scope release
since the last promotion does (10 R218). -/
def cleanLine (s : State) (core line : Nat) : State :=
  let c := s.core core
  match findLine c line with
  | none => s
  | some l =>
    if l.dirty = 0 ∨ !lineSent s core l then s
    else
      let s := flushFlow s core (line * 128)
      let l := (findLine (s.core core) line).getD l
      let s := writeBack s core l
      let s := s.setCore core (setLine (s.core core) l.cleaned)
      if c.teamRel then s else dropOwner s core line

/-- A line evicted: written back and no longer held (10 R217). -/
def evictLine (s : State) (core line : Nat) : State :=
  let s := cleanLine s core line
  if (findLine (s.core core) line).any (fun l => l.dirty != 0) then s else s.setCore core (dropLine (s.core core) line)

/-- A promotion: every dirty line written back, every record of the core cleared (10 R218). -/
def promote (s : State) (core : Nat) : State :=
  let c := s.core core
  let sent (l : L1Line) : Bool := l.dirty != 0 && lineSent s core l
  let s' := (c.l1.filter sent).foldl (writeBack · core ·) s
  let s' := { s' with owners := s'.owners.filter (fun o => o.2 != core) }
  s'.setCore core { s'.core core with l1 := (s'.core core).l1.map (fun l => if sent l then l.cleaned else l), teamRel := false }

/-- The acquire action of a core: clean lines and clean bytes are invalidated (10 R217). -/
def acquireAction (s : State) (core : Nat) : State :=
  let c := s.core core
  s.setCore core { c with l1 := (c.l1.filter (fun l => l.dirty != 0)).map (fun l => { l with valid := l.dirty, bad := l.bad &&& l.dirty }) }

/-- Scopes whose agents do not all share the core's L1 (10 R217). -/
def scopeWide : Scope → Bool
  | .g | .t => false
  | .c | .d | .y => true

/-- Lines that an L1 and a constant cache hold (06 R132, R133). -/
def l1Lines : Nat := 2048
def ccLines : Nat := 512

/-- A cache's lines, the next to be replaced first, with one that an access has used: it is the most recently used; one that .stream brings in is the
next to be replaced, after those for which there is no room (06 R132; that a cache replaces among all its lines is a DESIGN CHOICE, log 8). -/
def useLine (n : Nat) (ls : List L1Line) (l : L1Line) (stream : Bool) : List L1Line :=
  if stream then
    if ls.any (·.line == l.line) then ls.map (fun o => if o.line = l.line then l else o)
    else ls.take (ls.length + 1 - n) ++ l :: ls.drop (ls.length + 1 - n)
  else ls.filter (·.line != l.line) ++ [l]

/-- The line of a key brought into the L1 (06 R132), and used by an access under a policy; a line held whole keeps its bytes. -/
def fillLine (s : State) (core key pol : Nat) : State :=
  let c := s.core core
  let old := (findLine c (lineOf key)).getD (L1Line.empty (lineOf key))
  if old.valid = BitVec.allOnes 128 then s.setCore core { c with l1 := useLine l1Lines c.l1 old (pol == 1) }
  else (useHome s key).setCore core { c with l1 := useLine l1Lines c.l1 (old.fill s) (pol == 1) }

/-- The lines for which there is no room in a core's caches replaced (06 R132, R133). -/
def trimCaches (s : State) (core : Nat) : State :=
  let c := s.core core
  if c.l1.length ≤ l1Lines ∧ c.cc.length ≤ ccLines then s
  else
    let s := (c.l1.take (c.l1.length - l1Lines)).foldl (fun s l => evictLine s core l.line) s
    s.setCore core { s.core core with cc := c.cc.drop (c.cc.length - ccLines) }

/-! ## The constant cache -/

/-- A line of a core's constant cache. -/
def findCc (c : Core) (line : Nat) : Option L1Line := c.cc.find? (·.line == line)

/-- A byte is held by a core's constant cache. -/
def inCc (s : State) (core key : Nat) : Bool := (findCc (s.core core) (lineOf key)).any (fun l => l.valid.getLsbD (key % 128))

/-- The line of a key brought into the constant cache (06 R133, 10 R222). -/
def fillCc (s : State) (core key : Nat) : State :=
  let c := s.core core
  match findCc c (lineOf key) with
  | some l => s.setCore core { c with cc := useLine ccLines c.cc l false }
  | none => (useHome s key).setCore core { c with cc := c.cc ++ [(L1Line.empty (lineOf key)).fill s] }

/-- A load of a byte of constant memory: through the constant cache (06 R133). A word written while a launch that reads it is resident reads
here as it was when its line was brought in (DESIGN CHOICE, log 61: 06 R133 leaves open which of the old and the new value it reads as). -/
def constLoad (s : State) (core key : Nat) : State × Byte :=
  let s := fillCc s core key
  (s, match findCc (s.core core) (lineOf key) with
    | some l => if l.valid.getLsbD (key % 128) then l.byte (key % 128) else s.mem.read key
    | none => s.mem.read key)

/-- A byte of constant memory that a core reads is poisoned (27 R419). -/
def constPoisoned (s : State) (core key : Nat) : Bool := !s.poison.isEmpty && s.poisoned key && !inCc s core key

/-- Whether a policy allocates; code 2 is bypass (06 R132). -/
def allocates (pol : Nat) : Bool := pol != 2

/-- A load of `n` bytes by a core under a policy (06 R132, 10 R217). Bypass writes the line back and invalidates it first. -/
def coreLoad (s : State) (core key n pol : Nat) : State × List Byte :=
  if cacheable core key then
    let s := if allocates pol then fillLine (fillLine s core key pol) core (key + (n - 1)) pol
      else useHome (useHome (evictLine (evictLine s core (lineOf key)) core (lineOf (key + (n - 1)))) key) (key + (n - 1))
    (s, (List.range n).map (fun i => coreByte s core (key + i)))
  else (s, s.mem.readBytes key n)

/-- A plain store of a byte by a core under a policy (10 R217): an allocating store leaves the byte dirty and the home records the
owner; a bypassing one writes the line back, drops it, and goes to the place. A store of part of a byte merges into a dirty byte,
and otherwise at the place (14 R294). -/
def coreStore (s : State) (core : Nat) (team : Option Nat) (key : Nat) (mask val : Byte) (pol : Nat) : State :=
  if !cacheable core key then placeStore s core key mask val
  else if !allocates pol then placeStore (evictLine s core (lineOf key)) core key mask val
  else
    let c := s.core core
    let line := lineOf key
    let l := (findLine c line).getD (L1Line.empty line)
    let l := if l.valid = BitVec.allOnes 128 then l else { l with valid := l.dirty, bad := l.bad &&& l.dirty }
    let i := key % 128
    if mask = 0xFF ∨ l.dirty.getLsbD i then
      let b := mergeByte (l.byte i) mask val
      let bad := l.bad.getLsbD i && mask != 0xFF
      let l := { l with who := l.who ++ team.toList.filter (fun t => !l.who.contains t) }.put i b true
      let l := if bad then { l with bad := l.bad ||| (1#128 <<< i) } else l
      addOwner (s.setCore core { c with l1 := useLine l1Lines c.l1 l (pol == 1) }) core key
    else placeStore s core key mask val

/-- A plain store goes past the L1 to its place. -/
def pastL1 (s : State) (core key : Nat) (mask : Byte) (pol : Nat) : Bool :=
  !cacheable core key || !allocates pol ||
  (mask != 0xFF && !(match findLine (s.core core) (lineOf key) with
    | some l => l.dirty.getLsbD (key % 128)
    | none => false))

/-- A store that goes through to its place and leaves nothing dirty: a dirty byte of the core's own is replaced too (10 R217). -/
def throughStore (s : State) (core key : Nat) (mask val : Byte) : State :=
  if cacheable core key then placeStore (cleanLine s core (lineOf key)) core key mask val
  else placeStore s core key mask val

/-- Bytes written through to their place by the core itself (18 R319). -/
def throughBytes (s : State) (core key : Nat) (bs : List Byte) : State :=
  (mapFrom (fun i b => (i, b)) 0 bs).foldl (fun s e => throughStore s core (key + e.1) 0xFF e.2) s

/-! ## Latency (27 R422) -/

/-- Row and column of a physical twin (27 R422). -/
def twinRow (t : Nat) : Nat := t % 48 / 8
def twinCol (t : Nat) : Nat := t % 8 + 8 * (t / 48)

/-- Dies crossed between two twins, and their distance (27 R422). -/
def dieStep (a b : Nat) : Nat := if a / 48 = b / 48 then 0 else 1
def hops (a b : Nat) : Nat := (twinRow a - twinRow b) + (twinRow b - twinRow a) + (twinCol a - twinCol b) + (twinCol b - twinCol a)

/-- Cycles from a twin to a vault (27 R422). -/
def vaultCycles (a b : Nat) : Nat := if a = b then 36 else 36 + 6 * (hops a b - dieStep a b) + 140 * dieStep a b

/-- The sweep time T_s of a core: over the twins of its panel and back (27 R422). -/
def sweepCycles (s : State) (core : Nat) : Nat :=
  let d := s.panel (panelCore s core).1
  let ts := (List.range (nTwinOf d)).filterMap (physTwin d)
  let h := (ts.map (hops (core / 2))).foldl max 0
  let x := (ts.map (dieStep (core / 2))).foldl max 0
  2 * (36 + 6 * (h - x) + 140 * x)

/-- The twin at which the port of a Purl link lies (27 R422). -/
def portTwin (j : Nat) : Nat := if j < 6 then 8 * j else 55 + 8 * (j - 6)

/-- The term of the peer that holds an address of space 3, from the port that receives the request (27 R422): a vault of the peer where bit 43 is set
(log 38), and its device memory otherwise. -/
def peerTerm (s : State) (core addr : Nat) : Nat :=
  let port := portTwin (Config.peerPort (peerOf addr) ((flowLink s core (peerOf addr)).getD 0) % 12)
  if bit addr 43 then vaultCycles port (fld addr 0 43 / 2 ^ 28 % 96)
  else vaultCycles port (Config.peerBank addr % 96) + (if Config.peerHit addr s.now then 0 else Config.peerTl addr)

/-- Cycles from a core to a line of device memory (27 R422): an access hits where the home cache holds the line (06 R424). -/
def deviceCycles (s : State) (core key : Nat) : Nat :=
  vaultCycles (core / 2) (homeTwin s key) + (if homeHolds s key then 0 else tabGet Config.nominalTl s.train (groupOf s key))

/-- Cycles from a core to a place beyond its caches (27 R422). -/
def placeCycles (s : State) (core key : Nat) : Nat :=
  match keyRegion key with
  | 0 => 18
  | 1 => vaultCycles (core / 2) (keyAddr key / 2 ^ 28)
  | 2 => deviceCycles s core key
  | 3 => 2 * 480 + peerTerm s core (keyAddr key)
  | 4 => 2 * 360 + Config.hostTerm (keyAddr key)
  | _ => 0

/-- Cycles of a load by a core through its caches (27 R422). -/
def loadCycles (s : State) (core space pol key : Nat) : Nat :=
  if space = 5 then (if inCc s core key then 24 else deviceCycles s core key)
  else if allocates pol && inL1 s core key then 24
  else placeCycles s core key

/-! ## The scratchpad -/

/-- The window of a scratchpad allocation of `a` bytes (06 R128). -/
def spadWindow (a : Nat) : Nat := (List.range 20).foldl (fun w _ => if w < a then 2 * w else w) 8192

/-- The key of team offset `o`, where its byte is in the allocation (06 R128). -/
def spadByteKey (core base a o : Nat) : Option Nat :=
  let w := o % spadWindow a
  if w < a then some (spadKey core (base + w)) else none

/-- Scratchpad allocation of a gang: core, first byte and size (06 R128, 18 R326). Whole granules are allocated (19 R342). -/
def gangSpad (s : State) (g : Nat) : Nat × Nat × Nat :=
  match (s.gang g).team.bind s.team? with
  | some T => (coreOf g, T.spadBase * 8192, T.scratch)
  | none => (coreOf g, 0, 0)

/-- The key of a gang's scratchpad offset. -/
def gangSpadKey (s : State) (g o : Nat) : Option Nat :=
  let a := gangSpad s g
  spadByteKey a.1 a.2.1 a.2.2 o

/-- The byte at a gang's scratchpad offset; zero beyond the allocation (06 R128). -/
def spadRead (s : State) (g o : Nat) : Byte := ((gangSpadKey s g o).map s.mem.read).getD 0

/-- A byte written at a gang's scratchpad offset; dropped beyond the allocation (06 R128). -/
def spadWrite (s : State) (g o : Nat) (mask val : Byte) : State :=
  match gangSpadKey s g o with
  | some k => s.put k mask val
  | none => s

/-! ## Access by system address, for frames, images and records of the device -/

/-- Bytes read at an address of a context, as the core sees them, page by page; `inl` gives the cause and the address. -/
def readVa (s : State) (core ctx va n : Nat) : State × ((Nat × Nat) ⊕ List Byte) :=
  (List.range n).foldl (fun (acc : State × ((Nat × Nat) ⊕ List Byte)) i =>
    match acc.2 with
    | .inl e => (acc.1, .inl e)
    | .inr bs =>
      match translate acc.1 core ctx ((va + i) % 2 ^ 56) .read false none with
      | (s, .ok _ k) => (if inL1 s core k then s else useHome s k, .inr (bs ++ [coreByte s core k]))
      | (s, .fault c) => (s, .inl (c, (va + i) % 2 ^ 56))) (s, .inr [])

/-- Bytes written through at an address of a context; `inl` gives the cause and the address of a fault, before which the earlier
bytes have been written. -/
def writeVa (s : State) (core ctx va : Nat) (bs : List Byte) : State × Option (Nat × Nat) :=
  (mapFrom (fun i b => (i, b)) 0 bs).foldl (fun (acc : State × Option (Nat × Nat)) e =>
    match acc.2 with
    | some f => (acc.1, some f)
    | none =>
      match translate acc.1 core ctx ((va + e.1) % 2 ^ 56) .write false none with
      | (s, .ok _ k) => (throughStore s core k 0xFF e.2, none)
      | (s, .fault c) => (s, some (c, (va + e.1) % 2 ^ 56))) (s, none)

/-- The bytes of a read, or nothing on a fault. -/
def readVa? (s : State) (core ctx va n : Nat) : Option (List Byte) :=
  match (readVa s core ctx va n).2 with
  | .inr bs => some bs
  | .inl _ => none

end Machine
end Sys2Proof
end

