-- ==== Sys2Proof/Machine/MemOps.lean ====
section
/-! DEFINITION. What the memory words share: buffer records (06 R134 to R139), locating elements (06 R136, R137, 10 R215), deferred faults
(04 R95), loads and stores of elements with the forwarding and buffering of guarded traces (04 R85, R90), acquire and release (10
R216 to R221), atomics and reductions (10 R224 to R228). -/

set_option Elab.async false

namespace Sys2Proof
namespace Machine

/-! ## Buffer records -/

/-- Element formats of records (06 R135). -/
inductive EFmt
  | ty (t : Ty)
  | bt2
  deriving DecidableEq, Repr

def efmtOf : Nat → Option EFmt
  | 0x00 => some (.ty .n8) | 0x01 => some (.ty .i8) | 0x02 => some (.ty .n16) | 0x03 => some (.ty .i16)
  | 0x04 => some (.ty .n24) | 0x05 => some (.ty .i24) | 0x06 => some (.ty .n32) | 0x07 => some (.ty .i32)
  | 0x08 => some (.ty .n64) | 0x09 => some (.ty .i64) | 0x0A => some (.ty .n4) | 0x0B => some (.ty .i4)
  | 0x0C => some .bt2
  | 0x10 => some (.ty .f16) | 0x11 => some (.ty .bf16) | 0x12 => some (.ty .f32) | 0x13 => some (.ty .f64)
  | 0x14 => some (.ty .e4m3) | 0x15 => some (.ty .e5m2) | 0x16 => some (.ty .e8m0)
  | _ => none

def EFmt.bits : EFmt → Nat
  | .ty t => t.bits
  | .bt2 => 2

def EFmt.packed (f : EFmt) : Bool := f.bits < 8

/-- Alignment in bytes: the size; 1 for 3-byte and packed formats (06 R135). -/
def EFmt.align (f : EFmt) : Nat := if f.packed || f.bits == 24 then 1 else f.bits / 8

/-- The fields of a buffer record (06 R134), of the record as a number. -/
def recVersion (w : Nat) : Nat := fld w 248 8
def recPolicy (w : Nat) : Nat := fld w 202 2
def recBounds (w : Nat) : Nat := fld w 200 2
def recFmt (w : Nat) : Nat := fld w 192 8
def recStride1 (w : Nat) : Nat := fld w 160 32
def recStride0 (w : Nat) : Nat := fld w 128 32
def recExt1 (w : Nat) : Nat := fld w 96 32
def recExt0 (w : Nat) : Nat := fld w 64 32
def recSpace (w : Nat) : Nat := fld w 56 4
def recBase (w : Nat) : Nat := fld w 0 56

/-- The record passes the check at RECLD (06 R139). -/
def recordOk (w : Nat) : Bool :=
  fld w 204 44 == 0 && fld w 60 4 == 0 && recSpace w ≤ 5 && recPolicy w != 3 &&
  match efmtOf (recFmt w) with
  | none => false
  | some f =>
    recBase w % f.align == 0 && recStride0 w % f.align == 0 && recStride1 w % f.align == 0
    && (!f.packed || recStride0 w == 0) && (recSpace w != 0 || recBase w < 2 ^ 20)

/-- The fate of an index under the bounds mode (06 R137). -/
inductive Bound
  | fault
  | zero
  | index (e : Int)
  deriving DecidableEq, Repr

/-- 06 R137; with no elements, clamp and wrap act as zero. -/
def boundsMode (w : Nat) (e : Int) : Bound :=
  let n := recExt0 w * recExt1 w
  if 0 ≤ e ∧ e < n then .index e
  else
    match recBounds w with
    | 0 => .fault
    | 1 => if n = 0 then .zero else .index (if e < 0 then 0 else (n : Int) - 1)
    | 2 => .zero
    | _ => if n = 0 then .zero else .index (e % n)

/-- The bit address of element `e` (06 R136), modulo 2^59; with no extent the quotient is open (log 19). -/
def elemBit (w : Nat) (f : EFmt) (e : Int) : Nat :=
  let x := recExt0 w
  if x = 0 then 8 * (Config.noExtentAddr w e % 2 ^ 56)
  else
    let i0 := e % (x : Int)
    let i1 := e / (x : Int)
    if f.packed then pat (8 * recBase w + i0 * f.bits + 8 * i1 * recStride1 w) 59
    else 8 * pat (recBase w + i0 * recStride0 w + i1 * recStride1 w) 56

/-! ## Faults of a lane -/

/-- A deferred fault of a lane at the word that is issuing; only the first of a trace is kept (04 R95). -/
def Run.fault (R : Run) (l cause detail : Nat) : Run :=
  match tabFind R.faults l with
  | some _ => R
  | none => { R with faults := tabSet R.faults l { cause, off := R.pos + 1, detail } }

/-! ## Places of elements -/

/-- Where an element lies: its bytes' keys, those beyond a scratchpad allocation absent (06 R128), its first bit in the first byte, its
bits, and its space. -/
structure Place where
  keys : List (Option Nat)
  sh : Nat
  bits : Nat
  space : Nat
  deriving DecidableEq, Repr

/-- An element as an access finds it: faulting, out of bounds in zero mode, or at its place. -/
inductive Found1
  | bad (cause detail : Nat)
  | zero
  | at (p : Place)
  deriving DecidableEq, Repr

/-- The keys of `n` bytes of a space from an address, translated byte by byte for an access of a slot (06 R127, 20 R354). A word whose translation
needs a function which is not ready is to wait (27 R421). A write to constant memory takes a permission fault (log 20). A write that faults sets no dirty bit (20 R357). -/
def bytesAt (s : State) (r : SlotRef) (space va n : Nat) (acc : Acc) : State × ((Nat × Nat) ⊕ List (Option Nat)) :=
  if space = 0 then (s, .inr ((List.range n).map (fun i => gangSpadKey s r.gang (va + i))))
  else if space = 5 ∧ accWrites acc then (s, .inl (10, va % 2 ^ 56))
  else
    let cx := gangCtx s r
    (List.range n).foldl (fun (a : State × ((Nat × Nat) ⊕ List (Option Nat))) i =>
      match a.2 with
      | .inl f => (a.1, .inl f)
      | .inr ks =>
        let v := (va + i) % 2 ^ 56
        if (a.1.slot r).wait = .none ∧ !walkReady a.1 (coreOf r.gang) cx.1 v acc then (a.1.setWait r .unready, .inr (ks ++ [none]))
        else
        match translate a.1 (coreOf r.gang) cx.1 v acc cx.2 (some space) with
        | (s, .ok _ k) => let x := reached s r k; (x.1, .inr (ks ++ [x.2]))
        | (s', .fault c) => (if accWrites acc then s else s', .inl (c, v))) (s, .inr [])

/-- Element `e` through a record (06 R136, R137). -/
def locate (s : State) (r : SlotRef) (w : Nat) (f : EFmt) (e : Int) (acc : Acc) : State × Found1 :=
  let space := recSpace w
  match boundsMode w e with
  | .fault => (s, .bad 12 (if space = 0 then 0 else elemBit w f e / 8))
  | .zero => (s, .zero)
  | .index i =>
    let a := elemBit w f i
    match bytesAt s r space (a / 8) ((a % 8 + f.bits + 7) / 8) acc with
    | (s, .inl (c, d)) => (s, .bad c d)
    | (s, .inr ks) => (s, .at { keys := ks, sh := a % 8, bits := f.bits, space })

/-- Element of type `t` at byte `o` of a space, by the Barord forms (10 R215): misaligned beyond the scratchpad is a bounds fault. -/
def locateB (s : State) (r : SlotRef) (space o : Nat) (t : Ty) (acc : Acc) : State × Found1 :=
  let n := t.bits / 8
  if space ≠ 0 ∧ o % n ≠ 0 then (s, .bad 12 (o % 2 ^ 56))
  else
    match bytesAt s r space (if space = 0 then o else o % 2 ^ 56) n acc with
    | (s, .inl (c, d)) => (s, .bad c d)
    | (s, .inr ks) => (s, .at { keys := ks, sh := 0, bits := t.bits, space })

/-- All the elements of a lane, or the fault of the lowest (10 R212). -/
def locateAll (f : State → Nat → State × Found1) : Nat → State → Nat → State × ((Nat × Nat) ⊕ List Found1)
  | 0, s, _ => (s, .inr [])
  | n + 1, s, j =>
    match f s j with
    | (s, .bad c d) => (s, .inl (c, d))
    | (s, x) =>
      match locateAll f n s (j + 1) with
      | (s, .inr xs) => (s, .inr (x :: xs))
      | (s, .inl e) => (s, .inl e)

/-! ## Acquire and release -/

/-- A release action of lane `l` at a scope (10 R216, R217): its reductions in flight are performed, and a scope beyond the L1's promotes
the core. A release at .g counts as a team-scope release of 10 R218 (DEDUCED, log 63: 14 R300 has the recall observe releases at .g too). -/
def releaseAction (s : State) (g l : Nat) (sc : Scope) : State :=
  let s := flushReds s (fun d => d.gang == g && d.lane == l)
  if scopeWide sc then promote s (coreOf g)
  else
    match sc with
    | .t | .g => s.setCore (coreOf g) { s.core (coreOf g) with teamRel := true }
    | .c | .d | .y => s

/-- A word's release actions in the lanes of a mask, and that no write before them was lost: when one was, what they would make visible
does not appear (27 R420). -/
def releaseLanes (s : State) (g : Nat) (m : Mask) (sc : Scope) : State × Bool :=
  let s := (Mask.lanes m).foldl (fun s l => releaseAction s g l sc) s
  (s, !doomed s (s.owner g))

/-- A release of a mask's lanes at a scope would write back a line that cannot be sent, so its word waits until it can (27 R421). -/
def releaseHeld (s : State) (g : Nat) (m : Mask) (sc : Scope) : Bool := scopeWide sc && m != 0 && !linesSent s (coreOf g)

/-- An acquire action at a scope (10 R217). -/
def acquireScope (s : State) (core : Nat) (sc : Scope) : State := if scopeWide sc then acquireAction s core else s

/-! ## Buffered and performed operations -/

/-- A reduction performed by lane `l`: at once in the scratchpad, where bytes beyond the allocation read zero and are dropped (06 R128);
elsewhere the core gives up its own copy of the line and the contribution travels to its place (10 R223, R227). -/
def performRed (s : State) (g l : Nat) (keys : List (Option Nat)) (aop : Aop) (t : Ty) (x : Nat) (ordm : Bool) : State :=
  match keys with
  | some k :: _ =>
    if keyRegion k = 0 then
      if (keys.filterMap id).any (readPoisoned s (coreOf g)) then consumed s (s.owner g) k
      else
      let s := accrue s (meterOf s g) 3 (keys.filterMap id).length
      let m := bytesNat (keys.map (fun k => (k.map s.mem.read).getD 0))
      let f := atomOp aop t m x 0
      let s := raiseRflag s (gangDom s g) f.fl
      (mapFrom (fun i k => (i, k)) 0 keys).foldl (fun s e => match e.2 with
        | some k => s.put k 0xFF (BitVec.ofNat 8 (f.v / 2 ^ (8 * e.1)))
        | none => s) s
    else
      let s := countSent (evictLine s (coreOf g) (lineOf k)) (s.gang g).team 1
      { s with
        reds := s.reds ++ [{ id := s.nextCmd, core := coreOf g, gang := g, lane := l, team := (s.gang g).team, dom := gangDom s g,
                             key := k, aop, ty := t, x, ordm, meter := meterOf s g, ctx := laneCtx s g l, link := linkOf s (coreOf g) k }]
        nextCmd := s.nextCmd + 1 }
  | none :: _ =>
    let m := bytesNat (keys.map (fun k => (k.map s.mem.read).getD 0))
    let f := atomOp aop t m x 0
    let s := raiseRflag s (gangDom s g) f.fl
    (mapFrom (fun i k => (i, k)) 0 keys).foldl (fun s e => match e.2 with
      | some k => s.put k 0xFF (BitVec.ofNat 8 (f.v / 2 ^ (8 * e.1)))
      | none => s) s
  | [] => s

/-- The home of a line keeps the record of a core that has written it at its place since a release at .g or .t, so that an LDA with .rmt recalls
the core (10 R218, R220, 14 R300; log 63). -/
def keepOwner (s : State) (core key : Nat) : State := if (s.core core).teamRel then addOwner s core key else s

/-- One effect performed by lane `l`; `wide` says that it carries a release beyond the L1 and so goes through (10 R217), and `cover` names
the bytes that its entry writes whole. A write that its place's poison loses ends the team (27 R420), and one behind a reduction that has just been lost is not performed; any other is
metered by its bytes (23 R385; log 37). -/
def performOp (s : State) (g l : Nat) (wide : Bool) (cover : List Nat) : BufOp → State
  | .write key mask val pol =>
    let s := flushLane s g l [some key]
    if doomed s (s.owner g) then s
    else if (keyRegion key = 0 ∨ wide ∨ pastL1 s (coreOf g) key mask pol) ∧ s.loses cover key then consumed s (s.owner g) key
    else
    let s := accrue s (meterOf s g) (spaceMeter key) 1
    if keyRegion key = 0 then s.put key mask val
    else if wide then throughStore s (coreOf g) key mask val
    else keepOwner (coreStore s (coreOf g) (s.owner g) key mask val pol) (coreOf g) key
  | .red keys aop t x ordm =>
    (keys.head?.join).elim (performRed s g l keys aop t x ordm) (keepOwner (performRed s g l keys aop t x ordm) (coreOf g))

/-- The bytes that an entry writes whole. -/
def BufEntry.cover (e : BufEntry) : List Nat :=
  e.ops.filterMap (fun o => match o with
    | .write k m _ _ => if m = 0xFF then some k else none
    | .red .. => none)

/-- Cycles from the core to the place at which an effect is performed; a store that stays in the core's L1 and the scratchpad are near. -/
def opCycles (s : State) (g : Nat) (wide : Bool) : BufOp → Nat
  | .write key mask _ pol => if keyRegion key != 0 && (wide || pastL1 s (coreOf g) key mask pol) then placeCycles s (coreOf g) key else 0
  | .red keys _ _ _ _ => (keys.head?.join).elim 0 (fun k => if keyRegion k = 0 then 0 else placeCycles s (coreOf g) k)

/-- An entry's effects are on their way (10 R216, R221): they are performed after what goes before them, and the way to their places. -/
def flies (s : State) (g : Nat) (e : BufEntry) : State :=
  let G := s.gang g
  let m : Mask := 1#64 <<< e.lane
  let wide := match e.rel with | some sc => scopeWide sc | none => false
  let from_ := max (storeFrom s g m) (if e.rel.isSome then max (laneTill G.loads m) (laneTill G.stores m) else 0)
  let n := (e.ops.map (opCycles s g wide)).foldl max 0
  if n = 0 then s else s.setGang g { G with stores := laneNote s.now G.stores m (from_ + n) }

/-- A lane's entry for one word performed: its release first, then its effects in order (04 R90, 10 R216). Once a write of the team has been
lost, nothing of it is performed (27 R420). -/
def performEntry (s : State) (g : Nat) (e : BufEntry) : State :=
  let s := flies s g e
  let s := match e.rel with
    | some sc => releaseAction s g e.lane sc
    | none => s
  if doomed s (s.owner g) then s
  else e.ops.foldl (fun s o => performOp s g e.lane (match e.rel with | some sc => scopeWide sc | none => false) e.cover o) s

/-- Entries of a word performed at once in a plain trace, and held in the store buffer in a guarded one (04 R85). -/
def bufferOrPerform (s : State) (r : SlotRef) (R : Run) (es : List BufEntry) : State × Run :=
  if R.hdr.guarded then (s, { R with store := R.store ++ es })
  else (es.foldl (fun s e => performEntry s r.gang e) s, R)

/-! ## Loads -/

/-- A byte as lane `l` of a guarded trace sees it: its own buffered stores over memory's (04 R85). -/
def forwarded (R : Run) (l key : Nat) (b : Byte) : Byte :=
  (R.store.filter (fun e => e.lane == l)).foldl (fun b e => e.ops.foldl (fun b o => match o with
    | .write k m v _ => if k = key then mergeByte b m v else b
    | .red .. => b) b) b

/-- A byte loaded by lane `l`. -/
def loadByte (s : State) (r : SlotRef) (R : Run) (l space pol : Nat) : Option Nat → State × Byte
  | none => (s, 0)
  | some k =>
    let s := flushLane s r.gang l [some k]
    let a := if space = 0 then (s, s.mem.read k)
      else if space = 5 then constLoad s (coreOf r.gang) k
      else let x := coreLoad s (coreOf r.gang) k 1 pol; (x.1, x.2.headD 0)
    (a.1, if space = 5 then a.2 else forwarded R l k a.2)

/-- The bytes of an element loaded, and the element's bits. -/
def loadPlace (s : State) (r : SlotRef) (R : Run) (l pol : Nat) (p : Place) : State × Nat :=
  let a := p.keys.foldl (fun (a : State × List Byte) k =>
    let x := loadByte a.1 r R l p.space pol k
    (x.1, a.2 ++ [x.2])) (s, [])
  (a.1, fld (bytesNat a.2) p.sh p.bits)

/-- An element read; zero mode reads the all-zero pattern (06 R137). -/
def loadElem (s : State) (r : SlotRef) (R : Run) (l pol : Nat) : Found1 → State × Nat
  | .at p => loadPlace s r R l pol p
  | .zero => (s, 0)
  | .bad _ _ => (s, 0)

/-! ## Stores -/

/-- The byte writes that store `v` to an element; bits of its bytes outside the element stay (14 R294). -/
def storeOps (p : Place) (v pol : Nat) : List BufOp :=
  let m := (2 ^ p.bits - 1) * 2 ^ p.sh
  let x := v * 2 ^ p.sh
  (mapFrom (fun i k => (i, k)) 0 p.keys).filterMap (fun e => e.2.map (fun k =>
    .write k (BitVec.ofNat 8 (m / 2 ^ (8 * e.1))) (BitVec.ofNat 8 (x / 2 ^ (8 * e.1))) pol))

/-- A store to an element; zero mode drops it (06 R137). -/
def storeElem (v pol : Nat) : Found1 → List BufOp
  | .at p => storeOps p v pol
  | .zero => []
  | .bad _ _ => []

/-! ## Conversion (10 R213) -/

/-- The pairs of record format and type that a native access converts between. -/
def convOk (f : EFmt) (t : Ty) (store : Bool) : Bool :=
  match f with
  | .bt2 => t.isInt
  | .ty e => if store then cvtPair e t else cvtPair t e

/-- A record element converted to the instruction's type (10 R213): the result as a value of that type, and its flags. -/
def convLoad (f : EFmt) (t : Ty) (x : Nat) : Int × Nat :=
  match f with
  | .bt2 => let v := readBt2 x; (readInt t (pat v.1 t.bits), v.2)
  | .ty e => convert t e .rne false x

/-- A value at the instruction's type converted to the record's format: the element's bits and the flags. -/
def convStore (f : EFmt) (t : Ty) (x : Nat) : Nat × Nat :=
  match f with
  | .bt2 =>
    let v := readInt t x
    if v = 1 then (1, 0) else if v = -1 then (3, 0) else if v = 0 then (0, 0) else (0, flNV)
  | .ty e =>
    let r := convert e t .rne false x
    (pat r.1 e.bits, r.2)

/-! ## The lanes of a memory word -/

/-- The state of a memory word while its lanes are gone through: machine, trace, each lane's results, the cycles to the farthest place that it has
reached (27 R422), the 8-byte words of the scratchpad that it has addressed and the elements of ATOMS and REDS (06 R129, 10 R226), and the bytes
that it has moved, with their space (23 R385). -/
structure MAcc where
  s : State
  R : Run
  out : Tab (List LW)
  ents : List BufEntry
  cyc : Nat
  words : List Nat
  elems : List Nat
  space : Nat
  bytes : Nat

def MAcc.start (s : State) (R : Run) : MAcc := { s, R, out := [], ents := [], cyc := 0, words := [], elems := [], space := 0, bytes := 0 }

/-- Bytes of some places that a word has moved (23 R385). -/
def MAcc.moved (a : MAcc) (ps : List Found1) : MAcc :=
  ps.foldl (fun a p => match p with
    | .at p => { a with space := p.space, bytes := a.bytes + (p.keys.filterMap id).length }
    | .zero => a
    | .bad _ _ => a) a

/-- The lanes of a mask gone through in ascending order. -/
def eachLane (s : State) (R : Run) (m : Mask) (f : MAcc → Nat → MAcc) : MAcc :=
  (Mask.lanes m).foldl f (MAcc.start s R)

/-- The 8-byte words of the scratchpad in which the bytes of some places lie; a byte beyond the allocation occupies no bank (06 R129). -/
def bankWords (ps : List Found1) : List Nat :=
  ps.flatMap (fun p => match p with
    | .at p => (p.keys.filterMap id).filterMap (fun k => if keyRegion k = 0 then some (k / 8) else none)
    | .zero => []
    | .bad _ _ => [])

/-- How often the most frequent of some numbers stands in a list. -/
def mostOften (l : List Nat) : Nat := (l.map (fun x => l.count x)).foldl max 0

/-- Cycles that a word's scratchpad accesses take: the most distinct words in a bank (06 R129), and one for each lane on the busiest element of
ATOMS or REDS (10 R226). -/
def MAcc.bankCycles (a : MAcc) : Nat := max 1 (max (mostOften (a.words.eraseDups.map (· % 128))) (mostOften a.elems))

/-- The slot issues nothing before a cycle to come, for a stall reason. -/
def holdTill (s : State) (r : SlotRef) (n why : Nat) : State :=
  let X := s.slot r
  s.setSlot r { X with hold := X.hold.filter (fun e => s.now < e.1) ++ [(n, why)] }

/-- The cycles of bank conflict beyond the first (06 R129). -/
def bankHold (s : State) (r : SlotRef) (k : Nat) : State := if k ≤ 1 then s else holdTill s r (s.now + k) 2

/-- The results of a load whose access is made in a cycle are pending, its trace kept; they return from the farthest place, after any bank
conflict (03 R425, 06 R129). Accesses after an acquire wait until it has returned (10 R216). -/
def loadsFrom (start : Nat) (acq : Bool) (r : SlotRef) (m : Mask) (a : MAcc) : Eff :=
  let k := a.bankCycles
  let s := accrue a.s (meterOf a.s r.gang) (3 + a.space) a.bytes
  let back := start + a.cyc + (k - 1)
  let G := s.gang r.gang
  let s := s.setGang r.gang { G with loads := laneNote s.now G.loads m back, acq := if acq then laneNote s.now G.acq m back else G.acq }
  .done (longEff (bankHold s r k) r { a.R with back := max a.R.back back, behind := if s.now < start then max a.R.behind start else a.R.behind } m
    (fun l => tabGet [] a.out l))

/-- A load that issues now. -/
def loadsDone (r : SlotRef) (m : Mask) (a : MAcc) : Eff := loadsFrom (accessFrom a.s r.gang m) false r m a

/-- Entries of a core's queue of held stores (25 R397). -/
def heldStores : Nat := 64

/-- The entries in use of a core's queue of held stores. -/
def heldNow (s : State) (core : Nat) : List Nat := (s.core core).held.filter (s.now < ·)

/-- A store that a core performs at once is held behind a fence of its lanes, until the accesses before it have been performed (25 R397; that a word
takes one entry is a DESIGN CHOICE, log 70). -/
def holdStore (s : State) (g : Nat) (m : Mask) : State :=
  let c := s.core (coreOf g)
  let till := laneTill (s.gang g).fence m
  if s.now < till then s.setCore (coreOf g) { c with held := heldNow s (coreOf g) ++ [till] } else s

/-- The store finds the queue of held stores full (25 R397). -/
def queueFull (s : State) (g : Nat) (m : Mask) : Bool :=
  s.now < laneTill (s.gang g).fence m && heldStores ≤ (heldNow s (coreOf g)).length

/-- A word's releases at a scope beyond the L1 would write back a line that cannot be sent (27 R421). -/
def releaseWaits (s : State) (core : Nat) (es : List BufEntry) : Bool :=
  es.any (fun e => match e.rel with | some sc => scopeWide sc | none => false) && !linesSent s core

/-- The flags and the entries of a store; one that is performed at once occupies its banks, and may have to wait for an entry of the queue of held
stores (25 R397). -/
def storesDone (r : SlotRef) (m : Mask) (a : MAcc) : Eff :=
  if !a.R.hdr.guarded && releaseWaits a.s (coreOf r.gang) a.ents then .wait .unready
  else if !a.R.hdr.guarded && !a.ents.isEmpty && queueFull a.s r.gang m then .wait .queue
  else
  let s := if a.R.hdr.guarded || a.ents.isEmpty then a.s else holdStore a.s r.gang m
  let x := bufferOrPerform s r a.R a.ents
  .done (fixedEff (if a.R.hdr.guarded then x.1 else bankHold x.1 r a.bankCycles) r x.2 m (fun l _ => tabGet [] a.out l))

/-- The destination write of a load: one element is brought to the width of V (03 R60), several stand one after the other, each at the type's
width, and are written together (10 R211, 03 R57). -/
def loadWrites (v : Opnd) (t : Ty) (xs : List (Int × Nat)) : List LW :=
  match xs with
  | [] => []
  | [x] => [wrTo v (pat x.1 v.w.bits), .fl x.2]
  | xs => [.st v.start (xs.length * t.stitches) (xs.foldr (fun x n => pat x.1 t.bits + 2 ^ (4 * t.stitches) * n) 0),
           .fl (xs.foldl (fun f x => f ||| x.2) 0)]

/-- Element `j` of the value operand of a store, at the type (03 R60, 10 R211). -/
def storeValue (L : Lane) (v : Opnd) (t : Ty) (c j : Nat) : Nat :=
  if c = 1 then L.srcP t v else L.rdAt (v.start + j * t.stitches) t.stitches

/-- The first byte of some places that meets poison, for a core. -/
def poisonAt (s : State) (core : Nat) (f : Nat → Bool) (ps : List Found1) : Option Nat :=
  if unspoilt s core then none
  else (ps.flatMap (fun p => match p with
    | .at p => p.keys.filterMap id
    | .zero => []
    | .bad _ _ => [])).find? f

/-- A byte that a core loads from a space under a policy meets poison (27 R419). -/
def loadPoisoned (s : State) (core space pol key : Nat) : Bool :=
  if space = 5 then constPoisoned s core key else if allocates pol then readPoisoned s core key else placePoisoned s core key

/-- Cycles of a load from some places (27 R422). -/
def placesCycles (s : State) (core pol : Nat) (ps : List Found1) : Nat :=
  (ps.map (fun p => match p with
    | .at p => ((p.keys.filterMap id).map (loadCycles s core p.space pol)).foldl max (if p.space = 0 then 18 else 0)
    | .zero => 0
    | .bad _ _ => 0)).foldl max 0

/-- The space of some places; those of one word lie in one. -/
def placesSpace (ps : List Found1) : Nat := (ps.findSome? (fun p => match p with | .at p => some p.space | .zero => none | .bad _ _ => none)).getD 0

/-- A lane's access that consumes poison delivers nothing, and the owning team is ended (27 R419); in the service gang, which has no team,
it is a trap of cause 48 (18 R323, 23 R380). -/
def poisonHit (r : SlotRef) (l : Nat) (a : MAcc) (k : Nat) : MAcc :=
  match (a.s.gang r.gang).team with
  | some t => { a with s := consumed a.s (some t) k }
  | none => { a with R := a.R.fault l 48 0 }

/-- One lane of a load of `c` elements (10 R212). -/
def loadLane (r : SlotRef) (v : Opnd) (t : Ty) (pol c : Nat) (loc : State → Nat → State × Found1) (conv : Nat → Int × Nat) (l : Nat)
    (a : MAcc) : MAcc :=
  match locateAll loc c a.s 0 with
  | (s, .inl (cause, d)) => { a with s, R := a.R.fault l cause d }
  | (s, .inr ps) =>
    match poisonAt s (coreOf r.gang) (loadPoisoned s (coreOf r.gang) (placesSpace ps) pol) ps with
    | some k => poisonHit r l { a with s } k
    | none =>
    let a := { a.moved ps with cyc := max a.cyc (placesCycles s (coreOf r.gang) pol ps), words := a.words ++ bankWords ps }
    let x := ps.foldl (fun (b : State × List (Int × Nat)) p =>
      let y := loadElem b.1 r a.R l pol p
      (y.1, b.2 ++ [match p with | .zero => conv 0 | .at _ => conv y.2 | .bad _ _ => conv 0])) (s, [])
    { a with s := x.1, out := tabSet a.out l (loadWrites v t x.2) }

/-- One lane of a store of `c` elements (10 R212); one that faults sets no dirty bit (20 R357). -/
def storeLane (g : Gang) (v : Opnd) (t : Ty) (pol c : Nat) (rel : Option Scope) (loc : State → Nat → State × Found1)
    (conv : Nat → Nat × Nat) (l : Nat) (a : MAcc) : MAcc :=
  match locateAll loc c a.s 0 with
  | (_, .inl (cause, d)) => { a with R := a.R.fault l cause d }
  | (s, .inr ps) =>
    let L := g.lane l
    let xs := mapFrom (fun j p => (conv (storeValue L v t c j), p)) 0 ps
    { a with s, out := tabSet a.out l (xs.map (fun x => LW.fl (match x.2 with | .at _ => x.1.2 | .zero => 0 | .bad _ _ => 0))),
             ents := a.ents ++ [{ lane := l, off := a.R.pos + 1, rel, ops := xs.flatMap (fun x => storeElem x.1.1 pol x.2) }],
             words := a.words ++ bankWords ps }

/-! ## Record slots -/

/-- The record slot of a gang's team. -/
def recSlot (s : State) (g q : Nat) : Option RecSlot := (teamOf s g).bind (fun T => T.recs[q]?)

def State.setRec (s : State) (team q : Nat) (x : RecSlot) : State := s.updTeam team (fun T => { T with recs := listSet T.recs q x })

/-- The copy of a slot is on its way: a word that names it waits for the landing (06 R138). -/
def recPending (s : State) (g q : Nat) : Bool := (recSlot s g q).any (fun x => x.pending.isSome)

/-- Every participating lane takes a record fault with the slot's version (06 R138, R139). -/
def recFault (s : State) (r : SlotRef) (R : Run) (m : Mask) (version : Nat) : Eff :=
  .done (s.setRun r ((Mask.lanes m).foldl (fun R l => R.fault l 13 version) R))

/-- A record fault for which the spec names no version byte: the detail is a free value (log 24). -/
def recFaultOpen (s : State) (r : SlotRef) (R : Run) (m : Mask) : Eff :=
  let v := s.openVal 8
  recFault v.2 r R m v.1

/-- A valid record with its format, for a word that names slot `q`; otherwise the word waits, or its lanes take a record fault. A gang without
a team has no record slots. -/
def withRec (s : State) (r : SlotRef) (R : Run) (m : Mask) (q : Nat) (k : Nat → EFmt → Eff) : Eff :=
  if recPending s r.gang q then .wait (.record q)
  else
    match recSlot s r.gang q with
    | none => recFaultOpen s r R m
    | some x =>
      let w := x.body.toNat
      if !x.valid then recFault s r R m (recVersion w)
      else
        match efmtOf (recFmt w) with
        | none => recFault s r R m (recVersion w)
        | some f => k w f

/-- The cache policy of an access: the record's, or the one that the word selects (06 R132, 07 R153). -/
def polCode (p : Pol) (rp : Nat) : Nat :=
  match p with
  | .record => rp
  | .keep => 0
  | .stream => 1
  | .bypass => 2

/-- The element index of a native operand (06 R136). -/
def elemIndex (L : Lane) (x : Opnd) (imm : Int) : Int := (L.rd x : Int) + imm

/-- Elements that LDX and STX move (10 R211); 0 where V does not fit. -/
def vecCount (v : Opnd) (t : Ty) : Nat :=
  let c := v.w.stitches / t.stitches
  if v.w.stitches % t.stitches == 0 && (c == 2 || c == 4 || c == 8 || c == 16) then c else 0

/-- V of LD and ST: the exact width of a floating-point type, 1 to 16 stitches of an integer one (10 R211). -/
def scalarV (v : Opnd) (t : Ty) : Bool := if t.isInt then intW v else v.w.stitches == t.stitches

/-- A native load of `c` elements (10 R212). -/
def nativeLoad (v : Opnd) (q : Nat) (x : Opnd) (imm : Int) (t : Ty) (pol : Pol) (c : Nat) (s : State) (r : SlotRef) (R : Run) (m : Mask) : Eff :=
  withRec s r R m q (fun w f =>
    if !convOk f t false then recFault s r R m (recVersion w)
    else
      let G := s.gang r.gang
      loadsDone r m (eachLane s R m (fun a l =>
        loadLane r v t (polCode pol (recPolicy w)) c
          (fun s j => locate s r w f (elemIndex (G.lane l) x imm + j) .read) (convLoad f t) l a)))

/-- A native store of `c` elements, with a release where `rel` names a scope (10 R212). -/
def nativeStore (v : Opnd) (q : Nat) (x : Opnd) (imm : Int) (t : Ty) (mode : StMode) (c : Nat) (s : State) (r : SlotRef) (R : Run) (m : Mask) :
    Eff :=
  withRec s r R m q (fun w f =>
    if !convOk f t true then recFault s r R m (recVersion w)
    else
      let G := s.gang r.gang
      let pol := match mode with | .plain p => polCode p (recPolicy w) | .rel _ => recPolicy w
      let rel := match mode with | .plain _ => none | .rel sc => some sc
      storesDone r m (eachLane s R m (fun a l =>
        storeLane G v t pol c rel (fun s j => locate s r w f (elemIndex (G.lane l) x imm + j) .write) (convStore f t) l a)))

/-- The record's format is the type itself, of 1, 2, 4 or 8 bytes (10 R219). -/
def exactFmt (f : EFmt) (t : Ty) : Bool := f == .ty t && (t.bits == 8 || t.bits == 16 || t.bits == 32 || t.bits == 64)

/-- Cores other than `core` recorded as local owners of a line in space 1 or 2 (10 R220). -/
def otherOwners (s : State) (core key : Nat) : List Nat :=
  if keyRegion key = 1 ∨ keyRegion key = 2 then
    (s.owners.filter (fun o => o.1 == lineOf key && o.2 != core)).map (·.2)
  else []

/-- LDA (10 R219, R220): the acquire action, the recall of remote owners under .rmt, then the load at the record's policy. -/
def acquireLoad (v : Opnd) (q : Nat) (x : Opnd) (imm : Int) (t : Ty) (sc : Scope) (rmt : Bool) (s : State) (r : SlotRef) (R : Run) (m : Mask) :
    Eff :=
  withRec s r R m q (fun w f =>
    if !exactFmt f t then recFault s r R m (recVersion w)
    else
      let G := s.gang r.gang
      let core := coreOf r.gang
      let s := if m = 0 then s else acquireScope s core sc
      loadsFrom (accessFrom s r.gang m) true r m (eachLane s R m (fun a l =>
        loadLane r v t (recPolicy w) 1
          (fun s j =>
            let y := locate s r w f (elemIndex (G.lane l) x imm + j) .read
            match rmt, y.2 with
            | true, .at p =>
              ((p.keys.filterMap id).foldl (fun s k => acquireAction ((otherOwners s core k).foldl promote s) core) y.1, y.2)
            | _, _ => y) (convLoad f t) l a)))

/-- STL (10 R219). -/
def releaseStore (v : Opnd) (q : Nat) (x : Opnd) (imm : Int) (t : Ty) (sc : Scope) (s : State) (r : SlotRef) (R : Run) (m : Mask) : Eff :=
  withRec s r R m q (fun w f =>
    if !exactFmt f t then recFault s r R m (recVersion w)
    else
      let G := s.gang r.gang
      storesDone r m (eachLane s R m (fun a l =>
        storeLane G v t (recPolicy w) 1 (some sc)
          (fun s j => locate s r w f (elemIndex (G.lane l) x imm + j) .write) (convStore f t) l a)))

/-! ## Barord forms -/

/-- The byte address of element `j` of a Barord operand, before its space's own reduction (10 R215). -/
def barordAddr (s : State) (r : SlotRef) (L : Lane) (a : Opnd) (kb : Nat) (imm : Int) (t : Ty) (j : Nat) : Nat :=
  (pat ((kreg s r kb : Int) + L.rd a + imm * (t.bits / 8 : Nat)) 64 + j * (t.bits / 8)) % 2 ^ 64

/-- V of a Barord form (10 R215). -/
def barordV (v : Opnd) (t : Ty) (vec : Bool) : Bool :=
  if vec then (v.w.stitches == 2 * t.stitches || v.w.stitches == 4 * t.stitches)
  else scalarV v t

/-- Elements that a Barord form moves. -/
def barordCount (v : Opnd) (t : Ty) (vec : Bool) : Nat := if vec then v.w.stitches / t.stitches else 1

/-- The value of a type read without conversion, as an integer. -/
def plainLoad (t : Ty) (x : Nat) : Int × Nat := (if t.isInt then readInt t x else (x : Int), 0)

/-- A Barord load from a space (10 R215). -/
def barordLoad (space : Nat) (v a : Opnd) (kb : Nat) (imm : Int) (t : Ty) (vec : Bool) (pol : Pol) (s : State) (r : SlotRef) (R : Run) (m : Mask) :
    Eff :=
  let G := s.gang r.gang
  loadsDone r m (eachLane s R m (fun acc l =>
    loadLane r v t (polCode pol 0) (barordCount v t vec)
      (fun s j => locateB s r space (barordAddr s r (G.lane l) a kb imm t j) t .read) (plainLoad t) l acc))

/-- A Barord store to a space (10 R215). -/
def barordStore (space : Nat) (v a : Opnd) (kb : Nat) (imm : Int) (t : Ty) (vec : Bool) (pol : Pol) (s : State) (r : SlotRef) (R : Run)
    (m : Mask) : Eff :=
  let G := s.gang r.gang
  storesDone r m (eachLane s R m (fun acc l =>
    storeLane G v t (polCode pol 0) (barordCount v t vec) none
      (fun s j => locateB s r space (barordAddr s r (G.lane l) a kb imm t j) t .write) (fun x => (x, 0)) l acc))

/-! ## Atomics -/

/-- A list in an order that the spec leaves open (log 14). -/
def shuffle : Nat → State → List Nat → State × List Nat
  | 0, s, l => (s, l)
  | _ + 1, s, [] => (s, [])
  | n + 1, s, l =>
    let x := s.openVal 64
    let i := x.1 % l.length
    let y := shuffle n x.2 (l.eraseIdx i)
    (y.1, (l[i]?).getD 0 :: y.2)

/-- The old bytes of an element and, but for those beyond an allocation, its new ones, at its place. -/
def atomAt (s : State) (keys : List (Option Nat)) (aop : Aop) (t : Ty) (x cmp : Nat) : State × Nat × Nat :=
  let m := bytesNat (keys.map (fun k => (k.map s.mem.read).getD 0))
  let f := atomOp aop t m x cmp
  let s := (mapFrom (fun i k => (i, k)) 0 keys).foldl (fun s e => match e.2 with
    | some k => s.put k 0xFF (BitVec.ofNat 8 (f.v / 2 ^ (8 * e.1)))
    | none => s) s
  (s, m, f.fl)

/-- The operand and, for cas, the comparand in a lane's V (10 R224). -/
def atomOperands (L : Lane) (v : Opnd) (aop : Aop) (t : Ty) : Nat × Nat :=
  match aop with
  | .cas => (L.rdAt (v.start + t.stitches) t.stitches, L.rdAt v.start t.stitches)
  | _ => (L.rdAt v.start t.stitches, 0)

/-- Stitches of V of an atomic: the type's, or twice them for cas (10 R223). -/
def atomV (v : Opnd) (aop : Aop) (t : Ty) : Bool :=
  match aop with
  | .cas => v.w.stitches == 2 * t.stitches
  | _ => v.w.stitches == t.stitches

/-- The element of the scratchpad that an atomic names, where it lies in the allocation. -/
def bankElem (keys : List (Option Nat)) : List Nat :=
  match keys with
  | some k :: _ => if keyRegion k = 0 then [k] else []
  | _ => []

/-- ATOM (10 R224 to R226): each lane's release, its access at the place in an open order, and the acquire. -/
def nativeAtom (aop : Aop) (v : Opnd) (q : Nat) (x : Opnd) (t : Ty) (sc : Scope) (ord : MOrd) (s : State) (r : SlotRef) (R : Run) (m : Mask) : Eff :=
  withRec s r R m q (fun w f =>
    if f != .ty t then recFault s r R m (recVersion w)
    else
      let G := s.gang r.gang
      let core := coreOf r.gang
      let rel := match ord with | .rel | .ar => true | .acq | .none => false
      let acq := match ord with | .acq | .ar => true | .rel | .none => false
      if rel && releaseHeld s r.gang m sc then .wait .unready
      else
      let start := max (storeFrom s r.gang m) (if rel then max (laneTill G.loads m) (laneTill G.stores m) else 0)
      let o := shuffle 64 s (Mask.lanes m)
      let a := o.2.foldl (fun (a : MAcc) l =>
        match locate a.s r w f (elemIndex (G.lane l) x 0) .readWrite with
        | (s, .bad c d) => { a with s, R := a.R.fault l c d }
        | (s, .zero) => { a with s, out := tabSet a.out l [.st v.start t.stitches 0] }
        | (s, .at p) =>
          match poisonAt s core (placePoisoned s core) [.at p] with
          | some k => poisonHit r l { a with s } k
          | none =>
          let cyc := placesCycles s core 2 [.at p]
          let s := if rel then releaseAction s r.gang l sc else flushLane s r.gang l p.keys
          let s := (p.keys.filterMap id).foldl (fun s k => if cacheable core k then evictLine s core (lineOf k) else s) s
          if doomed s (s.owner r.gang) then { a with s } else
          let a := { a.moved [.at p] with cyc := max a.cyc cyc, words := a.words ++ bankWords [.at p], elems := a.elems ++ bankElem p.keys }
          let y := atomOperands (G.lane l) v aop t
          let z := atomAt s p.keys aop t y.1 y.2
          { a with s := (p.keys.filterMap id).foldl (fun s k => keepOwner s core k) z.1, out := tabSet a.out l [.st v.start t.stitches z.2.1, .fl z.2.2] })
        (MAcc.start o.1 R)
      let s' := if acq && m != 0 then acquireScope a.s core sc else a.s
      loadsFrom start acq r m { a with s := s' })

/-- RED (10 R227): buffered in a guarded trace; zero mode drops the element. -/
def nativeRed (aop : Aop) (v : Opnd) (q : Nat) (x : Opnd) (t : Ty) (sc : Scope) (rel ordm : Bool) (s : State) (r : SlotRef) (R : Run) (m : Mask) :
    Eff :=
  withRec s r R m q (fun w f =>
    if f != .ty t then recFault s r R m (recVersion w)
    else
      let G := s.gang r.gang
      storesDone r m (eachLane s R m (fun a l =>
        match locate a.s r w f (elemIndex (G.lane l) x 0) .write with
        | (s, .bad c d) => { a with s, R := a.R.fault l c d }
        | (s, .zero) => { a with s, ents := a.ents ++ [{ lane := l, off := a.R.pos + 1, rel := if rel then some sc else none, ops := [] }] }
        | (s, .at p) =>
          { a with s, ents := a.ents ++ [{ lane := l, off := a.R.pos + 1, rel := if rel then some sc else none,
                                           ops := [.red p.keys aop t ((G.lane l).rdAt v.start t.stitches) ordm] }],
                   words := a.words ++ bankWords [.at p], elems := a.elems ++ bankElem p.keys })))

/-- The aligned scratchpad offset of ATOMS and REDS (10 R223). -/
def atomsKeys (s : State) (r : SlotRef) (L : Lane) (a : Opnd) (kb : Nat) (imm : Int) (t : Ty) : List (Option Nat) :=
  let n := t.bits / 8
  let o := barordAddr s r L a kb imm t 0 / n * n
  (List.range n).map (fun i => gangSpadKey s r.gang (o + i))

/-- ATOMS (10 R226): the lanes in ascending order. -/
def spadAtom (aop : Aop) (v a : Opnd) (kb : Nat) (imm : Int) (t : Ty) (s : State) (r : SlotRef) (R : Run) (m : Mask) : Eff :=
  let G := s.gang r.gang
  loadsDone r m (eachLane s R m (fun acc l =>
    let ks := atomsKeys acc.s r (G.lane l) a kb imm t
    let p : Found1 := .at { keys := ks, sh := 0, bits := t.bits, space := 0 }
    match poisonAt acc.s (coreOf r.gang) (placePoisoned acc.s (coreOf r.gang)) [p] with
    | some k => poisonHit r l acc k
    | none =>
    let acc := { acc.moved [p] with cyc := 18, words := acc.words ++ bankWords [p], elems := acc.elems ++ bankElem ks }
    let y := atomOperands (G.lane l) v aop t
    let z := atomAt acc.s ks aop t y.1 y.2
    { acc with s := z.1, out := tabSet acc.out l [.st v.start t.stitches z.2.1, .fl z.2.2] }))

/-- REDS (10 R226): buffered in a guarded trace; the lanes in ascending order. -/
def spadRed (aop : Aop) (v a : Opnd) (kb : Nat) (imm : Int) (t : Ty) (s : State) (r : SlotRef) (R : Run) (m : Mask) : Eff :=
  let G := s.gang r.gang
  storesDone r m (eachLane s R m (fun acc l =>
    let ks := atomsKeys acc.s r (G.lane l) a kb imm t
    let o := BufOp.red ks aop t ((G.lane l).rdAt v.start t.stitches) false
    { acc with ents := acc.ents ++ [{ lane := l, off := acc.R.pos + 1, rel := none, ops := [o] }],
               words := acc.words ++ bankWords [.at { keys := ks, sh := 0, bits := t.bits, space := 0 }], elems := acc.elems ++ bankElem ks }))

/-! ## Prefetch and write-back -/

/-- The key of an element's first byte where PREF or CWB has an effect (10 R222): in bounds, translatable, and not in the scratchpad. -/
def prefKey (s : State) (r : SlotRef) (w : Nat) (f : EFmt) (e : Int) : State × Option Nat :=
  if recSpace w = 0 ∨ e < 0 ∨ (recExt0 w * recExt1 w : Nat) ≤ e then (s, none)
  else
    match locate s r w f e .read with
    | (s, .at p) => (s, p.keys.head?.join)
    | (s, _) => (s, none)

end Machine
end Sys2Proof
end

