-- ==== Sys2Proof/Machine/Slots.lean ====
section
/-! DEFINITION. Slots, join tokens and the divergence stack: arrival at a token, parking, filling of free slots and the end of a gang (04
R92 to R94), and the check for a team's retirement (01 R20). -/

set_option Elab.async false

namespace Sys2Proof
namespace Machine

/-! ## Join tokens -/

/-- A join token as the stack holds it (04 R92). -/
structure Tok where
  j : Nat
  expected : Mask
  arrived : Mask
  parent : Option Nat
  deriving DecidableEq, Repr

/-- The token of an identity. -/
def findTok (st : List StackEntry) (id : Nat) : Option Tok :=
  match st with
  | [] => none
  | .token i j e a p :: t => if i = id then some { j, expected := e, arrived := a, parent := p } else findTok t id
  | .path .. :: t => findTok t id

/-- The stack with a token changed. -/
def setTok (st : List StackEntry) (id : Nat) (k : Tok) : List StackEntry :=
  st.map (fun e => match e with
    | .token i j x a p => if i = id then .token i k.j k.expected k.arrived k.parent else .token i j x a p
    | .path a m t w => .path a m t w)

/-- A completed token is removed wherever it stands (04 R92). -/
def dropTok (st : List StackEntry) (id : Nat) : List StackEntry :=
  st.filter (fun e => match e with
    | .token i _ _ _ _ => i != id
    | .path .. => true)

/-- A slot is parked on a token. -/
def parkedOn (X : Slot) (id : Nat) : Bool :=
  X.mask != 0 && X.tok == some id && (match X.wait with | .join => true | _ => false)

/-- A free slot keeps its place in the alternation, the drain of its store buffer (04 R100), and its handler, whose own divergence it has still to
take up (21 R362). -/
def freed (X : Slot) : Slot := { Slot.free with stamp := X.stamp, hnd := X.hnd, hold := X.hold }

/-- A slot with a group at an address. -/
def Slot.take (X : Slot) (addr : Nat) (m : Mask) (tok : Option Nat) (w : Wait) : Slot :=
  { Slot.free with mask := m, entry := addr, tok, wait := w, stamp := X.stamp, hnd := X.hnd, hold := X.hold }

/-- The slot issues nothing before cycle `n`, for stall reason `why` where nothing keeps it longer. -/
def Slot.heldTill (X : Slot) (n why : Nat) : Slot := if X.hold.any (fun h => n ≤ h.1) then X else { X with hold := X.hold ++ [(n, why)] }

/-- The gang after slot `b` has taken an entry from below those of a handler in the other slot (21 R362). -/
def lowerDepth (G : Gang) (b : Bool) : Gang :=
  let O := G.slot (!b)
  match O.hnd with
  | some h => G.setSlot (!b) { O with hnd := some { h with depth := h.depth - 1 } }
  | none => G

/-- Entries above those that the stack held at a slot's trap: its handler's own (21 R362). -/
def handlerTop (G : Gang) (h : Hnd) : List StackEntry := G.stack.take (G.stack.length - h.depth)

/-- Arrive(Y) (04 R93) for slot `b` of a gang in a cycle; a merged group that stands at its parent's J arrives there at once. A merged slot
issues its join header in the next cycle (04 R100). The number bounds the tokens that complete. -/
def arriveN (now : Nat) : Nat → Gang → Bool → Gang
  | 0, G, _ => G
  | n + 1, G, b =>
    let Y := G.slot b
    let O := G.slot (!b)
    match Y.tok with
    | none => G
    | some id =>
      match findTok G.stack id with
      | none => G
      | some u =>
        let arrived := u.arrived ||| Y.mask
        if arrived = u.expected then
          let G := lowerDepth { G with stack := dropTok G.stack id } b
          let G := G.setSlot b ((Y.take u.j u.expected u.parent .none).heldTill (now + 1) 10)
          let G := if parkedOn O id then G.setSlot (!b) (freed O) else G
          if (u.parent.bind (findTok G.stack)).any (fun p => p.j == u.j) then arriveN now n G b else G
        else
          let G := { G with stack := setTok G.stack id { u with arrived } }
          if u.expected &&& ~~~arrived &&& O.mask ≠ 0 then G.setSlot b { Y with wait := .join }
          else G.setSlot b (freed Y)

/-- Arrive(Y) (04 R93) for slot `b` of a gang: at most 32 tokens stand on its stack (01 R10). -/
def arrive (now : Nat) (G : Gang) (b : Bool) : Gang := arriveN now (Config.stackEntries + 1) G b

/-- A slot's group stands at its token's J and has not arrived (04 R93); a trapped group, and one that waits, is not examined (18
R324, log 21). In a handler only the tokens of its own divergence are (21 R362). -/
def atJoin (G : Gang) (b : Bool) : Bool :=
  let Y := G.slot b
  Y.mask != 0 && Y.run.isNone && (match Y.wait with | .none => true | _ => false) &&
  match Y.tok with
  | none => false
  | some id => match findTok (match Y.hnd with | some h => handlerTop G h | none => G.stack) id with | some u => u.j == Y.entry | none => false

/-- A parked slot whose token misses no lane of the other slot frees (04 R93). -/
def freesNow (G : Gang) (b : Bool) : Bool :=
  let Y := G.slot b
  match Y.tok with
  | none => false
  | some id => parkedOn Y id && (match findTok G.stack id with
    | some u => (u.expected &&& ~~~u.arrived &&& (G.slot (!b)).mask) == 0
    | none => false)

/-- Entries of the stack that a free slot may take: in a cast-off routine, those that it has pushed (11 R242). -/
def takeable (G : Gang) : Nat := match G.co with
  | some c => G.stack.length - c.depth
  | none => G.stack.length

/-- The most recently pushed path entry, and the stack without it (04 R92). -/
def popPath : Nat → List StackEntry → Option (StackEntry × List StackEntry)
  | 0, _ => none
  | _ + 1, [] => none
  | n + 1, e :: t =>
    match e with
    | .path .. => some (e, t)
    | .token .. => (popPath n t).map (fun x => (x.1, e :: x.2))

/-- The path entry that a free slot takes, and the stack without it (04 R92): the slot of a handler takes those of its handler's divergence,
and the other slot none of them (21 R362). -/
def nextPath (G : Gang) (b : Bool) : Option (StackEntry × List StackEntry) :=
  match (G.slot b).hnd, (G.slot (!b)).hnd with
  | some h, _ => popPath (G.stack.length - h.depth) G.stack
  | none, some h => (popPath h.depth (G.stack.drop (handlerTop G h).length)).map (fun x => (x.1, handlerTop G h ++ x.2))
  | none, none => popPath (takeable G) G.stack

/-- The cycles for which a slot that takes a stack entry issues nothing: its header issues in the next cycle, and no earlier than 18 cycles after
where the entry is not among the top four, which hardware holds (01 R10, 04 R92). -/
def entryCycles (G : Gang) (e : StackEntry) : Nat := if G.stack.findIdx (· == e) < 4 then 1 else 18

/-- A free slot takes a path entry, with what its group waits for (04 R92). -/
def fillSlot (now : Nat) (G : Gang) (b : Bool) : Option Gang :=
  if (G.slot b).mask ≠ 0 then none
  else
    match nextPath G b with
    | some (.path a m t w, st) =>
      some ((lowerDepth { G with stack := st } b).setSlot b (((G.slot b).take a m t w).heldTill (now + entryCycles G (.path a m t w)) 10))
    | _ => none

/-- One change of the slots in a cycle, in the order of 04 R88: free slots fill, slot A first; groups at their joins arrive; parked slots that
miss no lane of the other slot free. -/
def settleStep (now : Nat) (G : Gang) : Option Gang :=
  match fillSlot now G false with
  | some G => some G
  | none =>
    match fillSlot now G true with
    | some G => some G
    | none =>
      if atJoin G false then some (arrive now G false)
      else if atJoin G true then some (arrive now G true)
      else if freesNow G false then some (G.setSlot false (freed G.a))
      else if freesNow G true then some (G.setSlot true (freed G.b))
      else none

/-- Changes of the slots until none is due. -/
def settleLoop (now : Nat) : Nat → Gang → Gang
  | 0, G => G
  | n + 1, G => match settleStep now G with
    | some G => settleLoop now n G
    | none => G

/-- More changes than 32 stack entries and two slots can bring about. -/
def settleFuel : Nat := 200

/-- No lanes in a slot and no path entry (04 R94). -/
def Gang.atEnd (G : Gang) : Bool :=
  G.a.mask == 0 && G.b.mask == 0 && G.co.isNone && G.stack.all (fun e => match e with | .path .. => false | .token .. => true)

/-- Tokens that EXIT reaches, innermost first: their identities from the top of the stack. -/
def tokIds (st : List StackEntry) : List Nat :=
  st.filterMap (fun e => match e with
    | .token i _ _ _ _ => some i
    | .path .. => none)

/-- The slot parked on a completed token takes the merged group: its join header issues in the next cycle (04 R100), and a group that stands at its
parent's J arrives there at once (04 R93). -/
def takeMerged (now : Nat) (G : Gang) (b : Bool) (u : Tok) : Gang :=
  let G := G.setSlot b (((G.slot b).take u.j u.expected u.parent .none).heldTill (now + 1) 10)
  if (u.parent.bind (findTok G.stack)).any (fun p => p.j == u.j) then arrive now G b else G

/-- A token that EXIT completes: the slot parked on it takes the merged group, or it is pushed as a path entry (04 R94). -/
def completeTok (now : Nat) (G : Gang) (id : Nat) (u : Tok) : Gang :=
  let G := { G with stack := dropTok G.stack id }
  if parkedOn G.a id then takeMerged now G false u
  else if parkedOn G.b id then takeMerged now G true u
  else { G with stack := .path u.j u.expected u.parent .none :: G.stack }

/-- The tokens of a stack without some lanes; one that expects no other is gone (04 R94). -/
def shedLanes (st : List StackEntry) (m : Mask) : List StackEntry :=
  st.filterMap (fun e => match e with
    | .token i j x a p => if x &&& m = 0 then some e else if x &&& ~~~m = 0 then none else some (.token i j (x &&& ~~~m) (a &&& ~~~m) p)
    | .path .. => some e)

/-- Lanes finish (04 R94): they leave every token, and the tokens that this completes merge, the innermost first. -/
def finishLanes (now : Nat) (G : Gang) (m : Mask) : Gang :=
  let ids := (tokIds G.stack).filter (fun id => (findTok G.stack id).any (fun u => u.expected &&& m != 0))
  ids.foldl (fun G id =>
    match findTok G.stack id with
    | none => G
    | some u => if u.arrived = u.expected then completeTok now G id u else G) { G with live := G.live &&& ~~~m, stack := shedLanes G.stack m }

/-! ## Retirement -/

/-- Nothing of a team is under way: no gang, no lane in a bin, no copy and no matrix command (01 R20). -/
def teamQuiet (s : State) (t : Nat) : Bool :=
  s.gangs.all (fun e => e.2.team != some t)
  && s.cores.all (fun e => e.2.bins.all (fun b => !(b.bound && b.team == t)))
  && s.copies.all (fun c => c.team != t)
  && s.mats.all (fun c => c.team != t)

/-- A team with nothing under way retires next (01 R20, 19 R349). -/
def checkRetire (s : State) (t : Nat) : State :=
  if (s.team? t).isSome && teamQuiet s t then s.before (.teamRetirement t) else s

/-- A team of a virtual device is resident. -/
def ctxResident (s : State) (ctx : Nat) : Bool :=
  s.teams.any (fun e => match s.launch? e.2.launch with | some L => ctxId L.panel L.vd == ctx | none => false)

/-- Translations of a virtual device that a TLBI names, all those of the first-stage page of an address or all, dropped on every core, and the
first-stage entries that the walkers hold for it (18 R329, 20 R356); vault mappings stay while a team of the device is resident (20 R359). -/
def dropTlb (s : State) (ctx : Nat) (va : Option Nat) : State :=
  let resident := ctxResident s ctx
  let gone (e : TlbE) : Bool := e.ctx == ctx && !(e.space == 1 && resident) &&
    (match va with | some v => e.va1 ≤ v && v < e.va1 + e.size1 | none => true)
  let stale (e : TableE) : Bool := !e.stage2 && e.ctx == ctx && (match va with | some v => e.base ≤ v && v < e.base + e.size | none => true)
  { s with cores := s.cores.map (fun e => (e.1, { e.2 with tlb := e.2.tlb.filter (fun x => !gone x) })),
           tables := s.tables.filter (fun e => !stale e) }

/-- The stores that the cores of a panel hold written back to their places, as the end of an invalidation asks of every access made through what it
removed (18 R329, 20 R358). -/
def performStores (s : State) (panel : Nat) : State :=
  (s.cores.filter (fun e => (panelCore s e.1).1 == panel)).foldl (fun s e => promote s e.1) s

/-- Totals of stall reasons with a gang's counters added; both members of a width-64 pair count (19 R348, 26 R409). -/
def addStalls (tot : List Nat) (G : Gang) : List Nat :=
  (List.range 16).map (fun i => (tot[i]?).getD 0 + (G.stalls[i]?).getD 0 + (if G.width = 64 then (G.stalls1[i]?).getD 0 else 0))

/-- The commands that a gang leaves in the unit as it exits (13 R287): those of a lane's open batch stay of an open batch, which nothing seals, and
those that CPYX has left out stay out of every batch (22 R374). -/
def orphans (s : State) (g : Nat) : State :=
  let G := s.gang g
  if s.copies.all (fun c => c.gang != g) then s
  else
    { s with copies := s.copies.map (fun c =>
        if c.gang == g && G.team == some c.team && c.gangNum == G.num then
          (if c.batch = 0 then { c with batch := 2 ^ 32 - 1 }
           else if c.batch = (tabGet ({ sealed := 0, done := 0 } : LaneBatch) G.batches c.req.lane).sealed + 1 then { c with batch := 0 }
           else c)
        else c) }

/-- A gang exits (04 R94): its counters join its team's totals (19 R348), its slot frees. -/
def gangExit (s : State) (g : Nat) : State :=
  let G := s.gang g
  let s := orphans s g
  let s := G.tlbi.foldl (fun s q => dropTlb s (ctxId q.panel q.vd) q.va) s
  let s := { s with gangs := tabDel s.gangs g }
  match G.team with
  | none => s
  | some t => checkRetire (s.updTeam t (fun T =>
      { T with stallTot := addStalls T.stallTot G,
               reg := if T.reg.any (fun (x : Reg) => x.gang == g) then none else T.reg,
               regRuns := if T.ngang ≤ G.num then T.regRuns.filter (fun x => x.1 != g) else T.regRuns })) t

/-- The slots of a gang settle, and a gang that is over exits. -/
def settle (s : State) (g : Nat) : State :=
  let G := settleLoop (s.now) settleFuel (s.gang g)
  let s := s.setGang g G
  if G.atEnd && !isSvc g then gangExit s g else s

/-- A slot that waited goes on: it may stand at its join (log 21). -/
def resume (s : State) (r : SlotRef) : State := settle (s.setWait r .none) r.gang

end Machine
end Sys2Proof
end

