-- ==== Sys2Proof/Machine/Sync.lean ====
section
/-! DEFINITION. Barrier registers (13 R274 to R279), batches of C-gang lanes (13 R286), watches (13 R288) and spawn bins (01 R18, R19, 13
R289). -/

set_option Elab.async false

namespace Sys2Proof
namespace Machine

/-! ## Barriers -/

/-- The number of cluster `i` of launch `l`. -/
def clusterId (l i : Nat) : Nat := l * 2 ^ 64 + i

/-- The barrier register that a barrier field names for a gang; none for class 3 or where there is no owner (13 R274). -/
def barOf (s : State) (g : Nat) (b : Bar) : Option BarId :=
  match (s.gang g).team with
  | none => none
  | some t =>
    match s.team? t with
    | none => none
    | some T =>
      match b with
      | .team n => some (.team t n)
      | .cluster n => some (.cluster (clusterId T.launch T.cbar) n)
      | .grid n => some (.grid T.launch n)
      | .none => none

/-- A barrier register; a launch without grid barriers has none (01 R13). -/
def barGet (s : State) : BarId → Option Barrier
  | .team t n => (s.team? t).bind (fun T => T.bars[n]?)
  | .cluster c n => (s.launch? (c / 2 ^ 64)).bind (fun L => (tabFind L.cbars (c % 2 ^ 64)).bind (fun l => l[n]?))
  | .grid l n => (s.launch? l).bind (fun L => L.gbars[n]?)

def barSet (s : State) (b : BarId) (x : Barrier) : State :=
  match b with
  | .team t n => s.updTeam t (fun T => { T with bars := listSet T.bars n x })
  | .cluster c n => s.updLaunch (c / 2 ^ 64) (fun L =>
      { L with cbars := L.cbars.map (fun e => if e.1 = c % 2 ^ 64 then (e.1, listSet e.2 n x) else e) })
  | .grid l n => s.updLaunch l (fun L => { L with gbars := listSet L.gbars n x })

/-- The scope of a barrier (13 R276). -/
def barScope : BarId → Scope
  | .team _ _ => .t
  | .cluster _ _ => .c
  | .grid _ _ => .d

/-- Members and bytes are met (13 R275). -/
def Barrier.due (b : Barrier) : Bool := b.expmem ≤ b.arrmem && b.expbytes ≤ b.arrbytes

/-- A barrier completes in this cycle: it is met, and has not completed in it yet (13 R275). -/
def Barrier.completes (b : Barrier) (now : Nat) : Bool := b.due && b.next ≤ now

/-- A barrier that is met completes next (13 R275). -/
def barCheck (s : State) (b : BarId) : State :=
  match barGet s b with
  | some x => if x.completes s.now then s.before (.barrierCompletion b) else s
  | none => s

/-- Every barrier register of resident teams and of launches. -/
def allBars (s : State) : List BarId :=
  s.teams.flatMap (fun e => (List.range e.2.bars.length).map (BarId.team e.1))
  ++ s.launches.flatMap (fun e =>
    e.2.cbars.flatMap (fun c => (List.range c.2.length).map (BarId.cluster (clusterId e.1 c.1))) ++ (List.range e.2.gbars.length).map (BarId.grid e.1))

/-- A barrier whose surplus completes it in a cycle after its last completion (13 R275). -/
def barDue (s : State) : Option BarId := (allBars s).find? (fun b => (barGet s b).any (fun x => x.completes s.now))

/-- Members and bytes arrive at a barrier; both counts saturate, and cluster and grid barriers have no bytes (13 R274). -/
def barArrive (s : State) (b : BarId) (members bytes : Nat) : State :=
  match barGet s b with
  | none => s
  | some x =>
    let n := match b with | .team _ _ => bytes | .cluster _ _ => 0 | .grid _ _ => 0
    barCheck (barSet s b { x with arrmem := min (x.arrmem + members) 4095, arrbytes := min (x.arrbytes + n) (2 ^ 32 - 1) }) b

/-- The number by which a barrier knows a gang that has arrived (21 R373). -/
def arriver (s : State) (g : Nat) : Nat := 64 * (s.gang g).team.getD 0 + (s.gang g).num

/-- A gang noted among those that have arrived in a barrier's phase (21 R373). -/
def barMark (s : State) (g : Nat) (b : BarId) : State :=
  match barGet s b with
  | some x => if x.came.contains (arriver s g) then s else barSet s b { x with came := x.came ++ [arriver s g] }
  | none => s

/-- A word's arrival as one member: a release in each of its lanes (13 R276), which a lost write keeps from being counted (27 R420). -/
def wordArrive (s : State) (g : Nat) (m : Mask) (b : BarId) : State :=
  match releaseLanes s g m (barScope b) with
  | (s, true) => barArrive (barMark s g b) b 1 0
  | (s, false) => s

/-- The slot waits on a barrier with a phase. -/
def waitsOn (X : Slot) (b : BarId) : Option Bool :=
  if X.mask = 0 then none
  else
    match X.wait with
    | .barrier b' ph _ => if b' = b then some ph else none
    | _ => none

/-- Every slot of the machine. -/
def allSlots (s : State) : List SlotRef := s.gangs.flatMap (fun e => [{ gang := e.1, b := false }, { gang := e.1, b := true }])

/-- The slots that wait on a barrier whose phase differs from the one they recorded are released, each as an acquire, and issue in the next cycle (13
R275, R276, R279). -/
def barRelease (s : State) (b : BarId) : State :=
  match barGet s b with
  | none => s
  | some x =>
    (allSlots s).foldl (fun s r => match waitsOn (s.slot r) b with
      | some ph =>
        if ph = x.phase then s
        else
          let s := acquireScope s (coreOf r.gang) (barScope b)
          resume (s.setSlot r ((s.slot r).heldTill (s.now + 1) 6)) r
      | none => s) s

/-- A barrier completes, once in a cycle; what is left over is examined in the next (13 R275). -/
def barComplete (s : State) (b : BarId) : State :=
  match barGet s b with
  | none => s
  | some x =>
    if x.completes s.now then
      barRelease (barSet s b { x with came := [], phase := !x.phase, arrmem := x.arrmem - x.expmem, arrbytes := x.arrbytes - x.expbytes, expbytes := 0,
                                      next := s.now + 1 }) b
    else s

/-- A copy or matrix command that names a barrier has not arrived (13 R279). -/
def commandsName (s : State) (b : BarId) : Bool :=
  s.copies.any (fun (c : Copy) => c.req.bar == some b)
  || s.mats.any (fun (c : MatCmd) => c.bar == some b && !c.consumed)
  || (allSlots s).any (fun r => match (s.slot r).wait with | .copy q => q.bar == some b | _ => false)

/-- The register is idle (13 R279). -/
def barIdle (s : State) (b : BarId) (x : Barrier) : Bool :=
  x.arrmem == 0 && x.arrbytes == 0 && x.expbytes == 0
  && (allSlots s).all (fun r => (waitsOn (s.slot r) b).isNone)
  && !commandsName s b

/-! ## Batches -/

/-- Sealed batches of a lane that have not completed are at most 255 (13 R286). -/
def batchMax : Nat := 255

/-- Batch numbers run from 1 to 2^32 - 1 and wrap (13 R286). -/
def batchWrap : Nat := 2 ^ 32 - 1

/-- The number of the `c`-th seal. -/
def batchNum (c : Nat) : Nat := if c = 0 then 0 else (c - 1) % batchWrap + 1

/-- Which seal of a lane a number names, in a window of 2^31 behind the latest; none where the lane has not sealed it (13 R286). -/
def batchIndex (b : LaneBatch) (n : Nat) : Option Nat :=
  if n = 0 then some 0
  else if batchWrap < n then none
  else
    let d := (batchNum b.sealed + batchWrap - n) % batchWrap
    if d < 2 ^ 31 ∧ d < b.sealed then some (b.sealed - d) else none

def laneBatch (s : State) (g l : Nat) : LaneBatch := tabGet { sealed := 0, done := 0 } (s.gang g).batches l

def setLaneBatch (s : State) (g l : Nat) (b : LaneBatch) : State :=
  s.setGang g { s.gang g with batches := tabSet (s.gang g).batches l b }

/-- A command of batch `i` of a gang's lane; the gang that issued it is still the one at the place. -/
def copyOf (s : State) (g l : Nat) (c : Copy) : Bool :=
  c.gang == g && c.req.lane == l && (s.gang g).team == some c.team && (s.gang g).num == c.gangNum

/-- The lane's next batch is sealed and all its commands have completed (13 R286). -/
def batchDue (s : State) (g l : Nat) : Bool :=
  let b := laneBatch s g l
  b.done < b.sealed && s.copies.all (fun c => !(copyOf s g l c && c.batch == b.done + 1))

/-- A batch that is due completes next. -/
def batchCheck (s : State) (g l : Nat) : State := if batchDue s g l then s.before (.batchCompletion g l) else s

/-- A slot held at issue goes on past its word (18 R310, 13 R286). -/
def pastWord (s : State) (r : SlotRef) : State :=
  match (s.slot r).run with
  | some R => advance (s.setWait r .none) r (match R.words[R.pos]? with | some w => w.getLsbD 63 | none => false)
  | none => s.setWait r .none

/-- Slots of a gang whose batch has completed are released (06 R143, 13 R286). -/
def batchRelease (s : State) (g l : Nat) : State :=
  let d := (laneBatch s g l).done
  [false, true].foldl (fun s b =>
    let r : SlotRef := { gang := g, b }
    let X := s.slot r
    if X.mask = 0 then s
    else
      match X.wait with
      | .bwait l' n => if l' = l ∧ n ≤ d then pastWord s r else s
      | .seal l' => if l' = l ∧ (laneBatch s g l).sealed - d < batchMax then s.setWait r .none else s
      | .batch l' n => if l' = l ∧ n ≤ d then resume s r else s
      | _ => s) s

/-- A batch completes, in order (13 R286). -/
def batchComplete (s : State) (g l : Nat) : State :=
  if batchDue s g l then
    let b := laneBatch s g l
    let s := setLaneBatch s g l { b with done := b.done + 1 }
    batchCheck (batchRelease s g l) g l
  else s

/-! ## Watches -/

/-- WAITM's operand: space 0 to 4, bits above zero, a multiple of 8 (13 R288). -/
def watchOk (a : Nat) : Bool := fld a 60 4 == 0 && fld a 56 4 ≤ 4 && fld a 0 3 == 0

/-- The watched word as the slot's core reads it at its place; nothing where it does not translate (13 R288). -/
def watchRead (s : State) (r : SlotRef) (a : Nat) : State × Option Nat :=
  match bytesAt s r (fld a 56 4) (fld a 0 56) 8 .read with
  | (s, .inl _) => (s, none)
  | (s, .inr ks) => (s, some (bytesNat (ks.map (fun k => match k with
      | some k => dirtyByte s (coreOf r.gang) k
      | none => 0))))

/-- The scope of the acquire that a wake makes (13 R288). -/
def watchScope (a : Nat) : Scope :=
  match fld a 56 4 with
  | 0 => .t
  | 1 => .d
  | 2 => .d
  | _ => .y

/-- The watched word differs, or does not translate. -/
def watchDue (s : State) (r : SlotRef) : Bool :=
  match (s.slot r).wait with
  | .watch a v => (match (watchRead s r a).2 with | some x => x != v | none => true)
  | _ => false

/-- A slot that waits on a watch is released, as an acquire (13 R288). -/
def watchWake (s : State) (r : SlotRef) (spurious : Bool) : State :=
  match (s.slot r).wait with
  | .watch a v =>
    let x := watchRead s r a
    if spurious || (match x.2 with | some y => y != v | none => true) then
      resume (acquireScope x.1 (coreOf r.gang) (watchScope a)) r
    else x.1
  | _ => s

/-! ## Spawn bins -/

/-- The bin that takes a lane for a team and entry: the bound one with room, or a free one (01 R18). -/
def binFor (c : Core) (team entry : Nat) : Option Nat :=
  match firstBelow c.bins.length (fun i => match c.bins[i]? with
    | some b => b.bound && b.team == team && b.entry == entry
    | none => false) with
  | some i => (match c.bins[i]? with | some b => if b.lanes.length < 32 then some i else none | none => none)
  | none => firstBelow c.bins.length (fun i => match c.bins[i]? with | some b => !b.bound | none => false)

/-- The timer of a team's bins (19 R336). -/
def binTime (s : State) (team : Nat) : Nat :=
  match (s.team? team).bind (fun T => s.launch? T.launch) with
  | some L => if L.blk 4 40 24 = 0 then Config.binTimer else L.blk 4 40 24
  | none => Config.binTimer

/-- A lane enters a bin; the first binds it and starts its timer (01 R18, R19). -/
def enterBin (s : State) (core i team entry : Nat) (role : Role) (payload : BitVec 256) : State :=
  let c := s.core core
  match c.bins[i]? with
  | none => s
  | some b =>
    let b := if b.bound then b else { Bin.free with bound := true, team, entry, role, left := binTime s team }
    let b := { b with lanes := b.lanes ++ [payload] }
    let s := s.setCore core { c with bins := listSet c.bins i b }
    if b.lanes.length = 32 then s.after (.spawnedGangForms core i) else s

/-- The payload of a lane: `n` stitches from `start` (13 R289). -/
def payloadOf (L : Lane) (start n : Nat) : BitVec 256 := BitVec.ofNat 256 (L.rdAt start n)

/-- The lanes of a mask enter bins in ascending order while bins take them; the lanes that are left (13 R289). -/
def spawnLanes (s : State) (g entry n start : Nat) : List Nat → State × List Nat
  | [] => (s, [])
  | l :: ls =>
    let G := s.gang g
    let t := G.team.getD 0
    match binFor (s.core (coreOf g)) t entry with
    | some i => spawnLanes (enterBin s (coreOf g) i t entry G.role (payloadOf (G.lane l) start n)) g entry n start ls
    | none => (s, l :: ls)

/-- The lanes of a list. -/
def maskOfList (ls : List Nat) : Mask := maskOf (fun l => ls.contains l)

/-- A list in rising order of a key; of equal keys the earlier stands first. -/
def inOrder {α : Type} (key : α → Nat) (l : List α) : List α :=
  l.foldl (fun acc x => acc.filter (fun y => key y ≤ key x) ++ x :: acc.filter (fun y => key x < key y)) []

/-- The lanes whose SPAWNs wait for a bin of a core, by the number of their gang and then by lane (01 R19). Of gangs of two teams that have one number
the lanes stand together by lane, and of one lane the gang at the lower place goes first (DESIGN CHOICE, log 70: 01 R19 orders by gang and lane only). -/
def spawnWaits (s : State) (core : Nat) : List (SlotRef × Nat) :=
  inOrder (fun e => 64 * (s.gang e.1.gang).num + e.2) (((allSlots s).filter (fun r => coreOf r.gang == core)).flatMap (fun r =>
    match (s.slot r).wait with
    | .spawn _ _ _ left => (Mask.lanes left).map (fun l => (r, l))
    | _ => []))

/-- The SPAWNs of a core that wait for a bin go on (01 R18, R19). -/
def spawnRetry (s : State) (core : Nat) : State :=
  (spawnWaits s core).foldl (fun s e =>
    match (s.slot e.1).wait with
    | .spawn entry n start left =>
      let x := spawnLanes s e.1.gang entry n start [e.2]
      if !x.2.isEmpty then x.1
      else
        let left := left &&& ~~~(1#64 <<< e.2)
        if left = 0 then pastWord x.1 e.1 else x.1.setWait e.1 (.spawn entry n start left)
    | _ => s) s

/-- Gang slots of a core that no resident team holds, in ascending order. -/
def freeSlots (s : State) (core : Nat) : List Nat :=
  let held := s.teams.flatMap (fun e => e.2.regRuns.map (·.1))
  (List.range Config.gangSlots).filter (fun i => !held.contains (core * 64 + i))

/-- Gang slots held on a scheduler of a core. -/
def schedLoad (free : List Nat) (sched : Nat) : Nat := 12 - (free.filter (fun i => i / 12 == sched)).length

/-- The slot that a gang takes: the scheduler with the fewest gangs, ties to the lowest, and its lowest free slot (19 R342). -/
def pickSlot (free : List Nat) : Option Nat :=
  let order := (List.range 12).flatMap (fun n => (List.range 4).filter (fun k => schedLoad free k == n))
  match order.find? (fun k => free.any (fun i => i / 12 == k)) with
  | some k => free.find? (fun i => i / 12 == k)
  | none => none

/-- Granules of a core's register file in use. -/
def usedGranules (s : State) (core : Nat) : List (Nat × Nat) :=
  (s.teams.filter (fun e => e.2.core == core)).flatMap (fun e => e.2.regRuns.map (fun x => x.2))

/-- The first run of `n` granules below `top` that meets none in use (19 R342). -/
def firstFit (used : List (Nat × Nat)) (top n : Nat) : Option Nat :=
  firstBelow (top + 1 - n) (fun i => used.all (fun u => u.1 + u.2 ≤ i || i + n ≤ u.1))

/-- Granules of a full grant of a stitch count (19 R342). -/
def fullGrant (stitches : Nat) : Nat := (stitches + 63) / 64

/-- Stitches held in the register file for a grant (03 R68). -/
def boundOf (stitches grant : Nat) : Nat := if fullGrant stitches ≤ grant then stitches else 64 * (grant - 2)

/-- The backing base of gang `n` of team `i` (19 R343). -/
def backingBase (L : Launch) (i n : Nat) : Nat := (L.blk 7 0 56 + (64 * i + n) * (128 * ((L.stitch + 7) / 8))) % 2 ^ 56

/-- The lowest gang number at or above %ngang that no gang of the team has (01 R19). -/
def spawnNum (s : State) (t : Nat) (T : Team) : Nat :=
  (firstBelow 64 (fun i => T.ngang ≤ i && s.gangs.all (fun e => !(e.2.team == some t && e.2.num == i)))).getD 63

/-- Gangs of a team; a pair of width 64 counts as its two members (26 R409). -/
def gangCount (s : State) (t : Nat) : Nat :=
  ((s.gangs.filter (fun e => e.2.team == some t)).map (fun e => if e.2.width = 64 then 2 else 1)).sum

/-- What a bin needs to form its gang: lanes collected or time run out, a gang slot, granules, and fewer than 32 gangs (01 R19); no gang forms
in a team that is being saved or flushed (log 28). -/
def formable (s : State) (core i : Nat) : Option (Bin × Team × Launch × Nat × Nat) := do
  let b ← (s.core core).bins[i]?
  if b.bound && (b.due || b.lanes.length == 32) then
    let T ← s.team? b.team
    let L ← s.launch? T.launch
    let slot ← pickSlot (freeSlots s core)
    let run ← firstFit (usedGranules s core) Config.regGranules (fullGrant T.stitches)
    if gangCount s b.team < 32 && T.pre != .save && T.pre != .flush then some (b, T, L, slot, run) else none
  else none

/-- A spawned gang forms (01 R19): its lanes in order of arrival, payload from s0, everything else as at a start. -/
def formGang (s : State) (core i : Nat) : State :=
  match formable s core i with
  | none => s
  | some (b, T, L, slot, run) =>
    let n := spawnNum s b.team T
    let place := core * 64 + slot
    let m := maskOf (fun l => l < b.lanes.length)
    let lanes : Lanes := Vector.ofFn (fun j => match b.lanes[j.val]? with
      | some p => { Lane.reset with st := p.setWidth 4096 }
      | none => Lane.reset)
    let G : Gang := { Gang.blank with
      team := some b.team, num := n, role := b.role, lanes, a := Slot.at b.entry m none, age := s.now,
      live := m, bound := T.stitches, govb := backingBase L T.idx n }
    let s := s.setGang place G
    let s := s.updTeam b.team (fun T =>
      { T with spawned := T.spawned + 1, regRuns := T.regRuns ++ [(place, run, fullGrant T.stitches)] })
    let c := s.core core
    spawnRetry (s.setCore core { c with bins := listSet c.bins i Bin.free }) core

end Machine
end Sys2Proof
end

