-- ==== Sys2Proof/Machine/TileOps.lean ====
section
/-! DEFINITION. Tiles: their names (11 R230), the matrix commands in flight on them (11 R246), claims, grants, drops and recall queues (11
R234 to R238), registrations and the cast-off context (11 R240 to R245), forced strips and revocations (11 R246 to R249). -/

set_option Elab.async false

namespace Sys2Proof
namespace Machine

/-! ## Names -/

/-- The tile of quarter `q` of a core. -/
def quarterTile (core q : Nat) : Nat := core * 4 + q

/-- Vault extents follow the quarters in the numbering of tiles. -/
def extentBase : Nat := 2 ^ 20

/-- The tile of the vault extent that holds physical address `pa` of space 1. -/
def extentTile (pa : Nat) : Nat := extentBase + pa / 2 ^ 20

def isExtent (t : Nat) : Bool := extentBase ≤ t

/-- The physical address of an extent's first byte. -/
def extentPa (t : Nat) : Nat := (t - extentBase) * 2 ^ 20

/-- Twins whose vaults belong to a panel's. -/
def panelTwin (s : State) (panel twin : Nat) : Bool :=
  (List.range (nTwinOf (s.panel panel))).any (fun t => physTwin (s.panel panel) t == some twin)

/-- The extent is reserved as home cache (06 R130). -/
def homeCache (s : State) (panel t : Nat) : Bool := reservedExtent (s.panel panel) ((t - extentBase) % 256)

/-- The tile that an identifier names for a gang, with the extent's virtual address; none where the instructions report it as not
claimable (11 R230, R234). -/
def tileOf (s : State) (r : SlotRef) (id : Nat) : State × Option (Nat × Nat) :=
  let core := coreOf r.gang
  let place := fld id 0 56
  if fld id 56 4 ≠ 0 then (s, none)
  else if fld id 60 4 = 0 then
    if 8 ≤ place then (s, none)
    else (s, some (quarterTile (if bit place 2 then core / 2 * 2 + (1 - core % 2) else core) (place % 4), 0))
  else if fld id 60 4 = 1 then
    if place % 2 ^ 20 ≠ 0 then (s, none)
    else
      let ctx := (gangCtx s r).1
      let hit := match (s.core core).tlb.find? (fun e => e.covers ctx place) with
        | some e => some e
        | none => match walk s (dieOf core) ctx place with | .inr e => some e | .inl _ => none
      match hit with
      | none => (s, none)
      | some e =>
        let pa := keyAddr (e.key + (place - e.va))
        let t := extentTile pa
        let panel := (panelCore s core).1
        if e.space ≠ 1 ∨ pa % 2 ^ 20 ≠ 0 ∨ !panelTwin s panel ((t - extentBase) / 256) ∨ homeCache s panel t then (s, none)
        else (s, some (t, place))
  else (s, none)

/-! ## Holding -/

/-- A tile that its team has released is held no more (11 R238). -/
def Tile.released (x : Tile) : Bool := match x.passing with
  | some .release => true
  | some .done | some (.summary _) | some (.strip _) | some .revoke | none => false

/-- The team holds the tile, or the other team of its twin cluster does (11 R232); a tile that is being released is held no more (11
R238). -/
def tileHeld (s : State) (team : Nat) (t : Nat) : Bool :=
  let x := s.tile t
  !x.released &&
  match x.holder with
  | none => false
  | some h => h == team || (match s.team? team with | some T => T.partner == some h | none => false)

/-- The number of tiles of the kind of tile `t` held below a block, by teams saved out too (19 R335, 21 R367), but for `t` itself. -/
def heldBelow (s : State) (panel addr t : Nat) : Nat :=
  (s.tiles.filter (fun e => e.1 != t && isExtent e.1 == isExtent t && !e.2.released && (match e.2.holder.bind s.teamBody with
    | some T => (match s.launch? T.launch with
      | some L => L.panel == panel && (rcbPath s panel (rcbFuel s) L.rcb).any (fun (b : Rcb) => b.addr == addr)
      | none => false)
    | none => false))).length

/-- A grant of a tile would exceed a limit on the path from the team's leaf to the root (19 R335, 11 R234). -/
def tileOver (s : State) (T : Team) (t : Nat) : Bool :=
  match s.launch? T.launch with
  | none => false
  | some L => (rcbPath s L.panel (rcbFuel s) L.rcb).any (fun (b : Rcb) =>
      let lim := if isExtent t then b.limx else b.limq
      bit b.ovr (if isExtent t then 7 else 6) && lim != 0xFFFF && lim ≤ heldBelow s L.panel b.addr t)

/-- A matrix command uses the tile (11 R246). -/
def matUses (c : MatCmd) (t : Nat) : Bool :=
  if isExtent t then c.exts.any (fun e => extentBase + e.2 == t)
  else bit c.qmask (t % 4) && (c.core == t / 4 || (c.tw && c.core / 2 == t / 4 / 2))

/-- Matrix commands in flight on a tile (11 R246). -/
def tileBusy (s : State) (t : Nat) : Bool := s.mats.any (fun c => matUses c t)

/-! ## Contents -/

/-- Memory without the listed bytes of a run: they read as unlisted ones do. -/
def forget (m : Memory) (k n : Nat) : Memory := m.filter (fun c => !(k ≤ c.1 && c.1 < k + n))

/-- A tile's contents cleared (11 R237, 12 R256, R258): an extent reads as zero; a quarter holds zero weights with scale bytes 0x7F, a zero
slice and a clear record. -/
def clearTile (s : State) (t : Nat) : State :=
  if isExtent t then
    let k := memKey 1 (extentPa t)
    let s := s.unpoison k (2 ^ 20)
    { s with mem := forget s.mem k (2 ^ 20) }
  else
    let s := ((s.unpoison (wtKey t 0) (2 ^ 16)).unpoison (scKey t 0) (2 ^ 13)).unpoison (accKey (t / 4) (8192 * (t % 4))) (4 * 8192)
    let m := forget s.mem (wtKey t 0) (2 ^ 16)
    let m := forget m (scKey t 0) (2 ^ 13)
    let m := forget m (accKey (t / 4) (8192 * (t % 4))) (4 * 8192)
    ({ s with mem := m }).setQuarter t Quarter.cleared

/-! ## Results of claims -/

/-- p is true when S is 0, 1 or 9 (11 R235). -/
def claimOk (st : Nat) : Bool := st == 0 || st == 1 || st == 9

/-- The results of a waiting CLAIM are written and its slot goes on past it (11 R234, R235). -/
def claimLands (s : State) (r : SlotRef) (st sum : Nat) : State :=
  match (s.slot r).wait, (s.slot r).run with
  | .claim _ op lanes, some R =>
    let s := fixedEff s r R lanes (fun _ _ => [wrTo op.d st, .pr op.p (claimOk st)])
    let s := match (s.slot r).run with
      | some R => uniEff s r R op.ksum sum
      | none => s
    pastWord s r
  | _, _ => s

/-- Slots of a team that wait on a claim of a tile. -/
def claimants (s : State) (team t : Nat) : List SlotRef :=
  (allSlots s).filter (fun r => (s.gang r.gang).team == some team && (match (s.slot r).wait with
    | .claim t' _ _ => t' == t
    | _ => false))

/-- The value of late results of CLAIM.nb of a team on a tile, now known (10 R425). -/
def claimLate (s : State) (team t st sum : Nat) : State :=
  (allSlots s).foldl (fun s r =>
    let X := s.slot r
    if (s.gang r.gang).team != some team then s
    else
      match X.run with
      | none => s
      | some R => if R.lates.any (fun (l : Late) => l.kind == .claim t && l.val.isNone) then
          s.setRun r { R with lates := R.lates.map (fun (l : Late) =>
            if l.kind == .claim t && l.val.isNone then { l with val := some (st, claimOk st, sum) } else l) }
        else s) s

/-- Every claim of a team that waits on a tile ends with status `st`. -/
def endClaims (s : State) (team t st sum : Nat) : State :=
  (claimants s team t).foldl (fun s r => claimLands s r st sum) (claimLate s team t st sum)

/-! ## Queues -/

/-- Entries of a recall queue (11 R236). -/
def queueMax : Nat := 8

/-- A stands before B: higher priority, then earlier arrival (11 R236). -/
def TileReq.ahead (a b : TileReq) : Bool := b.prio < a.prio || (a.prio == b.prio && a.arr < b.arr)

/-- An entry put in its place; a team has one (11 R236). -/
def enqueue (q : List TileReq) (e : TileReq) : List TileReq :=
  if q.any (fun (x : TileReq) => x.team == e.team) then q
  else q.filter (fun (x : TileReq) => TileReq.ahead x e) ++ e :: q.filter (fun (x : TileReq) => !TileReq.ahead x e)

/-- Waiting claims enter while the queue has room, in order of arrival (11 R236). -/
def fillQueue : Nat → List TileReq → List TileReq → List TileReq × List TileReq
  | 0, q, w => (q, w)
  | _ + 1, q, [] => (q, [])
  | n + 1, q, e :: w => if q.length < queueMax then fillQueue n (enqueue q e) w else (q, e :: w)

def Tile.fill (x : Tile) : Tile :=
  let y := fillQueue x.waiting.length x.queue x.waiting
  { x with queue := y.1, waiting := y.2 }

/-- A team that holds tiles while saved out (21 R367). -/
def savedTeam (s : State) (team : Nat) : Bool := (s.team? team).isNone

/-- A recall that has not been delivered is withdrawn when the queue holds no entry (11 R236). -/
def Tile.calm (x : Tile) : Tile :=
  { x with rcall := match x.rcall with
    | .due n => if x.queue.isEmpty then .none else .due n
    | .none => .none
    | .run => .run }

/-- An entry whose grant keeps every tile-claim limit (19 R335). An entry that would not waits on (DESIGN CHOICE, log 65: 11 R234 gives a claim
that waits no ending for it). -/
def mayGrant (s : State) (t : Nat) (e : TileReq) : Bool :=
  match s.teamBody e.team with
  | some T => !tileOver s T t
  | none => true

/-- The entry to which a free tile goes: the claim that a revoked loan was for, or else the head of its queue (11 R234, R236); none while that one
may not be granted (log 65). -/
def nextGrant (s : State) (t : Nat) : Option TileReq :=
  let x := s.tile t
  (x.next.toList ++ x.fill.queue).head?.filter (mayGrant s t)

/-- What follows from a tile's state (11 R236, R241, R248): a free tile with a claim is granted; a negotiated one with a queue has its recall
come up, or is stripped where its holder has no registration; a loan with a claim is revoked, also one granted while others wait (DESIGN CHOICE, log 70:
11 R231 and R248 speak of a claim that arrives). -/
def pumpTile (s : State) (t : Nat) : State :=
  let x := s.tile t
  if x.passing.isSome then s
  else
    match x.holder with
    | none => if (nextGrant s t).isNone then s else s.before (.claimGrant t)
    | some h =>
      if x.cls == .neg then
        let x := x.fill.calm
        let s := s.setTile t x
        if x.queue.isEmpty then s
        else
          match x.rcall with
          | .due _ | .run => s
          | .none =>
            if (registered s h).isNone && !savedTeam s h then
              (s.setTile t { x with passing := some (.strip .noReg) }).before (.forcedStrip t .noReg)
            else { s.setTile t { x with rcall := .due s.nextCmd } with nextCmd := s.nextCmd + 1 }
      else if x.cls == .loan && !(x.queue.isEmpty && x.waiting.isEmpty) then s.setTile t { x with passing := some .revoke }
      else s

/-- The time for which a tile has been held is metered for its holder, saved out or not (11 R232, 23 R385); one that is being released is held no
more (11 R238). -/
def meterTile (s : State) (t : Nat) : State :=
  let x := s.tile t
  if x.passing = some .release then s
  else
    match x.holder.bind s.teamBody with
    | some T => (accrue s (some T.eff.meter) (if isExtent t then 2 else 1) (s.mclock - x.since)).setTile t { x with since := s.mclock }
    | none => s

/-- A tile granted to a claim (11 R237): cleared where it passes from another team, an acquire at .d for the claiming lanes. A waiting
claim ends with S = 0, or 9 with a summary; an entry of CLAIM.nb is left for TILEQ to report. A claim to which a revoked loan was to go, and which this
passes over, waits on. -/
def grantTile (s : State) (t : Nat) (e : TileReq) (summ : Option Nat) (report : Bool) : State :=
  let x := s.tile t
  let s := if x.last = some e.team then s else clearTile s t
  let s := s.setTile t { x with
    holder := some e.team, since := s.mclock, cls := e.cls, va := e.va, last := some e.team, rcall := .none, passing := none, next := none, summ := none,
    waiting := x.next.toList.filter (fun q => q.team != e.team) ++ x.waiting
    reports := if report && e.nb then x.reports.filter (fun p => p.1 != e.team) ++ [(e.team, summ.getD 0)] else x.reports }
  let s := match s.team? e.team with
    | some T => acquireScope s T.core .d
    | none => s
  let s := endClaims s e.team t (if summ.isSome then 9 else 0) (summ.getD 0)
  pumpTile s t

/-- A free tile goes to its next claim (11 R234, R236). -/
def grantNext (s : State) (t : Nat) : State :=
  let x := s.tile t
  if x.holder.isSome || x.passing.isSome then s
  else
    match nextGrant s t with
    | none => if x.queue.isEmpty && x.waiting.isEmpty then s.setTile t { x with summ := none } else s
    | some e =>
      if x.next = some e then grantTile s t e none false
      else
        let x := x.fill
        grantTile (s.setTile t { x with queue := x.queue.filter (fun q => q != e) }) t e x.summ true

/-- The claims of a team on a tile removed (11 R236, R238, R249, 21 R365). -/
def dropClaims (s : State) (t : Nat) (p : TileReq → Bool) : State :=
  let x := s.tile t
  if x.queue.any p || x.waiting.any p || x.next.any p then
    pumpTile (s.setTile t { x with queue := x.queue.filter (fun e => !p e), waiting := x.waiting.filter (fun e => !p e),
                                   next := if x.next.any p then none else x.next }) t
  else s

/-- The tile has left its holder: it is free (11 R236). -/
def freeTile (s : State) (t : Nat) (summ : Option Nat) : State :=
  let s := meterTile s t
  let x := s.tile t
  pumpTile (s.setTile t { x with holder := none, rcall := .none, passing := none, summ }) t

/-- A passing tile whose matrix commands have retired passes on (11 R238, R245). -/
def tilePasses (s : State) (t : Nat) : State :=
  if tileBusy s t then s
  else
    match (s.tile t).passing with
    | some .release => freeTile s t none
    | some .done => freeTile s t none
    | some (.summary a) => freeTile s t (some a)
    | some (.strip _) | some .revoke | none => s

/-- The cause that a strip's fault reports (21 R361). -/
def stripCause : StripWhy → Nat
  | .overrun => 15
  | .trap => 16
  | .refusal => 17
  | .noReg => 18
  | .privileged => 19

/-- A strip or revocation whose matrix commands have retired (11 R246, R248): cleared, marked for the former holder, free. The former holder stays
the last one, so that a grant to it clears nothing (11 R237). -/
def stripNow (s : State) (t cause : Nat) : State :=
  let x := s.tile t
  match x.holder with
  | none => s
  | some h =>
    let s := clearTile s t
    let x := { x with stripped := x.stripped.filter (fun p => p.1 != h) ++ [(h, cause, x.va)] }
    freeTile (s.setTile t x) t none

/-! ## The cast-off context -/

/-- A gang all of whose slots are free or at trace entries, none of them in a handler or trapped (11 R241, 18 R319). -/
def atEntries (G : Gang) : Bool :=
  [G.a, G.b].all (fun (X : Slot) => X.mask == 0 || (X.run.isNone && X.hnd.isNone && (match X.wait with
    | .trapped _ => false
    | _ => true)))

/-- The registrant gang at which the recall of a tile can start now: the first recall of its team, at a gang that stands at its entries (11
R241) and does not stop for a save, whose image holds the pending recall (21 R368). -/
def recallAt (s : State) (t : Nat) : Option (Nat × Reg) := do
  let h ← (s.tile t).holder
  let q ← registered s h
  let x ← recallFor s q.gang
  if x.1 = t ∧ atEntries (s.gang q.gang) ∧ !stopping s q.gang then some (q.gang, q) else none

/-- The events that move a tile on are due (11 R238, R241, R245, R246, R248, R234). -/
def tileDue (s : State) (t : Nat) (x : Tile) : Option Instr :=
  match x.passing with
  | some .release => if tileBusy s t then none else some (.tilePass t)
  | some .done => if tileBusy s t then none else some (.tilePass t)
  | some (.summary _) => if tileBusy s t then none else some (.tilePass t)
  | some (.strip w) => if tileBusy s t then none else some (.forcedStrip t w)
  | some .revoke => if tileBusy s t then none else some (.loanRevocation t)
  | none =>
    match x.holder with
    | none => if (nextGrant s t).isNone then none else some (.claimGrant t)
    | some h =>
      match x.rcall with
      | .due _ =>
        if (registered s h).isNone then (if savedTeam s h then none else some (.forcedStrip t .noReg))
        else if (recallAt s t).isSome then some (.recallDelivery t)
        else none
      | .none | .run => none

/-- A slot as the cast-off context sets it aside: it holds no buffers, and a watch is woken (11 R241, R242). -/
def setAside (X : Slot) : Slot :=
  { X with pair := false, wait := match X.wait with
    | .watch _ _ => .none
    | .undo => .none
    | w => w }

/-- The acquires of the spurious wakes with which the watches of a gang end at a recall (11 R241, 13 R288). -/
def wakeWatches (s : State) (g : Nat) (G : Gang) : State :=
  [G.a, G.b].foldl (fun s (X : Slot) => match X.wait with
    | .watch a _ => if X.mask = 0 then s else acquireScope s (coreOf g) (watchScope a)
    | _ => s) s

/-- The routine of a recall starts in slot A with every live lane (11 R242). -/
def startCastoff (s : State) (t : Nat) (G : Gang) (g : Nat) (q : Reg) : State :=
  let s := wakeWatches s g G
  let co : Castoff := { tile := t, a := setAside G.a, b := setAside G.b, preds := (G.lanes.toList.map (·.preds)),
                        fpsr := (G.lanes.toList.map (·.fpsr)), count := 0, bound := q.bound, depth := G.stack.length }
  let c := s.core (coreOf g)
  let s := s.setCore (coreOf g) { c with undoWait := c.undoWait.filter (fun r => r.gang != g) }
  let s := s.setGang g { G with
    a := { Slot.free with mask := G.live, entry := q.entry, stamp := G.a.stamp }, b := freed G.b, co := some co }
  s.setTile t { s.tile t with rcall := .run }

/-- The routine ends: what was set aside is restored, and its own entries are gone (11 R242). Of a trace abandoned in the routine's other slot the
pending results do not land, and what it wrote in a guarded trace stays (DESIGN CHOICE, log 59: 11 R245 abandons its lanes and says no more). -/
def endCastoff (s : State) (g : Nat) : State :=
  let G := s.gang g
  match G.co with
  | none => s
  | some co =>
    let lanes : Lanes := Vector.ofFn (fun i =>
      { G.lanes[i] with preds := (co.preds[i.val]?).getD 1, fpsr := (co.fpsr[i.val]?).getD 0 })
    let c := s.core (coreOf g)
    let s := s.setCore (coreOf g) { c with undoWait := c.undoWait.filter (fun r => r.gang != g) }
    s.setGang g { G with
      a := { co.a with stamp := G.a.stamp }, b := { co.b with stamp := G.b.stamp }, lanes,
      stack := G.stack.drop (G.stack.length - co.depth), co := none }

/-- The results of the plain traces of a gang's slots have returned, so that a routine can end as an at-issue trap ends a trace (03 R67, 11 R244). -/
def gangReturned (s : State) (g : Nat) : Bool :=
  [false, true].all (fun b => (s.slot { gang := g, b }).run.all (fun (R : Run) => R.hdr.guarded || returned s R))

/-- The slots of a routine that is to end issue no more until its results have returned (11 R244). -/
def stopRoutine (s : State) (g : Nat) : State :=
  [false, true].foldl (fun s b =>
    let r : SlotRef := { gang := g, b }
    let X := s.slot r
    if X.mask = 0 then s
    else
      match X.wait with
      | .trapped _ => s
      | _ => s.setSlot r { X with wait := .overrun }) s

/-- The routine ends as an overrun (11 R244): guarded traces in its slots are undone, what was set aside is restored, and the tile is
force-stripped for the reason given. -/
def abortCastoff (s : State) (g : Nat) (why : StripWhy) : State :=
  match (s.gang g).co with
  | none => s
  | some co =>
    let s := [false, true].foldl (fun s b =>
      let r : SlotRef := { gang := g, b }
      match (s.slot r).run with
      | some R => if R.hdr.guarded then restoreLanes s r R (s.slot r).mask else land s r R
      | none => s) s
    let s := endCastoff s g
    let x := s.tile co.tile
    if x.holder = (s.gang g).team then s.setTile co.tile { x with passing := some (x.passing.getD (.strip why)), rcall := .none }
    else s

/-- CODONE and COSUMM (11 R245): a release at .d for every routine lane, and the tile passes when its matrix commands have retired. -/
def castoffPass (s : State) (g : Nat) (p : Passing) : State :=
  match (s.gang g).co with
  | none => s
  | some co =>
    match releaseLanes s g (s.gang g).live .d with
    | (s, false) => s
    | (s, true) =>
    let s := endCastoff s g
    let x := s.tile co.tile
    if x.holder = (s.gang g).team then s.setTile co.tile { x with passing := some (x.passing.getD p) } else s

/-- Refusals left to a team in its window (11 R246). -/
def refusalsLeft (T : Team) : Nat := T.eff.refb - T.refusals

/-- COREFUSE (11 R245, R246): beyond the budget the tile is stripped; otherwise the refusal counts and every entry of the queue is
dropped. -/
def castoffRefuse (s : State) (g : Nat) : State :=
  match (s.gang g).co with
  | none => s
  | some co =>
    let team := (s.gang g).team.getD 0
    let isOver := match s.team? team with
      | some T => decide (T.eff.refb ≤ T.refusals)
      | none => false
    let s := endCastoff s g
    let x := s.tile co.tile
    if x.holder ≠ (s.gang g).team then s
    else if isOver then s.setTile co.tile { x with passing := some (x.passing.getD (.strip .refusal)), rcall := .none }
    else
      let s := s.updTeam team (fun T => { T with refusals := T.refusals + 1 })
      let s := s.setTile co.tile { x with queue := [], rcall := .none }
      pumpTile (x.queue.foldl (fun s (e : TileReq) => endClaims s e.team co.tile 5 0) s) co.tile

/-- Tiles that a team holds. -/
def tilesHeldBy (s : State) (team : Nat) : List Nat := (s.tiles.filter (fun e => e.2.holder == some team)).map (·.1)

/-- A team's tiles are released without clearing, its entries removed, its marks gone (11 R249). -/
def releaseTiles (s : State) (team : Nat) : State :=
  let s := (s.tiles.map (·.1)).foldl (fun s t => dropClaims s t (fun q => q.team == team)) s
  let s := { s with tiles := s.tiles.map (fun (e : Nat × Tile) => (e.1, { e.2 with
    stripped := e.2.stripped.filter (fun p => p.1 != team), reports := e.2.reports.filter (fun p => p.1 != team) })) }
  let s := s.updTeam team (fun T => { T with reg := none })
  (tilesHeldBy s team).foldl (fun s t =>
    let s := meterTile s t
    let x := s.tile t
    match x.passing with
    | some _ => s
    | none => s.setTile t { x with passing := some .release }) s

/-- A team's loans are revoked (11 R248). -/
def revokeLoans (s : State) (team : Nat) : State :=
  (tilesHeldBy s team).foldl (fun s t =>
    let x := s.tile t
    if x.cls == .loan && x.passing.isNone then s.setTile t { x with passing := some .revoke } else s) s

end Machine
end Sys2Proof
end

