-- ==== Sys2Proof/Machine/Trace.lean ====
section
/-! DEFINITION. Traces: fetching a trace and issuing its header (04 R77 to R83, R99, 18 R330, 20 R360, 24 R391), the landing of long-latency
results (03 R64), resolution (04 R88 to R94), the delivery of traps and ERET (18 R319 to R325). -/

set_option Elab.async false

namespace Sys2Proof
namespace Machine

/-! ## Fetch -/

/-- The header that a word holds, where it is a valid one (07 R160). -/
def headerOf (w : Nat) : Option Header := if opIsHeader (opOf w) then Header.ofWord w else none

/-- The code region in force for a slot (04 R99, 18 R322, 26 R400). -/
def codeRegion (s : State) (r : SlotRef) : Nat × Nat :=
  if sysMode s r then
    let c := s.core (coreOf r.gang)
    (c.sbase.toNat, c.slim.toNat)
  else
    match launchOf s r.gang with
    | some L => (fld (descWord L.desc 1) 0 56, fld (descWord L.desc 2) 0 56)
    | none => (0, 0)

/-- A word of code at an address: the word, or the cause and the detail of a fetch trap (04 R99, 20 R360; log 22). -/
def fetchWord (s : State) (r : SlotRef) (va : Nat) : State × ((Nat × Nat) ⊕ Nat) :=
  let g := codeRegion s r
  if 2 ^ 56 ≤ va then (s, .inl (7, 0))
  else if va % 8 ≠ 0 then (s, .inl (6, 0))
  else if va < g.1 ∨ g.2 < va + 8 then (s, .inl (7, 0))
  else
    let cx := gangCtx s r
    match translate s (coreOf r.gang) cx.1 va .fetch cx.2 none with
    | (s, .fault c) => (s, .inl (c, va))
    | (s, .ok _ k) => (s, .inr (s.mem.readN k 8))

/-- `n` words of code from an address. -/
def fetchWords (r : SlotRef) : Nat → State → Nat → State × ((Nat × Nat) ⊕ List Word64)
  | 0, s, _ => (s, .inr [])
  | n + 1, s, va =>
    match fetchWord s r va with
    | (s, .inl f) => (s, .inl f)
    | (s, .inr w) =>
      match fetchWords r n s (va + 8) with
      | (s, .inl f) => (s, .inl f)
      | (s, .inr ws) => (s, .inr (BitVec.ofNat 64 w :: ws))

/-- The trace cached by a core for an address of a context (18 R330). -/
def cachedTrace (s : State) (core ctx va : Nat) : Option TraceE := (s.core core).traces.find? (fun e => e.ctx == ctx && e.va == va)

/-- The word is the first of a JSEL (08 R165). -/
def isJsel (w : Word64) : Bool := opOf w.toNat == 0x00A

/-- The header at a slot's entry and the words that follow it, taken together (18 R330): those of the trace cache, where it holds the trace,
and of memory otherwise. -/
def fetchTrace (s : State) (r : SlotRef) : State × ((Nat × Nat) ⊕ (Header × List Word64)) :=
  let va := (s.slot r).entry
  match fetchWord s r va with
  | (s, .inl f) => (s, .inl f)
  | (s, .inr w) =>
    let hit := cachedTrace s (coreOf r.gang) (gangCtx s r).1 va
    match headerOf (match hit with | some e => (e.words.headD 0).toNat | none => w) with
    | none => (s, .inl (6, 0))
    | some h =>
      match fetchWords r (h.len + 1) s (va + 8) with
      | (s, .inl f) => (s, .inl f)
      | (s, .inr ws) =>
        let ws := match hit with | some e => e.words.tail | none => ws
        if isJsel ((ws[h.len]?).getD 0) then
          match fetchWord s r (va + 8 * (h.len + 2)) with
          | (s, .inl f) => (s, .inl f)
          | (s, .inr w2) => (s, .inr (h, ws.take (h.len + 1) ++ [((ws[h.len + 1]?).getD (BitVec.ofNat 64 w2))]))
        else (s, .inr (h, ws))

/-- A trace kept in a core's trace cache (18 R330), whose words arrive in a cycle. -/
def cacheTrace (s : State) (core ctx va : Nat) (words : List Word64) (ready : Nat) : State :=
  let c := s.core core
  if (cachedTrace s core ctx va).isSome then s
  else s.setCore core { c with traces := { ctx, va, words, ready } :: c.traces }

/-- The places of the words of the trace at a slot's entry. -/
def fetchKeys (s : State) (r : SlotRef) (n : Nat) : List Nat :=
  let cx := gangCtx s r
  (List.range n).filterMap (fun i => match (translate s (coreOf r.gang) cx.1 ((s.slot r).entry + 8 * i) .fetch cx.2 none).2 with
    | .ok _ k => some k
    | .fault _ => none)

/-- The trace at a slot's entry is brought into the core's trace cache: its words are taken now, and arrive from the farthest of their places (27 R422;
that the word of each place is taken as its fetch begins is a DESIGN CHOICE, log 6). The slot waits for them (19 R347). -/
def missTrace (s : State) (r : SlotRef) (h : Header) (ws : List Word64) : State :=
  let core := coreOf r.gang
  let ks := fetchKeys s r (ws.length + 1)
  let till := s.now + (ks.map (placeCycles s core)).foldl max 0
  let s := cacheTrace (ks.foldl useHome s) core (gangCtx s r).1 (s.slot r).entry (BitVec.ofNat 64 h.word :: ws) till
  s.setSlot r ((s.slot r).heldTill till 9)

/-- A word of the trace at a slot's entry, which the core's trace cache does not hold, or a table entry on the way to it, lies where a function of the
module is not ready: the header waits (27 R421). -/
def fetchUnready (s : State) (r : SlotRef) : Bool :=
  let va := (s.slot r).entry
  let cx := gangCtx s r
  let n := match (fetchTrace s r).2 with
    | .inr (_, ws) => ws.length
    | .inl _ => 0
  (cachedTrace s (coreOf r.gang) cx.1 va).isNone &&
  ((List.range (n + 1)).any (fun i => !walkReady s (coreOf r.gang) cx.1 (va + 8 * i) .fetch)
    || (fetchKeys s r (n + 1)).any (fun k => !placeReady s (coreOf r.gang) k))

/-! ## Header -/

/-- Undo buffers that the slots of a core hold (04 R83). -/
def pairsHeld (s : State) (core : Nat) : Nat :=
  ((s.gangs.filter (fun e => coreOf e.1 == core)).map (fun e => b2n e.2.a.pair + b2n e.2.b.pair)).sum

/-- A pair is free (04 R83). -/
def pairFree (s : State) (core : Nat) : Bool := pairsHeld s core < Config.undoBuffers

/-- A slot stops at the header that it is about to issue (24 R391). -/
def stopsHere (s : State) (r : SlotRef) (h : Header) : Bool :=
  let X := s.slot r
  let c := s.core (coreOf r.gang)
  let d := c.dbg.toNat
  let obj := fld c.dbgobj.toNat 0 56
  !sysMode s r && (s.gang r.gang).co.isNone && (s.gang r.gang).rebuild.isNone && !X.resumed && !X.pair &&
  match launchOf s r.gang with
  | none => false
  | some L => (bit d 12 || fld d 8 4 == L.vd) &&
      ((bit d 0 && h.stop)
       || (bit d 1 && (obj == 0 || obj == fld (descWord L.desc 1) 0 56)
           && c.bps.any (fun b => b.getLsbD 63 && fld b.toNat 0 20 == h.ord)))

/-- A plain header with a count that is not zero (04 R79). -/
def badPlain (h : Header) : Bool := !h.guarded && (h.grdn != 0 || h.bufn != 0 || h.wset != 0)

/-- A trace that has just begun. -/
def Run.start (h : Header) (words : List Word64) (born : Nat) : Run :=
  { hdr := h, words, pos := 0, failed := 0, alts := [], faults := [], pends := [], lates := [], undoRows := [], undoPF := [], store := [],
    nGrd := 0, nBuf := 0, rows := [], trapi := none, watch := none, idle := false, recld := [], born, back := 0, behind := 0, half := false, term := none }

/-- The header issues (04 R78). -/
def beginTrace (s : State) (r : SlotRef) (h : Header) (words : List Word64) : State :=
  let X := s.slot r
  let s := cacheTrace s (coreOf r.gang) (gangCtx s r).1 X.entry (BitVec.ofNat 64 (h.word) :: words) s.now
  let n := s.nextCmd
  issued ({ s with nextCmd := n + 1 }.setSlot r { X with run := some (Run.start h words n), resumed := false, pair := h.guarded }) r 1 1 (0, h.ord)

/-- A slot about to issue a header whose words have been taken: it stops, from the next cycle on, waits for an undo buffer behind those that wait already, traps, or
issues (24 R391, 04 R79, R83). -/
def headerIssue (s : State) (r : SlotRef) (h : Header) (words : List Word64) : State :=
  let X := s.slot r
  let core := coreOf r.gang
  let c := s.core core
  if stopsHere s r h then s.setSlot r ({ X with wait := .stopped }.heldTill (s.now + 1) 15)
  else if badPlain h then entryTrap s r 3 h.ord 0
  else if h.guarded && !X.pair && !(pairFree s core && c.undoWait.isEmpty) then
    (s.setSlot r { X with wait := .undo }).setCore core { c with undoWait := c.undoWait ++ [r] }
  else beginTrace s r h words

/-- A waiting slot at the head of its core's queue acquires a pair (04 R83). -/
def acquirePair (s : State) (r : SlotRef) : State :=
  let core := coreOf r.gang
  let c := s.core core
  match c.undoWait with
  | r' :: rest =>
    if r' = r ∧ pairFree s core then
      (s.setCore core { c with undoWait := rest }).setSlot r { s.slot r with wait := .none, pair := true }
    else s
  | [] => s

/-- The pending results of a parked slot land at the end of their switch group, once they have returned (03 R64); before an at-issue trap that
waits for them, they land and the trap is taken (03 R67). -/
def landGroup (s : State) (r : SlotRef) : State :=
  match (s.slot r).wait, (s.slot r).run with
  | .landing, some R => if returned s R then (land s r R).setWait r .none else s
  | .trapping cause off, some R => if returned s R then atIssueAt s r R cause off else s
  | _, _ => s

/-! ## Resolution -/

/-- An address of code a number of words from another; the program counter never wraps, so that what leaves the 2^56 bytes fails its fetch
(04 R99). -/
def pcAdd (a : Nat) (off : Int) : Nat := pat ((a : Int) + 8 * off) 64

/-- Lanes grouped by their targets, in the order of the lowest lane of each (04 R91). -/
def groupLanes : List (Nat × Nat) → List (Nat × Mask)
  | [] => []
  | (l, a) :: t =>
    let gs := groupLanes t
    let m := 1#64 <<< l
    match gs.find? (fun g => g.1 == a) with
    | some g => (a, m ||| g.2) :: gs.filter (fun g => g.1 != a)
    | none => (a, m) :: gs

/-- The address of the global offset table that the core holds for a gang (08 R167); the spec gives the service gang none (log 2). -/
def gotBase (s : State) (g : Nat) : State × Nat :=
  match launchOf s g with
  | some L => (s, fld (descWord L.desc 3) 0 56)
  | none => (s.openVal 56).2 |> fun s' => (s', (s.openVal 56).1)

/-- The number that bytes at an address of constant memory hold, read through the constant cache (06 R133), or the cause and the address of a
fault. Poison ends the team (27 R419). -/
def readConst (s : State) (r : SlotRef) (va n : Nat) : State × ((Nat × Nat) ⊕ Nat) :=
  let core := coreOf r.gang
  match bytesAt s r 5 va n .read with
  | (s, .inl f) => (s, .inl f)
  | (s, .inr ks) =>
    let s := match (ks.filterMap id).find? (constPoisoned s core) with
      | some k => consumed s (s.owner r.gang) k
      | none => s
    let x := ks.foldl (fun (a : State × List Byte) k => match k with
      | some k => let y := constLoad a.1 core k; (y.1, a.2 ++ [y.2])
      | none => (a.1, a.2 ++ [0])) (s, [])
    (x.1, .inr (bytesNat x.2))

/-- A fault of a lane at a word other than the one that issues: the terminator's (08 R167), or a record's that is found as its copy lands (06 R138). Of
two faults the one found earlier is kept, also where a RECLD's is found after one of a later word (DESIGN CHOICE, log 70: 04 R95 keeps the first and
does not say by which order). -/
def Run.faultAt (R : Run) (off l cause detail : Nat) : Run :=
  match tabFind R.faults l with
  | some _ => R
  | none => { R with faults := tabSet R.faults l { cause, off, detail } }

/-- The table read of JTAB and CALLT (08 R167): the trace with the lanes that fault, and the target of each other lane. Bits [63:56] of the table's
address in a slot are dropped, and the address of a slot or of an entry that passes 2^56 wraps (DESIGN CHOICE, log 59: 08 R167 says nothing of
either). -/
def tableTargets (s : State) (r : SlotRef) (R : Run) (off slot : Nat) (idx : Opnd) (pass : Mask) : State × Run × List (Nat × Nat) :=
  let ls := Mask.lanes pass
  if ls.isEmpty then (s, R, [])
  else
    let g := gotBase s r.gang
    match readConst g.1 r ((g.2 + 16 * slot) % 2 ^ 56) 16 with
    | (s, .inl (c, d)) => (s, ls.foldl (fun R l => R.faultAt off l c d) R, [])
    | (s, .inr w) =>
      let base := fld w 0 64
      let n := fld w 64 32
      if fld w 96 32 ≠ 0 ∨ base % 8 ≠ 0 then (s, ls.foldl (fun R l => R.faultAt off l 6 0) R, [])
      else
        ls.foldl (fun (a : State × Run × List (Nat × Nat)) l =>
          let e := ((a.1.gang r.gang).lane l).rd idx
          if n ≤ e then (a.1, a.2.1.faultAt off l 6 0, a.2.2)
          else
            match readConst a.1 r ((base + 8 * e) % 2 ^ 56) 8 with
            | (s, .inl (c, d)) => (s, a.2.1.faultAt off l c d, a.2.2)
            | (s, .inr t) => (s, a.2.1, a.2.2 ++ [(l, t)])) (s, R, [])

/-- The groups of the passing lanes and the primary continuation (04 R91). `at_` is the terminator's address, `tab` the targets of a table
read. -/
def termGroups (G : Gang) (t : Term) (at_ : Nat) (pass : Mask) (tab : List (Nat × Nat)) : List (Nat × Mask) × Option Nat :=
  let nxt := pcAdd at_ 1
  match t with
  | .next => ([(nxt, pass)], some nxt)
  | .jmp off => ([(pcAdd at_ off, pass)], some (pcAdd at_ off))
  | .jsel p a b j =>
    let m := maskOf (fun l => Mask.has pass l && (G.lane l).psrc p)
    ([(pcAdd at_ a, m), (pcAdd at_ b, pass &&& ~~~m)], some (pcAdd at_ j))
  | .jtab _ _ => (groupLanes tab, none)
  | .call off _ => ([(pcAdd at_ off, pass)], some nxt)
  | .callt _ _ => (groupLanes tab, some nxt)
  | .ret ra => (groupLanes ((Mask.lanes pass).map (fun l => (l, (G.lane l).rd ra))), none)
  | .exit => ([], none)
  | .yield off _ => ([(pcAdd at_ off, pass)], some (pcAdd at_ off))
  | .barw _ => ([(nxt, pass)], some nxt)
  | .eret | .codone | .cosumm _ | .corefuse => ([], none)

/-- The alternatives of the lanes that failed a guard, one group for each address, in the order of the GRDs (04 R88). Of several GRDs that name one
address, the first in which a lane has failed gives the group its place (DESIGN CHOICE, log 70: 04 R88 does not say which). -/
def altGroups : List (Nat × Mask) → List (Nat × Mask)
  | [] => []
  | (a, m) :: t =>
    let gs := altGroups t
    match gs.find? (fun g => g.1 == a) with
    | some g => (a, m ||| g.2) :: gs.filter (fun g => g.1 != a)
    | none => (a, m) :: gs

/-- What the group of passing lanes waits for at the continuation: a yield's batch or barrier (06 R143), a barrier (13 R279), a watched word
(13 R288), or the timer (18 R327). `inl` gives the cause of an at-issue trap at the terminator. -/
def passWait (s : State) (r : SlotRef) (R : Run) (t : Term) (pass : Mask) : Nat ⊕ Wait :=
  if pass = 0 then .inr .none
  else
    match t with
    | .yield _ (.batch k) =>
      let l := (Mask.lowest pass).getD 0
      (match batchIndex (laneBatch s r.gang l) (kreg s r k) with
       | some i => .inr (.batch l i)
       | none => .inl 5)
    | .yield _ (.barrier b ph) =>
      (match barOf s r.gang b with
       | some b => (match barGet s b with
         | some _ => .inr (.barrier b ph true)
         | none => .inl 5)
       | none => .inr .none)
    | .barw b =>
      (match barOf s r.gang b with
       | some b => (match barGet s b with
         | some x => .inr (.barrier b x.phase false)
         | none => .inl 5)
       | none => .inr .none)
    | .next | .jmp _ | .jsel .. | .jtab .. | .call .. | .callt .. | .ret _ | .exit | .eret | .codone | .cosumm _ | .corefuse =>
      match R.watch with
      | some (a, v) => .inr (.watch a v)
      | none => .inr (if R.idle then .idle else .none)

/-- What a trapped group reports from the fault of its lowest lane (04 R95, 18 R321). -/
def faultInfo (X : Slot) (R : Run) (m : Mask) : TrapInfo :=
  let f := ((Mask.lowest m).bind (tabFind R.faults)).getD { cause := 0, off := 0, detail := 0 }
  { cause := f.cause, ord := R.hdr.ord, off := f.off, kept := true, code := 0, detail := f.detail, resume := X.entry }

/-- Entries that a resolution would push (04 R88). -/
def pushes (n : Nat) (j : Option Nat) : Nat := (n - 1) + (if 2 ≤ n ∧ j.isSome then 1 else 0)

/-- Groups with lanes. -/
def live (gs : List (Nat × Mask × Wait)) : List (Nat × Mask × Wait) := gs.filter (fun (g : Nat × Mask × Wait) => g.2.1 != 0)

/-- The groups placed (04 R88): the slot takes the first, the others are pushed, the second on top; lanes that exit finish first. -/
def placeGroups (now : Nat) (G : Gang) (b : Bool) (gs : List (Nat × Mask × Wait)) (j : Option Nat) (exits : Mask) : Gang :=
  let X := G.slot b
  let two : Bool := 2 ≤ gs.length
  let id := G.nextTok
  let tok : Option Nat := match two, j with
    | true, some _ => some id
    | true, none => X.tok
    | false, _ => X.tok
  let G := match two, j with
    | true, some a => { G with nextTok := id + 1,
                               stack := .token id a (gs.foldl (fun (m : Mask) (g : Nat × Mask × Wait) => m ||| g.2.1) 0) 0 X.tok :: G.stack }
    | true, none => G
    | false, _ => G
  let G := match gs with
    | [] => G.setSlot b (freed X)
    | g :: _ => G.setSlot b (X.take g.1 g.2.1 tok g.2.2)
  let G := if exits = 0 then G else finishLanes now G exits
  { G with stack := (gs.drop 1).map (fun (g : Nat × Mask × Wait) => StackEntry.path g.1 g.2.1 tok g.2.2) ++ G.stack }

/-- Buffered instructions of a trace that have a passing lane (04 R100). -/
def drained (R : Run) (pass : Mask) : Nat := (((R.store.filter (fun (e : BufEntry) => Mask.has pass e.lane)).map (·.off)).eraseDups).length

/-- The slot that has resolved a trace: its next header issues in the next cycle, and only after a cycle for each buffered instruction that drains
(04 R100). -/
def drainHold (s : State) (r : SlotRef) (n : Nat) : State :=
  let X := (s.slot r).heldTill (s.now + 1) 1
  s.setSlot r (if n = 0 then X else X.heldTill (s.now + 1 + n) 8)

/-- Stitch operands that a terminator reads at its resolution (08 R165). -/
def Term.srcs : Term → List Opnd
  | .jtab _ idx | .callt _ idx => [idx]
  | .ret ra => [ra]
  | .next | .jmp _ | .jsel .. | .call .. | .exit | .yield .. | .barw _ | .eret | .codone | .cosumm _ | .corefuse => []

/-- The passing lanes' buffered entries performed in program order (04 R90). -/
def commit (s : State) (r : SlotRef) (R : Run) (pass : Mask) : State :=
  (R.store.filter (fun (e : BufEntry) => Mask.has pass e.lane)).foldl (fun s e => performEntry s r.gang e) s

/-- The link that CALL and CALLT write in the passing lanes (08 R168). -/
def writeLink (s : State) (r : SlotRef) (t : Term) (at_ : Nat) (pass : Mask) : State :=
  let o : Option Nat := match t with
    | .call _ o => some o.start
    | .callt _ o => some o.start
    | .next | .jmp _ | .jsel .. | .jtab .. | .ret _ | .exit | .yield .. | .barw _ | .eret | .codone | .cosumm _ | .corefuse => none
  match o with
  | none => s
  | some a =>
    let G := s.gang r.gang
    s.setGang r.gang { G with lanes := mapLanes pass (fun _ L => L.wr a 16 (pcAdd at_ 1)) G.lanes }

/-- The barrier at which a BARW arrives for its passing lanes (13 R279). -/
def arriveAt (s : State) (r : SlotRef) (t : Term) (pass : Mask) : State :=
  match t with
  | .barw b =>
    if pass = 0 then s
    else
      match barOf s r.gang b with
      | some b => wordArrive s r.gang pass b
      | none => s
  | .next | .jmp _ | .jsel .. | .jtab .. | .call .. | .callt .. | .ret _ | .exit | .yield .. | .eret | .codone | .cosumm _
  | .corefuse => s

/-! ## Trap frames -/

/-- The trap status word (18 R321). -/
def tcauseOf (t : TrapInfo) : Nat :=
  t.ord * 2 ^ 44 + t.off * 2 ^ 37 + b2n t.kept * 2 ^ 36 + t.code * 2 ^ 28 + t.cause

/-- The trap frame of one member of a gang (18 R320, 26 R409). -/
def frameBytes (G : Gang) (member : Nat) (t : TrapInfo) (m : Mask) : List Byte :=
  let lane (l : Nat) := G.lane (32 * member + l)
  (List.range 32).flatMap (fun l => natBytes 16 ((lane l).rdAt 0 32))
  ++ (List.range 8).flatMap (fun i => natBytes 8 (if member = 0 then ((G.k.toList[56 + i]?).getD 0).toNat else 0))
  ++ (List.range 32).flatMap (fun l => natBytes 4 (lane l).preds.toNat)
  ++ (List.range 32).flatMap (fun l => natBytes 4 (lane l).fpsr.toNat)
  ++ natBytes 8 (tcauseOf t) ++ natBytes 8 t.resume
  ++ natBytes 4 (fld m.toNat (32 * member) 32) ++ natBytes 4 0 ++ natBytes 8 t.detail ++ List.replicate 160 0

/-- Hardware gangs of a gang: two of a width-64 pair (26 R408). -/
def members (G : Gang) : Nat := if G.width = 64 then 2 else 1

/-- The address of a member's frame (18 R319, 26 R409). -/
def frameAddr (s : State) (g member : Nat) : Nat :=
  ((s.core (coreOf g)).tframe.toNat + 1024 * (gslotOf g + member)) % 2 ^ 56

/-- The key of a byte of a gang's trap frame, where it translates. -/
def frameKey (s : State) (g member off : Nat) : Option Nat :=
  match (mgmtXlate s (sysCtx (panelCore s (coreOf g)).1) ((frameAddr s g member + off) % 2 ^ 56) .write).2 with
  | .ok _ k => some k
  | .fault _ => none

/-- The bytes of a frame that hold a row from 0 to 3 of a lane carry the row's poison (03 R57, 27 R419). -/
def poisonFrame (s : State) (g : Nat) : State :=
  let G := s.gang g
  (List.range (32 * members G)).foldl (fun s l =>
    if ((G.lane l).poison.extractLsb' 0 4) = 0 then s
    else
      let ks := ((List.range 4).filter (G.lane l).poison.getLsbD).flatMap (fun n =>
        (List.range 4).filterMap (fun i => frameKey s g (l / 32) (16 * (l % 32) + 4 * n + i)))
      { s with poison := s.poison ++ ks.filter (fun k => !s.poison.contains k) }) s

/-- A row from 0 to 3 of a lane stands poisoned in its frame. -/
def frameRowBad (s : State) (g l n : Nat) : Bool :=
  !unspoilt s (coreOf g) && (List.range 4).any (fun i => (frameKey s g (l / 32) (16 * (l % 32) + 4 * n + i)).any (readPoisoned s (coreOf g)))

/-- Poison in the part of a gang's frames that reloads no row (27 R419). -/
def frameLost (s : State) (g : Nat) : Option Nat :=
  if unspoilt s (coreOf g) then none
  else (List.range (members (s.gang g))).findSome? (fun i =>
    ((List.range 0x154).filterMap (fun o => frameKey s g i (0x200 + o))).find? (readPoisoned s (coreOf g)))

/-- A double trap of a slot that is in a handler or on its way to one (18 R323): its team is ended. -/
def doubleTrap (s : State) (r : SlotRef) (first : TrapInfo) (cause detail : Nat) : State :=
  let X := s.slot r
  let h : Hnd := match X.hnd with
    | some h => h
    | none => { trap := first, mask := X.mask, tok := X.tok, depth := (s.gang r.gang).stack.length }
  (s.setSlot r { X with hnd := some h, run := none, pair := false,
                        wait := .trapped { cause, ord := noOrd, off := 0, kept := true, code := 0, detail, resume := X.entry } }).before
    (.teamEnd ((s.gang r.gang).team.getD 0) 49 detail)

/-- The functions that the frames of a gang need are ready (27 R421). -/
def framesReady (s : State) (g : Nat) (a : Acc) : Bool :=
  (List.range (members (s.gang g))).all (fun i => vaReady s (coreOf g) (sysCtx (panelCore s (coreOf g)).1) (frameAddr s g i) 1024 a)

/-- The address of the vector of a cause (18 R319). -/
def vectorAddr (s : State) (core cause : Nat) : Nat := ((s.core core).tvec.toNat + 8 * cause) % 2 ^ 56

/-- The functions that the delivery of a trap needs are ready (27 R421). -/
def deliveryReady (s : State) (r : SlotRef) : Bool :=
  match (s.slot r).wait with
  | .trapped t =>
    framesReady s r.gang .write && vaReady s (coreOf r.gang) (sysCtx (panelCore s (coreOf r.gang)).1) (vectorAddr s (coreOf r.gang) t.cause) 8 .read
  | _ => true

/-- The trapped group of a slot enters its handler (18 R319): the frame is written, the vector read, and the slot stands at the handler's
entry in system mode. It waits while the other slot runs a handler, and while a function that it needs is not ready (27 R421). -/
def deliverTrap (s : State) (r : SlotRef) : State :=
  let G := s.gang r.gang
  let X := s.slot r
  match X.wait with
  | .trapped t =>
    if isSvc r.gang ∨ X.mask = 0 ∨ X.hnd.isSome ∨ G.co.isSome ∨ (G.slot (!r.b)).hnd.isSome ∨ !deliveryReady s r then s
    else
      let core := coreOf r.gang
      let ctx := sysCtx (panelCore s core).1
      let w := (List.range (members G)).foldl (fun (a : State × Option (Nat × Nat)) i => match a.2 with
        | some f => (a.1, some f)
        | none => writeVa a.1 core ctx (frameAddr s r.gang i) (frameBytes G i t X.mask)) (s, none)
      (match w with
       | (s, some f) => doubleTrap s r t f.1 f.2
       | (s, none) =>
         let s := poisonFrame s r.gang
         match readVa s core ctx (vectorAddr s core t.cause) 8 with
         | (s, .inl f) => doubleTrap s r t f.1 f.2
         | (s, .inr bs) =>
           s.setSlot r { X with entry := bytesNat bs, run := none, wait := .none, pair := false, resumed := false,
                                hnd := some { trap := t, mask := X.mask, tok := X.tok, depth := G.stack.length } })
  | _ => s

/-- A lane reloaded from a frame (18 R325): rows 0 to 3 with their poison, the predicates and %fpsr; p0 and the reserved flag bits read as they
always do. -/
def reloadLane (bs : List Byte) (bad : Nat → Bool) (l : Nat) (L : Lane) : Lane :=
  let n (at_ len : Nat) : Nat := bytesNat ((bs.drop at_).take len)
  let L := L.wr 0 32 (n (16 * l) 16)
  { L with
    poison := L.poison ||| BitVec.ofNat 128 (bitsOf bad 4)
    preds := BitVec.ofNat 32 (n (0x240 + 4 * l) 4) ||| 1#32
    fpsr := BitVec.ofNat 32 (n (0x2C0 + 4 * l) 4) &&& 0x3F#32 }

/-- The frames of a gang as its handler left them, one for each member. -/
def readFrames (s : State) (r : SlotRef) : State × ((Nat × Nat) ⊕ List Byte) :=
  let core := coreOf r.gang
  let ctx := sysCtx (panelCore s core).1
  (List.range (members (s.gang r.gang))).foldl (fun (a : State × ((Nat × Nat) ⊕ List Byte)) i => match a.2 with
    | .inl f => (a.1, .inl f)
    | .inr bs =>
      match readVa a.1 core ctx (frameAddr s r.gang i) 1024 with
      | (s, .inl f) => (s, .inl f)
      | (s, .inr bs') => (s, .inr (bs ++ bs'))) (s, .inr [])

/-- ERET (18 R325): the frame is reloaded, the slot leaves system mode and takes the resume address with its trapped lanes and its token; its
other lanes are abandoned. Entries of the handler left on the stack, or a frame that cannot be read, make a double trap (18 R323, 21 R362); poison
that is no row's ends the team (27 R419). -/
def eret (s : State) (r : SlotRef) : State :=
  let X := s.slot r
  match X.hnd with
  | none => s
  | some h =>
    let s := flushReds s (fun d => d.gang == r.gang && Mask.has X.mask d.lane)
    if h.depth < (s.gang r.gang).stack.length then doubleTrap s r h.trap 4 0
    else
      match readFrames s r with
      | (s, .inl f) => doubleTrap s r h.trap f.1 f.2
      | (s, .inr bs) =>
        match frameLost s r.gang with
        | some k => consumed s (s.owner r.gang) k
        | none =>
        let G := s.gang r.gang
        let n (at_ len : Nat) : Nat := bytesNat ((bs.drop at_).take len)
        let fm : Mask := BitVec.ofNat 64 (n 0x350 4 + 2 ^ 32 * n (1024 + 0x350) 4)
        let lanes := mapLanes fm (fun l L => reloadLane (bs.drop (1024 * (l / 32))) (frameRowBad s r.gang l) (l % 32) L) G.lanes
        let k : KRegs := Vector.ofFn (fun i => if 56 ≤ i.val then BitVec.ofNat 64 (n (0x200 + 8 * (i.val - 56)) 8) else G.k[i])
        let m := fm &&& X.mask
        let X := { X with hnd := none }
        let X' : Slot := if m = 0 then freed X else X.take (n 0x348 8) m h.tok .none
        let G := { G with lanes, k }.setSlot r.b X'
        let gone := X.mask &&& ~~~fm
        let G := if gone = 0 then G else finishLanes s.now G gone
        settle (s.setGang r.gang G) r.gang

/-! ## The end of a trace -/

/-- The next recipe of a restored gang begins in slot A, or the slot takes up its saved state (21 R370). -/
def nextRecipe (G : Gang) : Gang :=
  match G.rebuild with
  | none => G
  | some b =>
    match b.todo with
    | (e, m) :: rest => { G with a := { Slot.free with mask := m, entry := e, stamp := G.a.stamp }, rebuild := some { b with todo := rest } }
    | [] => { G with a := { b.a with stamp := G.a.stamp }, rebuild := none }

/-- Faulted lanes in system mode, in a cast-off context or in a recipe (18 R323, 11 R244, 21 R370): the trap is not one for a handler. -/
def faultsHard (s : State) (r : SlotRef) (R : Run) (m : Mask) : State :=
  let X := s.slot r
  let s := if R.hdr.guarded then restoreLanes s r R X.mask else s
  takeTrap (s.setSlot r { s.slot r with run := none, wait := .none, pair := false }) r (faultInfo X R m)

/-- The functions that a trace's resolution needs are ready: for the table read of JTAB and CALLT, the frames of ERET, and what the releases of its
store buffer and those of BARW, CODONE and COSUMM write back (27 R421). -/
def resolveReady (s : State) (r : SlotRef) (R : Run) : Bool :=
  let table (off slot : Nat) (idx : Opnd) : Bool :=
    let s := (land s r R).setWait r .none
    ((tableTargets s r { R with pends := [], lates := [] } off slot idx ((s.slot r).mask &&& ~~~R.failed &&& ~~~R.faulted)).1.slot r).wait != .unready
  !releaseWaits s (coreOf r.gang) (R.store.filter (fun e => Mask.has ((s.slot r).mask &&& ~~~R.failed &&& ~~~R.faulted) e.lane)) &&
  match R.term with
  | some (.jtab slot idx, off) => table off slot idx
  | some (.callt slot idx, off) => table off slot idx
  | some (.eret, _) => framesReady s r.gang .read
  | some (.barw bar, _) => (barOf s r.gang bar).all (fun b => !releaseHeld s r.gang (s.slot r).mask (barScope b))
  | some (.codone, _) | some (.cosumm _, _) => !releaseHeld s r.gang (s.gang r.gang).live .d
  | _ => true

/-- The trace of a slot resolves (04 R88); it waits for a function that it needs and that is not ready (27 R421). -/
def resolve (s : State) (r : SlotRef) : State :=
  let X := s.slot r
  match X.wait, X.run with
  | .resolving, some R0 =>
    match R0.term with
    | none => s
    | some (t, off) =>
      if !(R0.landable && returned s R0) then s
      else if !resolveReady s r R0 then s.setWait r .unready
      else
        let s0 := s
        let s := land s r R0
        let R1 := { R0 with pends := [], lates := [] }
        let at_ := pcAdd X.entry off
        let frog := X.mask &&& R1.failed
        let trapm := (match R1.trapi with | some (_, m) => m | none => 0) &&& X.mask &&& ~~~frog &&& ~~~R1.faulted
        let pass0 := X.mask &&& ~~~frog &&& ~~~R1.faulted &&& ~~~trapm
        if readsPoison (s.gang r.gang) pass0 t.srcs then
          -- a terminator reads its stitches at its resolution (03 R57)
          match (s.gang r.gang).team with
          | some team => s0.before (.poisonConsumed team 0)
          | none => atIssueAt s r R1 48 off
        else
        let y : State × Run × List (Nat × Nat) := match t with
          | .jtab slot idx => tableTargets s r R1 off slot idx pass0
          | .callt slot idx => tableTargets s r R1 off slot idx pass0
          | .next | .jmp _ | .jsel .. | .call .. | .ret _ | .exit | .yield .. | .barw _ | .eret | .codone | .cosumm _ | .corefuse =>
            (s, R1, [])
        let s := y.1
        let R := y.2.1
        let faulted := X.mask &&& ~~~frog &&& R.faulted
        let pass := pass0 &&& ~~~faulted
        let hard : Bool := faulted != 0 && (sysMode s r || (s.gang r.gang).co.isSome || (s.gang r.gang).rebuild.isSome)
        if hard && (s.gang r.gang).rebuild.isSome then faultsHard s r R faulted
        else if (s.gang r.gang).rebuild.isSome then settle (s.setGang r.gang (nextRecipe (s.gang r.gang))) r.gang
        else
          match t with
          -- entries of the handler left on the stack trap at issue, before a deferred fault (21 R361, R362)
          | .eret => if hard && !X.hnd.any (fun h => h.depth < (s.gang r.gang).stack.length) then faultsHard s r R faulted else eret s r
          | .codone => if hard then faultsHard s r R faulted else settle (castoffPass s r.gang .done) r.gang
          | .cosumm k => if hard then faultsHard s r R faulted else settle (castoffPass s r.gang (.summary (kreg s r k))) r.gang
          | .corefuse => if hard then faultsHard s r R faulted else settle (castoffRefuse s r.gang) r.gang
          | .next | .jmp _ | .jsel .. | .jtab .. | .call .. | .callt .. | .ret _ | .exit | .yield .. | .barw _ =>
            -- an at-issue trap comes before a deferred fault, which is lost with the trace (21 R361)
            match passWait s r R t pass with
            | .inl c => atIssueAt s r R c off
            | .inr w =>
              let tg := termGroups (s.gang r.gang) t at_ pass y.2.2
              let cont := pcAdd at_ (match t with | .jmp o => o | _ => 1)
              let trapi : TrapInfo := { cause := 20, ord := R.hdr.ord, off := R.hdr.len, kept := true,
                                        code := (match R.trapi with | some (c, _) => c | none => 0), detail := 0, resume := cont }
              let gs := live ((X.entry, faulted, Wait.trapped (faultInfo X R faulted)) :: (cont, trapm, Wait.trapped trapi)
                :: (tg.1.map (fun g => (g.1, g.2, w)) ++ (altGroups R.alts).map (fun g => (g.1, g.2 &&& frog, Wait.none))))
              if Config.stackEntries < (s.gang r.gang).stack.length + pushes gs.length tg.2 then atIssueAt s r R 4 off
              else if hard then faultsHard s r R faulted
              else
                let s := commit s r R pass
                let s := if R.hdr.guarded then restoreLanes s r R (faulted ||| frog) else s
                let s := drainHold (writeLink s r t at_ pass) r (drained R pass)
                let exits : Mask := match t with | .exit => pass | _ => 0
                let s := s.setGang r.gang (placeGroups s.now (s.gang r.gang) r.b gs tg.2 exits)
                settle (arriveAt s r t pass) r.gang
  | _, _ => s

end Machine
end Sys2Proof
end

