-- ==== Sys2Proof/Machine/Memory.lean ====
section
/-! DEFINITION. The meanings of the memory words of groups 0x8 and 0x9 and of the landing of records (10 R205 to R222, 06 R138). -/

set_option Elab.async false

namespace Sys2Proof
namespace Machine

/-- What the rules of issue know of a memory word: it takes part in no fault-pending lane (04 R95), and may raise flags. -/
def memInfo (hd : Hd) (group : Nat) (srcs dsts : List Opnd) (ok : Bool) : WordInfo :=
  { WordInfo.plain hd group srcs dsts ok with memory := true, pf := true }

/-- A buffered word (04 R85). -/
def bufInfo (hd : Hd) (group : Nat) (srcs : List Opnd) (ok : Bool) : WordInfo := { memInfo hd group srcs [] ok with buffered := true }

/-- A memory word that may not stand in a guarded trace (04 R87). -/
def plainInfo (hd : Hd) (group : Nat) (srcs dsts : List Opnd) (ok : Bool) : WordInfo := { memInfo hd group srcs dsts ok with noGuard := true }

/-! ## Native loads and stores -/

/-- LD (10 R211). -/
def execLd (x : LdOp) (s : State) : Host.Outcome State Fault Refusal :=
  bodyWord (memInfo x.hd 8 [x.x] [x.v] (addrW x.x && scalarV x.v x.ty)) (nativeLoad x.v x.q x.x x.imm x.ty x.pol 1) s

/-- LDX (10 R211). -/
def execLdx (x : LdOp) (s : State) : Host.Outcome State Fault Refusal :=
  bodyWord (memInfo x.hd 8 [x.x] [x.v] (addrW x.x && vecCount x.v x.ty != 0))
    (nativeLoad x.v x.q x.x x.imm x.ty x.pol (vecCount x.v x.ty)) s

/-- ST (10 R211). -/
def execSt (x : StOp) (s : State) : Host.Outcome State Fault Refusal :=
  bodyWord (bufInfo x.hd 8 [x.x, x.v] (addrW x.x && scalarV x.v x.ty)) (nativeStore x.v x.q x.x x.imm x.ty x.mode 1) s

/-- STX (10 R211). -/
def execStx (x : StOp) (s : State) : Host.Outcome State Fault Refusal :=
  bodyWord (bufInfo x.hd 8 [x.x, x.v] (addrW x.x && vecCount x.v x.ty != 0))
    (nativeStore x.v x.q x.x x.imm x.ty x.mode (vecCount x.v x.ty)) s

/-- LDA (10 R219). -/
def execLda (x : ScMemOp) (s : State) : Host.Outcome State Fault Refusal :=
  bodyWord (plainInfo x.hd 8 [x.x] [x.v] (addrW x.x && x.v.w.stitches == x.ty.stitches)) (acquireLoad x.v x.q x.x x.imm x.ty x.sc false) s

/-- LDA with .rmt (10 R219, R220). -/
def execLdaRmt (x : ScMemOp) (s : State) : Host.Outcome State Fault Refusal :=
  bodyWord (plainInfo x.hd 8 [x.x] [x.v] (addrW x.x && x.v.w.stitches == x.ty.stitches)) (acquireLoad x.v x.q x.x x.imm x.ty x.sc true) s

/-- STL (10 R219). -/
def execStl (x : ScMemOp) (s : State) : Host.Outcome State Fault Refusal :=
  bodyWord (plainInfo x.hd 8 [x.x, x.v] [] (addrW x.x && x.v.w.stitches == x.ty.stitches)) (releaseStore x.v x.q x.x x.imm x.ty x.sc) s

/-! ## Records -/

/-- A slot made invalid (06 R138). -/
def dropRecord (s : State) (g q : Nat) : State :=
  match (s.gang g).team, recSlot s g q with
  | some t, some x => s.setRec t q { x with valid := false }
  | _, _ => s

/-- The fetch of a record issues (10 R209): the 32 bytes are read at one point, at their place but for the core's own dirty bytes, and the slot
is pending until the copy lands; the line's clean copies, which may be older, are given up (14 R293). That the read takes place as the word issues
is a DESIGN CHOICE (log 6). A record that needs a function which is not ready makes the word wait (27 R421). An address that is misaligned or does not translate faults in the reading lane and leaves the slot invalid. -/
def fetchRecord (s : State) (r : SlotRef) (R : Run) (q l va : Nat) : State :=
  match recSlot s r.gang q with
  | none => (s.openVal 8).2.setRun r (R.fault l 13 (s.openVal 8).1)
  | some x =>
    if va % 32 ≠ 0 then (dropRecord s r.gang q).setRun r (R.fault l 13 (recVersion x.body.toNat))
    else
      let cx := gangCtx s r
      if !walkReady s (coreOf r.gang) cx.1 va .read then s.setWait r .unready
      else
      match translate s (coreOf r.gang) cx.1 va .read cx.2 none with
      | (s, .fault c) => (dropRecord s r.gang q).setRun r (R.fault l c va)
      | (s, .ok _ k) =>
        match reached s r k with
        | (s, none) => s
        | (s, some k) =>
        let core := coreOf r.gang
        let keys := (List.range 32).map (k + ·)
        let s := flushLane s r.gang l (keys.map some)
        let p : RecReq := { slot := r, lane := l, off := R.pos + 1, key := k, copy := BitVec.ofNat 256 (bytesNat (keys.map (dirtyByte s core))),
                            bad := keys.any (placePoisoned s core), back := accessFrom s r.gang (1#64 <<< l) + placeCycles s core k }
        ((dropClean (useHome s k) core (lineOf k)).setRec ((s.gang r.gang).team.getD 0) q { x with pending := some p }).setRun r { R with recld := R.recld ++ [q] }

/-- RECLD (10 R209). -/
def execRecld (x : RecldOp) (s : State) : Host.Outcome State Fault Refusal :=
  bodyWord { plainInfo x.hd 8 [x.x] [] (wIs 16 x.x) with lowest := true } (fun s r R m =>
    if recPending s r.gang x.q then .wait (.record x.q)
    else
      match Mask.lowest m with
      | none => .done s
      | some l => .done (fetchRecord s r R x.q l (((s.gang r.gang).lane l).rd x.x % 2 ^ 56))) s

/-- RECORD_LANDING (06 R138, R139): the copy becomes the slot's contents, once it has returned (03 R425), and the words that wait for the slot go
on; a copy that fails its check leaves the slot invalid and faults in the lane that read it. A copy that fails leaves the old body, invalid, in the
slot (log 33). -/
def execRecordLanding (team q : Nat) (s : State) : Host.Outcome State Fault Refusal :=
  match s.team? team with
  | none => .next s
  | some T =>
    match T.recs[q]? with
    | none => .next s
    | some x =>
      match x.pending with
      | none => .next s
      | some p =>
        if s.now < p.back then .next s
        else
          let w := p.copy.toNat
          let good := recordOk w && !p.bad
          let s := (s.setRec team q { body := if good then p.copy else x.body, valid := good, pending := none }).wakeTeam team (.record q)
          let s := match (s.slot p.slot).run with
            | some R =>
              if R.recld.contains q && (s.gang p.slot.gang).team == some team then
                let R := { R with recld := R.recld.filter (· != q) }
                s.setRun p.slot (if good || p.bad then R else R.faultAt p.off p.lane 13 (recVersion w))
              else s
            | none => s
          .next (if p.bad then consumed s (some team) p.key else s)

/-- RECINV (10 R210). -/
def execRecinv (x : RecinvOp) (s : State) : Host.Outcome State Fault Refusal :=
  bodyWord (plainInfo x.hd 8 [] [] true) (fun s r _ m =>
    if recPending s r.gang x.q then .wait (.record x.q) else .done (if m = 0 then s else dropRecord s r.gang x.q)) s

/-! ## Prefetch and write-back -/

/-- PREF and CWB (10 R222): `f` acts on the line of each lane's element, by the record; no element, or no valid record, no effect. -/
def lineWord (x : PrefOp) (f : State → Nat → Nat → Nat → State) (s : State) (r : SlotRef) (m : Mask) : Eff :=
  if recPending s r.gang x.q then .wait (.record x.q)
  else
    match recSlot s r.gang x.q with
    | none => .done s
    | some slot =>
      let w := slot.body.toNat
      match slot.valid, efmtOf (recFmt w) with
      | true, some fm =>
        .done ((Mask.lanes m).foldl (fun s l =>
          match prefKey s r w fm (elemIndex ((s.gang r.gang).lane l) x.x x.imm) with
          | (s, some k) => f s (coreOf r.gang) k w
          | (s, none) => s) s)
      | _, _ => .done s

/-- PREF (10 R222). -/
def execPref (x : PrefOp) (s : State) : Host.Outcome State Fault Refusal :=
  bodyWord { memInfo x.hd 8 [x.x] [] (addrW x.x) with pf := false } (fun s r _ m =>
    lineWord x (fun s c k w => if recSpace w = 5 then fillCc s c k else if cacheable c k && allocates (recPolicy w) then fillLine s c k (recPolicy w) else s) s r m) s

/-- CWB (10 R222). -/
def execCwb (x : PrefOp) (s : State) : Host.Outcome State Fault Refusal :=
  bodyWord { plainInfo x.hd 8 [x.x] [] (addrW x.x) with pf := false } (fun s r _ m =>
    lineWord x (fun s c k w => if recSpace w != 5 && cacheable c k then cleanLine s c (lineOf k) else s) s r m) s

/-! ## Barord forms (10 R214, R215) -/

/-- A Barord load. -/
def barLd (space : Nat) (x : BarordOp) (s : State) : Host.Outcome State Fault Refusal :=
  bodyWord { memInfo x.hd 9 [x.a] [x.v] (addrW x.a && barordV x.v x.ty x.vec) with pf := false }
    (barordLoad space x.v x.a x.kb x.imm x.ty x.vec x.pol) s

/-- A Barord store. -/
def barSt (space : Nat) (x : BarordOp) (s : State) : Host.Outcome State Fault Refusal :=
  bodyWord { bufInfo x.hd 9 [x.a, x.v] (addrW x.a && barordV x.v x.ty x.vec) with pf := false }
    (barordStore space x.v x.a x.kb x.imm x.ty x.vec x.pol) s

/-- LDS. -/
def execLds (x : SpadOp) (s : State) : Host.Outcome State Fault Refusal :=
  bodyWord { memInfo x.hd 9 [x.a] [x.v] (addrW x.a && barordV x.v x.ty x.vec) with pf := false }
    (barordLoad 0 x.v x.a x.kb x.imm x.ty x.vec .record) s
/-- STS. -/
def execSts (x : SpadOp) (s : State) : Host.Outcome State Fault Refusal :=
  bodyWord { bufInfo x.hd 9 [x.a, x.v] (addrW x.a && barordV x.v x.ty x.vec) with pf := false }
    (barordStore 0 x.v x.a x.kb x.imm x.ty x.vec .record) s
/-- LDV. -/
def execLdv (x : BarordOp) (s : State) : Host.Outcome State Fault Refusal := barLd 1 x s
/-- STV. -/
def execStv (x : BarordOp) (s : State) : Host.Outcome State Fault Refusal := barSt 1 x s
/-- LDG. -/
def execLdg (x : BarordOp) (s : State) : Host.Outcome State Fault Refusal := barLd 2 x s
/-- STG. -/
def execStg (x : BarordOp) (s : State) : Host.Outcome State Fault Refusal := barSt 2 x s
/-- LDP. -/
def execLdp (x : BarordOp) (s : State) : Host.Outcome State Fault Refusal := barLd 3 x s
/-- STP. -/
def execStp (x : BarordOp) (s : State) : Host.Outcome State Fault Refusal := barSt 3 x s
/-- LDH. -/
def execLdh (x : BarordOp) (s : State) : Host.Outcome State Fault Refusal := barLd 4 x s
/-- STH. -/
def execSth (x : BarordOp) (s : State) : Host.Outcome State Fault Refusal := barSt 4 x s
/-- LDC. -/
def execLdc (x : BarordOp) (s : State) : Host.Outcome State Fault Refusal := barLd 5 x s

end Machine
end Sys2Proof
end

