-- ==== Sys2Proof/Machine/Atomics.lean ====
section
/-! DEFINITION. The meanings of the atomic, reduction and fence words of group 0xA, and of the arrival of reductions at their places (10 R221, R223
to R228). -/

set_option Elab.async false

namespace Sys2Proof
namespace Machine

/-- What an atomic writes of V: all of it, or its low half for cas (10 R224). -/
def atomDst (v : Opnd) (aop : Aop) (t : Ty) : Opnd :=
  match aop with
  | .cas => { v with w := if t.bits = 64 then .w16 else .w8 }
  | _ => v

/-- ATOM (10 R223 to R226). -/
def execAtom (x : AtomOp) (s : State) : Host.Outcome State Fault Refusal :=
  bodyWord (plainInfo x.hd 0xA [x.x, x.v] [atomDst x.v x.aop x.ty] (addrW x.x && atomV x.v x.aop x.ty))
    (nativeAtom x.aop x.v x.q x.x x.ty x.sc x.ord) s

/-- RED (10 R223, R227). -/
def execRed (x : RedOp) (s : State) : Host.Outcome State Fault Refusal :=
  bodyWord { bufInfo x.hd 0xA [x.x, x.v] (addrW x.x && atomV x.v x.aop x.ty) with pf := false }
    (nativeRed x.aop x.v x.q x.x x.ty x.sc x.rel x.ordm) s

/-- ATOMS (10 R223, R226). -/
def execAtoms (x : AtomsOp) (s : State) : Host.Outcome State Fault Refusal :=
  bodyWord (plainInfo x.hd 0xA [x.a, x.v] [atomDst x.v x.aop x.ty] (addrW x.a && atomV x.v x.aop x.ty))
    (spadAtom x.aop x.v x.a x.kb x.imm x.ty) s

/-- REDS (10 R223, R226). -/
def execReds (x : AtomsOp) (s : State) : Host.Outcome State Fault Refusal :=
  bodyWord { bufInfo x.hd 0xA [x.a, x.v] (addrW x.a && atomV x.v x.aop x.ty) with pf := false }
    (spadRed x.aop x.v x.a x.kb x.imm x.ty) s

/-- The cycle by which the dirty bytes of a core's L1, written back now, are at their places (10 R217, 27 R422). -/
def promotedBy (s : State) (core : Nat) : Nat :=
  s.now + (((s.core core).l1.filter (fun l => l.dirty != 0)).map (fun l => placeCycles s core (l.line * 128))).foldl max 0

/-- What a FENCE makes the later accesses of its lanes wait for (10 R221): with `.acq`, all of them for the earlier loads and ATOMs; with `.rel`, stores,
reductions and ATOMs for all earlier accesses; with `.ar`, loads for these too. -/
def fenceNotes (s : State) (g : Nat) (m : Mask) (rel acq : Bool) (sc : Scope) : State :=
  let G := s.gang g
  let loads := laneTill G.loads m
  let all := max (max loads (laneTill G.stores m)) (if rel && scopeWide sc then promotedBy s (coreOf g) else 0)
  s.setGang g { G with
    fence := if rel then laneNote s.now G.fence m all else G.fence
    acq := if acq then laneNote s.now G.acq m (if rel then all else loads) else G.acq }

/-- FENCE (10 R221). -/
def execFence (x : FenceOp) (s : State) : Host.Outcome State Fault Refusal :=
  bodyWord { plainInfo x.hd 0xA [] [] true with pf := false } (fun s r _ m =>
    let rel := match x.ord with | .rel | .ar => true | .acq | .none => false
    let acq := match x.ord with | .acq | .ar => true | .rel | .none => false
    if rel && releaseHeld s r.gang m x.sc then .wait .unready
    else
    let s := fenceNotes s r.gang m rel acq x.sc
    let s := if rel then (releaseLanes s r.gang m x.sc).1 else s
    .done (if acq && m != 0 then acquireScope s (coreOf r.gang) x.sc else s)) s

/-- The contributions that a bracketing names. -/
def RedTree.ids : RedTree → List Nat
  | .leaf i => [i]
  | .node l r => RedTree.ids l ++ RedTree.ids r

/-- The value of a bracketing and the flags of its merges (10 R225, R227). -/
def RedTree.value (aop : Aop) (t : Ty) (x : Nat → Nat) : RedTree → FRes
  | .leaf i => { v := x i, fl := 0 }
  | .node l r =>
    let a := RedTree.value aop t x l
    let b := RedTree.value aop t x r
    let c := atomOp aop t a.v b.v 0
    { v := c.v, fl := a.fl ||| b.fl ||| c.fl }

/-- Contributions that may be merged into one message (10 R227). -/
def mayMerge (a b : Redn) : Bool :=
  keyRegion a.key == 2 && a.key == b.key && mergeable a.aop && a.aop == b.aop && a.ty == b.ty && a.dom == b.dom && !a.ordm && !b.ordm

/-- No contribution that one of a message must follow is still on its way outside the message. -/
def inTurn (s : State) (ids : List Nat) (ds : List Redn) : Bool :=
  ds.all (fun d => (s.reds.takeWhile (fun e => e.id != d.id)).all (fun e => ids.contains e.id || !mustFollow e d))

/-- REDUCTION_APPLY (10 R206, R227, R228): a contribution, or a message merged from some, is applied at its place. A message that would read poison is
lost and ends every team that contributed (27 R420). -/
def execReductionApply (t : RedTree) (s : State) : Host.Outcome State Fault Refusal :=
  let ids := RedTree.ids t
  let ds := ids.filterMap (fun i => s.reds.find? (fun (d : Redn) => d.id == i))
  match ds with
  | [] => .next s
  | d :: rest =>
    if ds.length ≠ ids.length ∨ !ids.Nodup ∨ !rest.all (mayMerge d) ∨ !inTurn s ids ds then .next s
    else if rest.isEmpty then .next (applyRed s d)
    else
      let s := ds.foldl (fun s e => countRecv s e.team 1) { s with reds := s.reds.filter (fun e => !ids.contains e.id) }
      if s.poisonedIn d.key (d.ty.bits / 8) then .next (ds.foldl (fun s e => consumed s e.owner d.key) s)
      else
        let f := RedTree.value d.aop d.ty (fun i => ((ds.find? (fun (e : Redn) => e.id == i)).map (·.x)).getD 0) t
        let s := raiseRflag s d.dom f.fl
        let s := ds.foldl (fun s e => accrue s e.meter (spaceMeter e.key) (e.ty.bits / 8)) s
        .next (applyAtPlace s (ds.map (·.core)).eraseDups d.key d.aop d.ty f.v d.dom)

end Machine
end Sys2Proof
end

