-- ==== Sys2Proof/Machine/CopyOps.lean ====
section
/-! DEFINITION. The transfer unit: layout records (06 R140 to R142), boxes and operand words (13 R281 to R284), granules (13 R282, R426), their
landing (13 R285) and the batches and arrivals of commands (13 R285, R286). -/

set_option Elab.async false

namespace Sys2Proof
namespace Machine

/-! ## Layout records -/

def layVersion (w : Nat) : Nat := fld w 248 8
def layStride2 (w : Nat) : Nat := fld w 192 32
def layExt2 (w : Nat) : Nat := if fld w 160 24 = 0 then 1 else fld w 160 24
def layStride1 (w : Nat) : Nat := fld w 128 32
def laySwz (w : Nat) : Nat := fld w 122 3
def layOobFault (w : Nat) : Bool := fld w 120 2 == 1
def layFmt (w : Nat) : Nat := fld w 112 8
def layExt1 (w : Nat) : Nat := fld w 88 24
def layExt0 (w : Nat) : Nat := fld w 64 24
def laySpace (w : Nat) : Nat := fld w 56 4
def layBase (w : Nat) : Nat := fld w 0 56

/-- Bits of an element of a layout record; 8 where its code is reserved, which no accepted command has. -/
def layBits (w : Nat) : Nat := match efmtOf (layFmt w) with
  | some f => f.bits
  | none => 8

/-! ## Boxes -/

/-- Kinds of commands (22 R374). -/
def kCpy : Nat := 0
def kCpyg : Nat := 1
def kCpyrd : Nat := 2

/-- Scratchpad to memory (13 R281). -/
def CopyReq.out (q : CopyReq) : Bool := bit q.spw 63

/-- The scratchpad offset of box row 0. -/
def CopyReq.offset (q : CopyReq) : Nat := fld q.spw 0 20

/-- Elements of a box row, rows and planes (13 R281). -/
def CopyReq.w0 (q : CopyReq) : Nat := if q.kind = kCpyg then fld q.box0 24 24 else fld q.box1 0 24
def CopyReq.w1 (q : CopyReq) : Nat := if q.kind = kCpyg then fld q.box1 32 11 else fld q.box1 24 24
def CopyReq.w2 (q : CopyReq) : Nat := if q.kind = kCpyg then 1 else fld q.box1 48 16

/-- Box rows, and bytes of a box row. -/
def CopyReq.rows (q : CopyReq) : Nat := q.w1 * q.w2
def CopyReq.rowBytes (q : CopyReq) (bits : Nat) : Nat := q.w0 * bits / 8

/-- Bytes of the box (13 R282). -/
def CopyReq.bytes (q : CopyReq) (bits : Nat) : Nat := q.rows * q.rowBytes bits

/-- The array coordinates of element `j0` of box row `r` (06 R141, 13 R283); `idx` holds the rows of a gather. -/
def coords (q : CopyReq) (idx : List Nat) (j0 r : Nat) : Int × Int × Int :=
  (extS (fld q.box0 0 24) 24 + j0,
   if q.kind = kCpyg then (((idx[r]?).getD 0 : Nat) : Int) else extS (fld q.box0 24 24) 24 + (r % q.w1 : Nat),
   extS (fld q.box0 48 16) 16 + (if q.kind = kCpyg then 0 else (r / q.w1 : Nat)))

/-- The element lies in the array (06 R141). -/
def inArray (w : Nat) (c : Int × Int × Int) : Bool :=
  0 ≤ c.1 && c.1 < layExt0 w && 0 ≤ c.2.1 && c.2.1 < layExt1 w && 0 ≤ c.2.2 && c.2.2 < layExt2 w

/-- The bit address of an element in memory (06 R141). -/
def elemBits (w : Nat) (c : Int × Int × Int) : Nat :=
  pat (8 * (layBase w : Int) + c.1 * layBits w + 8 * (c.2.1 * layStride1 w + c.2.2 * layStride2 w)) 59

/-- The place of byte `o` of box row `r` in the scratchpad, before the wrap (06 R141). -/
def boxOffset (q : CopyReq) (w r o : Nat) : Nat :=
  q.offset + r * q.rowBytes (layBits w) + (o ^^^ (r % 2 ^ laySwz w * 16))

/-! ## Checks -/

/-- The record and the operand words of a command pass (06 R142, 13 R281, R284). A gather of more than 1,024 rows, or whose list is not at a multiple
of 4, fails as a malformed pair does (DESIGN CHOICE, log 59: 13 R281 gives the ranges and no fate). -/
def copyOk (q : CopyReq) (w : Nat) : Bool :=
  match efmtOf (layFmt w) with
  | none => false
  | some f =>
    let B := q.rowBytes f.bits
    let span := if laySwz w = 0 then 1 else 32 * 2 ^ (laySwz w - 1)
    fld w 224 24 == 0 && fld w 184 8 == 0 && fld w 125 3 == 0 && fld w 60 4 == 0
    && 1 ≤ laySpace w && laySpace w ≤ 5 && !(laySpace w == 5 && q.out)
    && fld w 120 2 ≤ 1 && laySwz w ≤ 3
    && layBase w % f.align == 0 && layStride1 w % f.align == 0 && layStride2 w % f.align == 0
    && B % span == 0
    && fld q.spw 20 43 == 0 && q.offset % 16 == 0 && q.offset % span == 0
    && (!f.packed || q.w0 * f.bits % 8 == 0)
    && q.rows * (q.w0 * f.bits) ≤ 8 * 2 ^ 20
    && (q.kind != kCpyg || (!q.out && fld q.box1 43 21 == 0 && fld q.box1 20 12 == 0 && fld q.box1 0 20 % 4 == 0 && q.w1 ≤ 1024))
    && (q.kind != kCpyrd || f == .ty q.ty)

/-- The translated page of a command that holds an address (13 R280). -/
def pageKey (pages : Tab Nat) (va : Nat) : Option Nat := (tabFind pages (va / 4096)).map (fun k => k + va % 4096)

/-- The access for which a command translates its pages; a reduction reads its destination too (20 R354). -/
def CopyReq.acc (q : CopyReq) : Acc := if !q.out then .read else if q.kind = kCpyrd then .readWrite else .write

/-- What touching an element at its check finds: nothing yet, or the cause and the detail of a fault. -/
def touch (s : State) (core : Nat) (cx : Nat × Bool) (q : CopyReq) (w : Nat) (pages : Tab Nat) (va : Nat) : State × ((Nat × Nat) ⊕ Tab Nat) :=
  match tabFind pages (va / 4096) with
  | some _ => (s, .inr pages)
  | none =>
    match translate s core cx.1 va q.acc cx.2 (some (laySpace w)) with
    | (s, .fault c) => (s, .inl (c, va))
    | (s, .ok _ k) => (s, .inr (tabSet pages (va / 4096) (k - va % 4096)))

/-- Every page that some elements of the box touch, or the fault of the first of them at fault (06 R142, 13 R280). -/
def touchElems (s : State) (core : Nat) (cx : Nat × Bool) (q : CopyReq) (w : Nat) (idx : List Nat) (es : List Nat) :
    State × ((Nat × Nat) ⊕ Tab Nat) :=
  es.foldl (fun (a : State × ((Nat × Nat) ⊕ Tab Nat)) n =>
    match a.2 with
    | .inl f => (a.1, .inl f)
    | .inr pages =>
      let c := coords q idx (n % q.w0) (n / q.w0)
      let b := elemBits w c
      if !inArray w c then (if layOobFault w then (a.1, .inl (12, b / 8)) else (a.1, .inr pages))
      else
        match touch a.1 core cx q w pages (b / 8) with
        | (s, .inl f) => (s, .inl f)
        | (s, .inr pages) => touch s core cx q w pages ((b + layBits w - 1) / 8 % 2 ^ 56)) (s, .inr [])

/-- Every page that the box touches, or the fault of the first element at fault in the box's linear order (06 R142, 13 R280). A command at fault
writes nothing and sets no dirty bit (20 R357). -/
def touchBox (s : State) (r : SlotRef) (q : CopyReq) (w : Nat) (idx : List Nat) : State × ((Nat × Nat) ⊕ Tab Nat) :=
  match touchElems s (coreOf r.gang) (gangCtx s r) q w idx (List.range (q.rows * q.w0)) with
  | (s', .inl f) => (if q.out then s else s', .inl f)
  | x => x

/-- The row indices of a gather from its list in an allocation of a core (13 R283). -/
def readIdx (s : State) (core base a : Nat) (q : CopyReq) : List Nat :=
  if q.kind = kCpyg then
    (List.range q.w1).map (fun j => bytesNat ((List.range 4).map (fun i =>
      ((spadByteKey core base a (fld q.box1 0 20 + 4 * j + i)).map s.mem.read).getD 0)))
  else []

/-! ## Granules -/

/-- The parts of a box byte: elements, with the bit of the byte at which each begins, its bits there and its own first bit. -/
def byteParts (bits o : Nat) : List (Nat × Nat × Nat × Nat) :=
  if bits < 8 then (List.range (8 / bits)).map (fun i => (o * 8 / bits + i, i * bits, bits, 0))
  else [(o / (bits / 8), 0, 8, 8 * (o % (bits / 8)))]

def Copy.w (c : Copy) : Nat := c.layout.toNat
def Copy.bits (c : Copy) : Nat := layBits c.w
def Copy.total (c : Copy) : Nat := c.req.bytes c.bits

/-- The first destination byte of box byte `t`: in memory, or in the scratchpad before the wrap (13 R282). A packed box byte whose elements fall in two
destination bytes belongs to the granule of its first element (DESIGN CHOICE, log 59: 13 R282 does not say). -/
def Copy.dst (c : Copy) (t : Nat) : Nat :=
  let B := c.req.rowBytes c.bits
  let r := t / B
  let o := t % B
  if c.req.out then
    match byteParts c.bits o with
    | (j0, _, _, sub) :: _ => (elemBits c.w (coords c.req c.idx j0 r) + sub) / 8 % 2 ^ 56
    | [] => 0
  else boxOffset c.req c.w r o

/-- The aligned 64-byte blocks of the destination, in the order in which the box's bytes meet them: a command's granules (13 R282). -/
def Copy.blocks (c : Copy) : List Nat := ((List.range c.total).map (fun t => c.dst t / 64)).eraseDups

/-- The box bytes of a granule. -/
def Copy.granule (c : Copy) (n : Nat) : List Nat :=
  match c.blocks[n]? with
  | some b => (List.range c.total).filter (fun t => c.dst t / 64 == b)
  | none => []

/-- The key of a scratchpad offset of a command's team: in the image, once the remap entry of a save is in force (21 R371). -/
def copySpadKey (s : State) (c : Copy) (o : Nat) : Option Nat :=
  match s.team? c.team with
  | none => none
  | some T =>
    match T.remap with
    | none => spadByteKey c.core (T.spadBase * 8192) T.scratch o
    | some a =>
      if o % spadWindow T.scratch < T.scratch then
        match (mgmtXlate s (sysCtx (panelCore s c.core).1) ((a + o % spadWindow T.scratch) % 2 ^ 56) .write).2 with
        | .ok _ k => some k
        | .fault _ => none
      else none

/-- The key, first bit and bits of a part in memory; nothing outside the array. -/
def Copy.memPart (c : Copy) (r : Nat) (p : Nat × Nat × Nat × Nat) : Option (Nat × Nat × Nat) :=
  let x := coords c.req c.idx p.1 r
  if !inArray c.w x then none
  else
    let b := elemBits c.w x + p.2.2.2
    (pageKey c.pages (b / 8 % 2 ^ 56)).map (fun k => (k, b % 8, p.2.2.1))

/-- The byte that a command reads for box byte `t`, and the key of poison that it meets. The unit writes back what its core holds dirty first
(13 R285). -/
def copyRead (s : State) (c : Copy) (t : Nat) : State × Nat × Option Nat :=
  let B := c.req.rowBytes c.bits
  let r := t / B
  let o := t % B
  if c.req.out then
    match copySpadKey s c (boxOffset c.req c.w r o) with
    | some k => (s, (s.mem.read k).toNat, if !s.poison.isEmpty && s.poisoned k then some k else none)
    | none => (s, 0, none)
  else
    (byteParts c.bits o).foldl (fun (a : State × Nat × Option Nat) p =>
      match c.memPart r p with
      | none => a
      | some (k, sh, n) =>
        let s := useHome (if cacheable c.core k then cleanLine a.1 c.core (lineOf k) else a.1) k
        (s, a.2.1 + fld (s.mem.read k).toNat sh n * 2 ^ p.2.1, if !s.poison.isEmpty && s.poisoned k then some k else a.2.2)) (s, 0, none)

/-- A byte of memory written by the unit: the core's own copy of the line is given up first (13 R285). -/
def unitPut (s : State) (core key : Nat) (mask val : Byte) : State :=
  (if cacheable core key then evictLine s core (lineOf key) else s).put key mask val

/-- A box byte written at its destination (13 R282). -/
def copyWrite (s : State) (c : Copy) (t v : Nat) : State :=
  let B := c.req.rowBytes c.bits
  let r := t / B
  let o := t % B
  if c.req.out then
    (byteParts c.bits o).foldl (fun s p =>
      match c.memPart r p with
      | none => s
      | some (k, sh, n) => unitPut s c.core k (BitVec.ofNat 8 ((2 ^ n - 1) * 2 ^ sh)) (BitVec.ofNat 8 (fld v p.2.1 n * 2 ^ sh))) s
  else
    match copySpadKey s c (boxOffset c.req c.w r o) with
    | some k => s.put k 0xFF (BitVec.ofNat 8 v)
    | none => s

/-- The reductions of a command's granules travel to space 2 as messages of their own (13 R284); no gang's place is as great. -/
def copyGang (id : Nat) : Nat := 2 ^ 40 + id

/-- A command whose reductions travel as messages: CPYRD to space 2. -/
def Copy.byRed (c : Copy) : Bool := c.req.kind == kCpyrd && c.req.out && laySpace c.w == 2

/-- The elements that begin in a granule, by their first box byte. -/
def Copy.elems (c : Copy) (n : Nat) : List Nat := (c.granule n).filter (fun t => t % (c.bits / 8) == 0)

/-- The element at box byte `t` lies in the array. -/
def Copy.inside (c : Copy) (t : Nat) : Bool :=
  let B := c.req.rowBytes c.bits
  inArray c.w (coords c.req c.idx (t % B / (c.bits / 8)) (t / B))

/-- The source element at box byte `t`, with the key of poison that it meets. -/
def copyElem (s : State) (c : Copy) (t : Nat) : State × Nat × Option Nat :=
  (List.range (c.bits / 8)).foldl (fun (a : State × Nat × Option Nat) i =>
    let x := copyRead a.1 c (t + i)
    (x.1, a.2.1 + x.2.1 * 2 ^ (8 * i), if a.2.2.isSome then a.2.2 else x.2.2)) (s, 0, none)

/-- The fault domain of a command's team. -/
def copyDom (s : State) (c : Copy) : Nat := match s.team? c.team with
  | some T => teamDom s T
  | none => 0

/-- The context of a command's team. -/
def copyCtx (s : State) (c : Copy) : Nat :=
  match (s.team? c.team).bind (fun (T : Team) => s.launch? T.launch) with
  | some L => ctxId L.panel L.vd
  | none => sysCtx (panelCore s c.core).1

/-- A command that consumed poison: it delivers nothing, arrives nowhere, and its team is ended (27 R419, R420). -/
def copyPoison (s : State) (c : Copy) (k : Nat) : State :=
  consumed { s with copies := s.copies.map (fun d => if d.id = c.id then { d with req := { d.req with bar := none } } else d) } (some c.team) k

/-- One element of a CPYRD applied at its destination (13 R284). -/
def copyApply (s : State) (c : Copy) (t x : Nat) : State :=
  let B := c.req.rowBytes c.bits
  let n := c.bits / 8
  if c.req.out then
    match c.memPart (t / B) (t % B / n, 0, 8, 0) with
    | none => s
    | some (k, _, _) =>
      let s := if cacheable c.core k then evictLine s c.core (lineOf k) else s
      if s.poisonedIn k n then copyPoison s c k
      else applyAtPlace s [] k c.req.aop c.req.ty x (copyDom s c)
  else
    let keys := (List.range n).map (fun i => copySpadKey s c (boxOffset c.req c.w (t / B) (t % B + i)))
    match (keys.filterMap id).find? s.poisoned with
    | some k => copyPoison s c k
    | none =>
    let a := atomAt s keys c.req.aop c.req.ty x 0
    raiseRflag a.1 (copyDom s c) a.2.2

/-- The reductions that a granule of a CPYRD to space 2 sends (13 R284). -/
def sendReds (s : State) (c : Copy) (n : Nat) : State :=
  (c.elems n).foldl (fun s t =>
    if !c.inside t then s
    else
      let B := c.req.rowBytes c.bits
      let x := copyElem s c t
      match x.2.2, c.memPart (t / B) (t % B / (c.bits / 8), 0, 8, 0) with
      | some k, _ => copyPoison x.1 c k
      | none, some (k, _, _) =>
        let s := countSent (if cacheable c.core k then evictLine x.1 c.core (lineOf k) else x.1) (some c.team) 1
        { s with
          reds := s.reds ++ [{ id := s.nextCmd, core := c.core, gang := copyGang c.id, lane := n, team := some c.team, dom := copyDom s c,
                               key := k, aop := c.req.aop, ty := c.req.ty, x := x.2.1, ordm := false,
                               meter := (s.team? c.team).map (fun (T : Team) => T.eff.meter), ctx := copyCtx s c, link := linkOf s c.core k }]
          nextCmd := s.nextCmd + 1 }
      | none, none => s) s

def findCopy (s : State) (id : Nat) : Option Copy := s.copies.find? (fun (c : Copy) => c.id == id)

def setCopy (s : State) (x : Copy) : State := { s with copies := s.copies.map (fun c => if c.id = x.id then x else c) }

/-- The keys of memory that a granule reaches. -/
def granulePlaces (c : Copy) (n : Nat) : List Nat :=
  let B := c.req.rowBytes c.bits
  ((c.granule n).flatMap (fun t => (byteParts c.bits (t % B)).filterMap (fun p => (c.memPart (t / B) p).map (·.1)))).eraseDups

/-- The functions that the next granule of a command needs are ready (27 R421). -/
def granuleReady (s : State) (c : Copy) : Bool := (granulePlaces c c.requested).all (placeReady s c.core)

/-- The destination bytes of a granule of a copy. -/
def copyKeys (s : State) (c : Copy) (n : Nat) : List Nat :=
  if s.poison.isEmpty then []
  else
    let B := c.req.rowBytes c.bits
    (c.granule n).flatMap (fun t =>
      if c.req.out then (byteParts c.bits (t % B)).filterMap (fun p => (c.memPart (t / B) p).map (·.1))
      else (copySpadKey s c (boxOffset c.req c.w (t / B) (t % B))).toList)

/-- The destination bytes that a granule writes whole. -/
def copyCover (s : State) (c : Copy) (n : Nat) : List Nat :=
  let ks := copyKeys s c n
  if c.req.out && c.bits < 8 then ks.filter (fun k => ks.count k * c.bits == 8) else ks

/-- A granule's effect as it lands (13 R282 to R285): bytes copied or zero-filled, or elements reduced. -/
def landBytes (s : State) (c : Copy) (n : Nat) : State :=
  if c.byRed then flushReds s (fun d => d.gang == copyGang c.id && d.lane == n)
  else if c.req.kind = kCpyrd then
    (c.elems n).foldl (fun s t =>
      if !c.inside t then s
      else
        let x := copyElem s c t
        match x.2.2 with
        | some k => copyPoison x.1 c k
        | none => copyApply x.1 c t x.2.1) s
  else
    let cover := copyCover s c n
    match (copyKeys s c n).find? (s.loses cover) with
    | some k => copyPoison s c k
    | none =>
    (c.granule n).foldl (fun s t =>
      let x := copyRead s c t
      match x.2.2 with
      | some k => copyPoison x.1 c k
      | none => copyWrite x.1 c t x.2.1) s

/-- A part of a box byte lies in the array. -/
def Copy.holds (c : Copy) (t : Nat) : Bool :=
  let B := c.req.rowBytes c.bits
  (byteParts c.bits (t % B)).any (fun p => (c.memPart (t / B) p).isSome)

/-- The bytes of a granule metered for its team: those in the array once in their memory space, and those of them in the allocation once in space 0
(23 R385); reductions count at their places. -/
def meterGranule (s : State) (c : Copy) (n : Nat) : State :=
  let id := (s.team? c.team).map (fun (T : Team) => T.eff.meter)
  let B := c.req.rowBytes c.bits
  let ts := (c.granule n).filter c.holds
  let a := (s.team? c.team).elim 0 (fun (T : Team) => T.scratch)
  let near := ts.filter (fun t => boxOffset c.req c.w (t / B) (t % B) % spadWindow a < a)
  accrue (accrue s id (3 + laySpace c.w) (if c.byRed then 0 else ts.length)) id 3 near.length

/-- A granule lands (13 R285, R426): its effect, then its bytes at the command's team barrier. One that a peer's window refuses has none, and the
team is ended (27 R417); reductions of the same flow go before it (27 R416), and once one of the team's writes has been lost it has no effect and arrives
nowhere (27 R420). -/
def landGranule (s : State) (id n : Nat) : State :=
  match findCopy s id with
  | none => s
  | some c =>
    if c.requested ≤ n ∨ c.landed.contains n then s
    else
      let ks := granulePlaces c n
      let s := flushReds s (fun d => ks.any (fun k => sameFlow c.core k d))
      let s := match ks.find? (peerRefuses s) with
        | some k => storageError (setCopy s { c with req := { c.req with bar := none } }) (some c.team) (keyAddr k)
        | none =>
          if doomed s (some c.team) then setCopy s { c with req := { c.req with bar := none } }
          else
            let s := landBytes s c n
            if doomed s (some c.team) then s else meterGranule s c n
      let s := countRecv s (some c.team) 1
      match findCopy s id with
      | none => s
      | some c =>
        let s := setCopy s { c with landed := c.landed ++ [n] }
        match c.req.bar with
        | some b => barArrive s b 0 (c.granule n).length
        | none => s

/-- The remap entry of the team's save is in force, and its copies send no more requests (21 R367, 22 R375). -/
def copyStopped (s : State) (c : Copy) : Bool := match s.team? c.team with
  | some T => T.remap.isSome
  | none => false

/-- The command whose granule a core's unit requests next (13 R426). -/
def nextRequest (s : State) (core : Nat) : Option Copy :=
  s.copies.find? (fun (c : Copy) => c.core == core && !copyStopped s c && c.requested < c.blocks.length && granuleReady s c)

/-- A granule requested (13 R426). One that lies at a peer is performed at once, in its place in the flow (27 R416; log 17). -/
def requestGranule (s : State) (core : Nat) : State :=
  match nextRequest s core with
  | none => s
  | some c =>
    let s := setCopy s { c with requested := c.requested + 1 }
    if c.byRed then sendReds s c c.requested
    else if laySpace c.w = 3 then s.before (.granuleLand c.id c.requested)
    else s

/-- The command has completed (13 R285). -/
def copyDone (c : Copy) : Bool := c.landed.length == c.blocks.length

/-- A command completes: it leaves the unit and arrives at its barrier as one member (13 R285). -/
def completeCopy (s : State) (c : Copy) : State :=
  let s := { s with copies := s.copies.filter (fun d => d.id != c.id) }
  let s := match c.req.bar with
    | some b => barArrive s b 1 0
    | none => s
  let s := if copyOf s c.gang c.req.lane c then batchCheck s c.gang c.req.lane else s
  checkRetire s c.team

/-- The first granule that is requested and has not landed. -/
def Copy.inFlight (c : Copy) : Option Nat := (List.range c.requested).find? (fun n => !c.landed.contains n)

/-- The event of the transfer units that is due (13 R426, R285). -/
def copyDue (s : State) : Option Instr :=
  s.copies.findSome? (fun (c : Copy) =>
    if copyDone c then some (.copyCompletion c.id)
    else match c.inFlight with
      | some n => some (.granuleLand c.id n)
      | none => if copyStopped s c || !granuleReady s c then none else some (.granuleRequest c.core))

/-- A command that has written nothing yet (13 R287): no granule has landed, and no reduction that it sent has been performed. -/
def unbegun (s : State) (c : Copy) : Bool :=
  c.landed.isEmpty && (!c.byRed ||
    ((List.range c.requested).map (fun n => ((c.elems n).filter c.inside).length)).sum
      == (s.reds.filter (fun d => d.gang == copyGang c.id)).length)

/-- A command withdrawn (13 R287): it leaves the unit, counts its full bytes and arrives. -/
def withdrawCopy (s : State) (c : Copy) : State :=
  let reds := s.reds.filter (fun d => d.gang == copyGang c.id)
  let s := countRecv { s with copies := s.copies.filter (fun d => d.id != c.id), reds := s.reds.filter (fun d => d.gang != copyGang c.id) }
    (some c.team) (reds.length + c.blocks.length)
  match c.req.bar with
  | some b => barArrive s b 1 c.total
  | none => s

end Machine
end Sys2Proof
end

