-- ==== Sys2Proof/Machine/Barriers.lean ====
section
/-! DEFINITION. The meanings of the barrier words, WAITM, DRAIN and SPAWN, and of their events (13 R274 to R279, R288, R289, R291, 01 R18, R19).
A barrier word of the service gang, which has no team, names no register and does nothing (log 23). -/

set_option Elab.async false

namespace Sys2Proof
namespace Machine

/-- What the rules of issue know of a word of this chapter: not in a guarded trace, a handler or a cast-off routine (13 R278, 18 R322). -/
def syncInfo (hd : Hd) (dsts : List Opnd) (ok : Bool) : WordInfo :=
  { WordInfo.plain hd 0xC [] dsts ok with noGuard := true, noHandler := true, noCast := true }

/-! ## Barriers -/

/-- BARINIT (13 R279). -/
def execBarinit (x : BarKOp) (s : State) : Host.Outcome State Fault Refusal :=
  bodyWord (syncInfo x.hd [] true) (fun s r _ m =>
    let v := kreg s r x.k
    if m = 0 then .done s
    else if 2 ^ 12 ≤ v ∨ v = 0 then .trap 2
    else
      match barOf s r.gang (.team x.b) with
      | none => .done s
      | some b =>
        match barGet s b with
        | none => .done s
        | some y => if !barIdle s b y then .trap 5 else .done (barSet s b { y with expmem := v, arrmem := 0, expbytes := 0, arrbytes := 0 })) s

/-- BARARV, CBAR and GBAR (13 R279): an arrival as one member, as a release of each participating lane. -/
def arriveWord (hd : Hd) (b : Bar) (s : State) : Host.Outcome State Fault Refusal :=
  bodyWord (syncInfo hd [] true) (fun s r _ m =>
    if m = 0 then .done s
    else
      match barOf s r.gang b with
      | none => .done s
      | some b =>
        if (barGet s b).isNone then .trap 5
        else if releaseHeld s r.gang m (barScope b) then .wait .unready
        else .done (wordArrive s r.gang m b)) s

/-- BARARV. -/
def execBararv (x : BarOp) (s : State) : Host.Outcome State Fault Refusal := arriveWord x.hd (.team x.n) s
/-- CBAR. -/
def execCbar (x : BarOp) (s : State) : Host.Outcome State Fault Refusal := arriveWord x.hd (.cluster x.n) s
/-- GBAR. -/
def execGbar (x : BarOp) (s : State) : Host.Outcome State Fault Refusal := arriveWord x.hd (.grid x.n) s

/-- BAREXP (13 R279): the register's value as .i64 is added to the expected bytes. -/
def execBarexp (x : BarKOp) (s : State) : Host.Outcome State Fault Refusal :=
  bodyWord (syncInfo x.hd [] true) (fun s r _ m =>
    if m = 0 then .done s
    else
      match barOf s r.gang (.team x.b) with
      | none => .done s
      | some b =>
        match barGet s b with
        | none => .done s
        | some y =>
          let v : Int := y.expbytes + extS (kreg s r x.k) 64
          if v < 0 ∨ 2 ^ 32 ≤ v then .trap 5 else .done (barCheck (barSet s b { y with expbytes := v.toNat }) b)) s

/-- BARTST (13 R276, R279): true is an acquire at the barrier's scope. Without a team the value is free (log 23). -/
def execBartst (x : BartstOp) (s : State) : Host.Outcome State Fault Refusal :=
  bodyWord { syncInfo x.hd [] true with pf := true } (fun s r R m =>
    if m = 0 then .done s
    else
      match barOf s r.gang x.bar with
      | none => .done (fixedEff (s.openVal 1).2 r R m (fun _ _ => [.pr x.p ((s.openVal 1).1 == 1)]))
      | some b =>
        match barGet s b with
        | none => .trap 5
        | some y =>
          let t : Bool := y.phase != x.ph
          .done (fixedEff (if t then acquireScope s (coreOf r.gang) (barScope b) else s) r R m (fun _ _ => [.pr x.p t]))) s

/-- The gang is marked on a grid barrier; with every launched gang of its team marked, the team arrives once (13 R279). -/
def markGang (s : State) (g team n : Nat) : State :=
  match s.team? team with
  | none => s
  | some T =>
    let s := barMark s g (.grid T.launch n)
    let e := (n, (s.gang g).num)
    let marks := if T.gmarks.contains e then T.gmarks else T.gmarks ++ [e]
    if (List.range T.ngang).all (fun i => marks.contains (n, i)) then
      barArrive (s.setTeam team { T with gmarks := marks.filter (fun p => p.1 != n) }) (.grid T.launch n) 1 0
    else s.setTeam team { T with gmarks := marks }

/-- GSYNC (13 R279), as a release of each participating lane. -/
def execGsync (x : BarOp) (s : State) : Host.Outcome State Fault Refusal :=
  bodyWord (syncInfo x.hd [] true) (fun s r _ m =>
    if m = 0 then .done s
    else
      match barOf s r.gang (.grid x.n) with
      | none => .done s
      | some b =>
        if (barGet s b).isNone then .trap 5
        else if releaseHeld s r.gang m .d then .wait .unready
        else
          match releaseLanes s r.gang m .d with
          | (s, true) => .done (markGang s r.gang ((s.gang r.gang).team.getD 0) x.n)
          | (s, false) => .done s) s

/-- BARRIER_COMPLETION (13 R275): a barrier that is met completes; a slot that waits for a phase which has passed goes on. -/
def execBarrierCompletion (b : BarId) (s : State) : Host.Outcome State Fault Refusal := .next (barRelease (barComplete s b) b)

/-! ## WAITM -/

/-- WAITM (13 R288): the watch, which passes to the trace's passing lanes at its resolution. -/
def execWaitm (x : WaitmOp) (s : State) : Host.Outcome State Fault Refusal :=
  bodyWord (syncInfo x.hd [] true) (fun s r R m =>
    if m = 0 then .done s
    else
      let a := kreg s r x.ka
      if !watchOk a then .trap 2 else .done (s.setRun r { R with watch := some (a, kreg s r x.kv) })) s

/-- WAITM_WAKE (13 R288). -/
def execWaitmWake (r : SlotRef) (spurious : Bool) (s : State) : Host.Outcome State Fault Refusal := .next (watchWake s r spurious)

/-! ## DRAIN -/

/-- DRAIN (13 R291): the core is promoted, and the pairs of sweeps over the launch's counters begin, or are shared with those in progress. -/
def execDrain (x : DstOp) (s : State) : Host.Outcome State Fault Refusal :=
  bodyWord (syncInfo x.hd [x.d] (wIs 8 x.d)) (fun s r _ m =>
    if m = 0 then .done s
    else
      match teamOf s r.gang with
      | none => .trap 5
      | some T =>
        match s.launch? T.launch with
        | none => .trap 5
        | some L =>
          if !L.grid then .trap 5
          else if releaseHeld s r.gang m .d then .wait .unready
          else
            let s := promote s (coreOf r.gang)
            let s := s.setLaunch T.launch { L with sweep := some (L.sweep.getD { pairs := 0, half := none }) }
            let id := s.nextCmd
            match (s.slot r).run with
            | none => .done s
            | some R =>
              let old := cancelAll R.pends m (fun _ => [wrTo x.d 0])
              .done ({ s with nextCmd := id + 1 }.setRun r { R with
                back := max R.back (s.now + 1 + 2 * sweepCycles s (coreOf r.gang))
                pends := old ++ (Mask.lanes m).map (fun l => Pend.st l x.d.start (stitchMask x.d.start x.d.w.stitches) (.late id))
                lates := R.lates ++ [({ id, kind := .drain T.launch, val := none } : Late)] })) s

/-- A copy of the launch is under the unit's check: issued and not performed. -/
def copyChecked (s : State) (launch : Nat) : Bool :=
  (allSlots s).any (fun r => (match (s.slot r).wait with | .copy _ => true | _ => false) &&
    (match teamOf s r.gang with | some T => T.launch == launch | none => false))

/-- The DRAINs of a launch return with a number of pairs, each as an acquire at .d (13 R291, 14 R307), the later for each pair beyond the first (03
R425). -/
def landDrains (s : State) (launch pairs : Nat) : State :=
  (allSlots s).foldl (fun s r => match (s.slot r).run with
    | some R =>
      if R.lates.any (fun l => l.kind == .drain launch && l.val.isNone) then
        acquireScope (s.setRun r { R with
          lates := R.lates.map (fun l => if l.kind = .drain launch ∧ l.val.isNone then { l with val := some (pairs, false, 0) } else l)
          back := R.back + 2 * (pairs - 1) * sweepCycles s (coreOf r.gang) }) (coreOf r.gang) .d
      else s
    | none => s) s

/-- DRAIN_SWEEP (13 R291): a sweep of the counters completes; the second of a pair is compared with the first. -/
def execDrainSweep (launch : Nat) (s : State) : Host.Outcome State Fault Refusal :=
  match s.launch? launch with
  | none => .next s
  | some L =>
    match L.sweep with
    | none => .next s
    | some w =>
      match w.half with
      | none => .next (s.setLaunch launch { L with sweep := some { w with half := some (L.sent, L.recv) } })
      | some h =>
        if h = (L.sent, L.recv) ∧ L.sent = L.recv ∧ !copyChecked s launch then
          .next (landDrains (s.setLaunch launch { L with sweep := none }) launch (w.pairs + 1))
        else .next (s.setLaunch launch { L with sweep := some { pairs := w.pairs + 1, half := none } })

/-! ## SPAWN -/

/-- A payload count: 0 to 64 in steps of 8 (13 R289). -/
def payloadOk (n : Nat) : Bool := n ≤ 64 && n % 8 == 0

/-- SPAWN (13 R289): copies of the participating lanes enter the bin of the entry, and the word waits for the lanes that no bin takes. -/
def execSpawn (x : SpawnOp) (s : State) : Host.Outcome State Fault Refusal :=
  let lim := stitchLimit s s.cur
  let n0 := kreg s s.cur x.kn
  let srcs := if payloadOk n0 ∧ x.d.start + n0 ≤ lim then (List.range (n0 / 8)).map (fun i => ({ start := x.d.start + 8 * i, w := .w8 } : Opnd)) else []
  bodyWord { WordInfo.plain x.hd 0xD srcs [] (x.d.w == .w32 && opndOk lim x.d) with noGuard := true, noHandler := true, noCast := true }
    (fun s r _ m =>
      if m = 0 then .done s
      else
        let ke := kreg s r x.ke
        let n := kreg s r x.kn
        let g := codeRegion s r
        if !payloadOk n ∨ stitchLimit s r < x.d.start + n ∨ ke % 8 ≠ 0 ∨ ke < g.1 ∨ g.2 < ke + 8 then .trap 2
        else if (s.gang r.gang).team.isNone then .done s
        else
          let y := spawnLanes s r.gang ke n x.d.start (Mask.lanes m)
          if y.2.isEmpty then .done y.1 else .hold (y.1.setWait r (.spawn ke n x.d.start (maskOfList y.2)))) s

/-- SPAWN_BIN_TIMER_EXPIRY (01 R19). -/
def execSpawnBinTimerExpiry (core bin : Nat) (s : State) : Host.Outcome State Fault Refusal :=
  let c := s.core core
  match c.bins[bin]? with
  | some b => .next (if b.bound && b.left == 0 then s.setCore core { c with bins := listSet c.bins bin { b with due := true } } else s)
  | none => .next s

/-- SPAWNED_GANG_FORMS (01 R19). -/
def execSpawnedGangForms (core bin : Nat) (s : State) : Host.Outcome State Fault Refusal := .next (formGang s core bin)

end Machine
end Sys2Proof
end

