-- ==== Sys2Proof/Machine/Control.lean ====
section
/-! DEFINITION. The meanings of the header, GRD, NOP and the terminators of group 0x0 (08 R162 to R170, 06 R143, 13 R279). A terminator issues
here and acts when its trace resolves (04 R88, `resolve`). -/

set_option Elab.async false

namespace Sys2Proof
namespace Machine

/-- TRACE (04 R77 to R83, 08 R162): met as a word of a trace it raises a trace-limit trap; at an entry its trace's words are taken and it
issues. -/
def execTrace (h : Header) (s : State) : Host.Outcome State Fault Refusal :=
  let r := s.cur
  let X := s.slot r
  if !X.ready then .fault .slotEmpty
  else
    match X.run with
    | some R => .next (atIssue s r R 3)
    | none =>
      if overBound (s.gang r.gang) 1 then waitFor (.castoffBoundOverrun r.gang) s
      else if fetchUnready s r then .next (s.setWait r .unready)
      else
        match fetchTrace s r with
        | (s, .inl (c, d)) => .next (entryTrap s r c noOrd d)
        | (s, .inr (_, ws)) => .next (headerIssue s r h ws)

/-- GRD (04 R86, 08 R164): participating lanes in which the predicate is false fail, with the alternative at the named address. -/
def execGrd (x : GrdOp) (s : State) : Host.Outcome State Fault Refusal :=
  bodyWord { WordInfo.plain x.hd 0 [] [] true with grd := true } (fun s r R m =>
    let G := s.gang r.gang
    let f := maskOf (fun l => Mask.has m l && !(G.lane l).psrc x.p)
    let alt := pcAdd ((s.slot r).entry + 8 * (R.pos + 1)) x.off
    .done (s.setRun r (if f = 0 then R else { R with failed := R.failed ||| f, alts := R.alts ++ [(alt, f)] }))) s

/-- NOP (08 R163). -/
def execNop (x : NopOp) (s : State) : Host.Outcome State Fault Refusal :=
  bodyWord (WordInfo.plain x.hd 0 [] [] true) (fun s _ _ _ => .done s) s

/-- A terminator that does nothing at issue. -/
def atResolution (t : Term) (s : State) (_ : SlotRef) : Term × State := (t, s)

/-- NEXT (08 R170). -/
def execNext (_ : TermOp) (s : State) : Host.Outcome State Fault Refusal :=
  termWord { TermInfo.plain with withWatch := true } (atResolution .next) s

/-- JMP (08 R170). -/
def execJmp (x : JmpOp) (s : State) : Host.Outcome State Fault Refusal :=
  termWord { TermInfo.plain with withWatch := true } (atResolution (.jmp x.off)) s

/-- JSEL (08 R166), of two words. -/
def execJsel (x : JselOp) (s : State) : Host.Outcome State Fault Refusal :=
  termWord { TermInfo.plain with words := 2 } (atResolution (.jsel x.p x.t x.f x.j)) s

/-- JTAB (08 R167). -/
def execJtab (x : TabOp) (s : State) : Host.Outcome State Fault Refusal :=
  termWord { TermInfo.plain with srcs := [x.idx], ok := wIs 8 x.idx } (atResolution (.jtab x.slot x.idx)) s

/-- CALL (08 R168). -/
def execCall (x : CallOp) (s : State) : Host.Outcome State Fault Refusal :=
  termWord { TermInfo.plain with dsts := [x.link], ok := wIs 16 x.link && rowStart x.link, withWatch := true }
    (atResolution (.call x.off x.link)) s

/-- CALLT (08 R167, R168): the link covers the 16 stitches that begin with the index. -/
def execCallt (x : TabOp) (s : State) : Host.Outcome State Fault Refusal :=
  termWord { TermInfo.plain with srcs := [x.idx], dsts := [{ x.idx with w := .w16 }], ok := wIs 8 x.idx && rowStart x.idx }
    (atResolution (.callt x.slot x.idx)) s

/-- RET (08 R168). -/
def execRet (x : RetOp) (s : State) : Host.Outcome State Fault Refusal :=
  termWord { TermInfo.plain with srcs := [x.ra], ok := wIs 16 x.ra } (atResolution (.ret x.ra)) s

/-- LOOP (08 R169): the counter is decremented as it issues, and decides whether it branches back. -/
def execLoop (x : LoopOp) (s : State) : Host.Outcome State Fault Refusal :=
  termWord { TermInfo.plain with withWatch := true } (fun s r =>
    let k := pat ((kreg s r x.k : Int) - 1) 64
    let s := match (s.slot r).run with
      | some R => uniEff s r R x.k k
      | none => s
    (if k = 0 then .next else .jmp x.off, s)) s

/-- EXIT (04 R94). -/
def execExit (_ : TermOp) (s : State) : Host.Outcome State Fault Refusal :=
  termWord { TermInfo.plain with noHandler := true, noCast := true } (atResolution .exit) s

/-- YIELD (06 R143); the batch form is open only to C gangs. -/
def execYield (x : YieldOp) (s : State) : Host.Outcome State Fault Refusal :=
  termWord { TermInfo.plain with noGuard := true, noHandler := true, noCast := true, roleC := (match x.on with
      | .batch _ => true
      | .barrier _ _ => false) } (atResolution (.yield x.off x.on)) s

/-- BARW (13 R279). -/
def execBarw (x : BarwOp) (s : State) : Host.Outcome State Fault Refusal :=
  termWord { TermInfo.plain with noGuard := true, noHandler := true, noCast := true } (atResolution (.barw x.bar)) s

end Machine
end Sys2Proof
end

