-- ==== Sys2Proof/Machine/Copies.lean ====
section
/-! DEFINITION. The meanings of the copy and batch words and of the transfer unit's events (13 R280 to R287, R426). -/

set_option Elab.async false

namespace Sys2Proof
namespace Machine

/-- What the rules of issue know of a word of the transfer unit: open to C gangs, not in a guarded trace, a handler or a cast-off routine (13
R278, R280, 18 R322). -/
def copyInfo (hd : Hd) (dsts : List Opnd) (ok : Bool) : WordInfo :=
  { WordInfo.plain hd 0xC [] dsts ok with noGuard := true, noHandler := true, noCast := true, memory := true, roleC := true }

/-! ## Copy commands -/

/-- A copy command issues (13 R280): it waits for the unit's check of its record, its operand words and its pages. -/
def copyWord (hd : Hd) (kind kl kbox ksp : Nat) (b : Bar) (aop : Aop) (ty : Ty) (s : State) : Host.Outcome State Fault Refusal :=
  bodyWord (copyInfo hd [] (kbox % 2 == 0)) (fun s r _ m =>
    match Mask.lowest m with
    | none => .done s
    | some l =>
      -- the word waits while the unit is full (13 R280); `heldBack` keeps the slot from being selected
      if unitFull s (coreOf r.gang) then .wait .none
      else
        .hold (s.setWait r (.copy { kind, lane := l, layoutAddr := kreg s r kl, box0 := kreg s r kbox, box1 := kreg s r (kbox + 1),
                                    spw := kreg s r ksp, bar := barOf s r.gang b, br := b, aop, ty }))) s

/-- CPY (13 R282). -/
def execCpy (x : CpyOp) (s : State) : Host.Outcome State Fault Refusal := copyWord x.hd kCpy x.kl x.kbox x.ksp x.bar .add .none s

/-- CPYG (13 R283). -/
def execCpyg (x : CpyOp) (s : State) : Host.Outcome State Fault Refusal := copyWord x.hd kCpyg x.kl x.kbox x.ksp x.bar .add .none s

/-- CPYRD (13 R284). -/
def execCpyrd (x : CpyrdOp) (s : State) : Host.Outcome State Fault Refusal := copyWord x.hd kCpyrd x.kl x.kbox x.ksp x.bar x.aop x.ty s

/-- What the unit's check of a command finds (13 R280): a fault of its lane with cause and detail, the poison that its record's read
met, or what it needs to run. -/
inductive Checked
  | fault (cause detail : Nat)
  | poison (key : Nat)
  | ok (layout : Nat) (idx : List Nat) (pages : Tab Nat)

/-- The unit's check of a command (06 R142, 13 R280, R281): the record is fetched whole, as the core sees it with no clean copy of its own; a
record at a misaligned address has no version byte (log 24). Bits [63:56] of the register that holds its address are dropped (DESIGN CHOICE, log 70: 13
R280 and 06 R142 say nothing of them). -/
def checkCopy (s : State) (r : SlotRef) (q : CopyReq) : State × Checked :=
  if q.layoutAddr % 32 ≠ 0 then ((s.openVal 8).2, .fault 13 (s.openVal 8).1)
  else
    let va := q.layoutAddr % 2 ^ 56
    let cx := gangCtx s r
    match translate s (coreOf r.gang) cx.1 va .read cx.2 none with
    | (s, .fault c) => (s, .fault c va)
    | (s, .ok _ k) =>
      match (List.range 32).find? (fun i => placePoisoned s (coreOf r.gang) (k + i)) with
      | some i => (s, .poison (k + i))
      | none =>
        let w := bytesNat ((List.range 32).map (fun i => dirtyByte s (coreOf r.gang) (k + i)))
        if !copyOk q w then (s, .fault 13 (layVersion w))
        else
          let a := gangSpad s r.gang
          let idx := readIdx s a.1 a.2.1 a.2.2 q
          match touchBox s r q w idx with
          | (s, .inl (c, d)) => (s, .fault c d)
          | (s, .inr pages) => (s, .ok w idx pages)

/-- The functions that the check of a command needs are ready: for the fetch of its record and the translations of its pages (27 R421). -/
def copyRecReady (s : State) (r : SlotRef) (q : CopyReq) : Bool :=
  let cx := gangCtx s r
  let core := coreOf r.gang
  let walked (acc : Acc) (va : Nat) : Bool := walkReady s core cx.1 va acc
  walked .read (q.layoutAddr % 2 ^ 56) &&
  (match (translate s core cx.1 (q.layoutAddr % 2 ^ 56) .read cx.2 none).2 with
    | .ok _ k => placeReady s core k
    | .fault _ => true) &&
  (match (checkCopy s r q).2 with
    | .ok _ _ pages => pages.all (fun p => walked q.acc (p.1 * 4096))
    | .fault _ va => walked q.acc (va % 2 ^ 56)
    | .poison _ => true)

/-- The command joins the open batch of its lane (13 R280, R286); its granules count as messages sent until they land (13 R291). -/
def joinBatch (s : State) (r : SlotRef) (q : CopyReq) (layout : Nat) (idx : List Nat) (pages : Tab Nat) : State :=
  let G := s.gang r.gang
  let c : Copy := { id := s.nextCmd, core := coreOf r.gang, team := G.team.getD 0, gangNum := G.num, gang := r.gang, req := q,
                    layout := BitVec.ofNat 256 layout, idx, pages, batch := (laneBatch s r.gang q.lane).sealed + 1, requested := 0, landed := [] }
  countSent { s with copies := s.copies ++ [c], nextCmd := s.nextCmd + 1 } G.team c.blocks.length

/-- COPY_ACCEPT (13 R280): the lane's earlier accesses are performed, the command is checked and accepted or makes its lane fault-pending, and
the slot goes on. Poison in the record ends the team (27 R419). -/
def execCopyAccept (r : SlotRef) (s : State) : Host.Outcome State Fault Refusal :=
  match (s.slot r).wait, (s.slot r).run with
  | .copy q, some _ =>
    if !copyRecReady s r q then .next s
    else
    let s := flushReds s (fun d => d.gang == r.gang && d.lane == q.lane)
    (match checkCopy s r q with
     | (s, .fault c d) => (match (s.slot r).run with
       | some R => .next (pastWord (s.setRun r (R.fault q.lane c d)) r)
       | none => .next s)
     | (s, .poison k) => .next (consumed (pastWord s r) (s.owner r.gang) k)
     | (s, .ok w idx pages) => .next (pastWord (joinBatch s r q w idx pages) r))
  | _, _ => .next s

/-- GRANULE_REQUEST (13 R426). -/
def execGranuleRequest (core : Nat) (s : State) : Host.Outcome State Fault Refusal := .next (requestGranule s core)

/-- GRANULE_LAND (13 R285, R426). -/
def execGranuleLand (copy granule : Nat) (s : State) : Host.Outcome State Fault Refusal := .next (landGranule s copy granule)

/-- COPY_COMPLETION (13 R285). -/
def execCopyCompletion (copy : Nat) (s : State) : Host.Outcome State Fault Refusal :=
  match findCopy s copy with
  | some c => .next (if copyDone c then completeCopy s c else s)
  | none => .next s

/-! ## Batches -/

/-- BATCH_COMPLETION (13 R286); a slot that waits for a batch that has completed goes on. -/
def execBatchCompletion (gang lane : Nat) (s : State) : Host.Outcome State Fault Refusal :=
  .next (batchRelease (batchComplete s gang lane) gang lane)

/-- CPYX (13 R287): the commands of the lane's open batch that have written nothing are withdrawn, and the others leave it. -/
def execCpyx (x : DstOp) (s : State) : Host.Outcome State Fault Refusal :=
  bodyWord { copyInfo x.hd [x.d] (wIs 8 x.d) with lat := 20 } (fun s r _ m =>
    match Mask.lowest m with
    | none => .done s
    | some l =>
      let n := (laneBatch s r.gang l).sealed + 1
      let mine (c : Copy) : Bool := copyOf s r.gang l c && c.batch == n
      let gone := s.copies.filter (fun c => mine c && unbegun s c)
      let s := { s with copies := s.copies.map (fun c => if mine c then { c with batch := 0 } else c) }
      let s := gone.foldl withdrawCopy s
      match (s.slot r).run with
      | some R => .done (longEff s r R (1#64 <<< l) (fun _ => [wrTo x.d gone.length]))
      | none => .done s) s

/-- BSEAL (13 R286): the number goes to the uniform register; a lane with 255 batches that have not completed waits. -/
def execBseal (x : KOp) (s : State) : Host.Outcome State Fault Refusal :=
  bodyWord (copyInfo x.hd [] true) (fun s r R m =>
    match Mask.lowest m with
    | none => .done s
    | some l =>
      let b := laneBatch s r.gang l
      if batchMax ≤ b.sealed - b.done then .wait (.seal l)
      else
        let s := uniEff s r R x.k (batchNum (b.sealed + 1))
        .done (batchCheck (setLaneBatch s r.gang l { b with sealed := b.sealed + 1 }) r.gang l)) s

/-- BWAIT (13 R286). -/
def execBwait (x : KOp) (s : State) : Host.Outcome State Fault Refusal :=
  bodyWord (copyInfo x.hd [] true) (fun s r _ m =>
    match Mask.lowest m with
    | none => .done s
    | some l =>
      let b := laneBatch s r.gang l
      match batchIndex b (kreg s r x.k) with
      | none => .trap 5
      | some i => if i ≤ b.done then .done s else .hold (s.setWait r (.bwait l i))) s

/-- BTEST (13 R286): the predicate is written in the issuing lane. -/
def execBtest (x : BtestOp) (s : State) : Host.Outcome State Fault Refusal :=
  bodyWord { copyInfo x.hd [] true with pf := true } (fun s r R m =>
    match Mask.lowest m with
    | none => .done s
    | some l =>
      let b := laneBatch s r.gang l
      match batchIndex b (kreg s r x.k) with
      | none => .trap 5
      | some i => .done (fixedEff s r R (1#64 <<< l) (fun _ _ => [.pr x.p (decide (i ≤ b.done))]))) s

end Machine
end Sys2Proof
end

