-- ==== Sys2Proof/Machine/FloatOps.lean ====
section
/-! DEFINITION. The meanings of the floating-point, conversion and block words of groups 0x5 and 0x6 (09 R188 to R203). -/

set_option Elab.async false

namespace Sys2Proof
namespace Machine

/-! ## Rows -/

/-- The exact width of a type (03 R61). -/
def tyW (t : Ty) (o : Opnd) : Bool := o.w.stitches == t.stitches

/-- Cycles of a row, or until its return: `n`, twice as many for .f64 (09 R189, 03 R425). -/
def fCyc (n : Nat) (t : Ty) : Nat := if t == .f64 then 2 * n else n

/-- A word that writes one destination and raises flags in each lane (09 R188): at once, or pending where it is long-latency, with the cycles until its
return (03 R425). -/
def fltRow (hd : Hd) (group : Nat) (srcs : List Opnd) (d : Opnd) (ok : Bool) (lat cyc : Nat) (v : Lane → FRes) (s : State) :
    Host.Outcome State Fault Refusal :=
  bodyWord { WordInfo.plain hd group srcs [d] ok with pf := true, cyc, lat } (fun s r R m =>
    let w (L : Lane) : List LW := [wrTo d (v L).v, .fl (v L).fl]
    if lat ≠ 0 then
      let G := s.gang r.gang
      .done (longEff s r R m (fun l => w (G.lane l)))
    else .done (fixedEff s r R m (fun _ L => w L))) s

/-- A scalar row of two sources, and D where `readD` (09 R190). -/
def fBin (x : FOp) (readD : Bool) (f : Fmt → Rm → Bool → Nat → Nat → Nat → FRes) (s : State) : Host.Outcome State Fault Refusal :=
  fltRow x.hd 5 (if readD then [x.a, x.b, x.d] else [x.a, x.b]) x.d (tyW x.ty x.d && tyW x.ty x.a && tyW x.ty x.b) 0 (fCyc 1 x.ty)
    (fun L => f (fmtOf x.ty) x.rm x.ftz (L.rd x.a) (L.rd x.b) (L.rd x.d)) s

/-- A special function of one source (09 R194). -/
def fSpecial (x : FUnOp) (f : Fmt → Rm → Bool → Nat → FRes) (s : State) : Host.Outcome State Fault Refusal :=
  fltRow x.hd 6 [x.a] x.d (tyW x.ty x.d && tyW x.ty x.a) (fCyc 12 x.ty) (fCyc 4 x.ty) (fun L => f (fmtOf x.ty) x.rm x.ftz (L.rd x.a)) s

/-- A faithfully rounded function (09 R194). -/
def fFaithful (x : FTransOp) (f : Bool → Nat → FRes) (s : State) : Host.Outcome State Fault Refusal :=
  fltRow x.hd 6 [x.a] x.d (wIs 8 x.d && wIs 8 x.a) 12 4 (fun L => f x.ftz (L.rd x.a)) s

/-- A packed row (09 R192): `f` at the format of the type for each half. -/
def fPacked (x : FPkOp) (readD : Bool) (f : Fmt → Rm → Nat → Nat → Nat → FRes) (s : State) : Host.Outcome State Fault Refusal :=
  fltRow x.hd 5 (if readD then [x.a, x.b, x.d] else [x.a, x.b]) x.d (wIs 8 x.d && wIs 8 x.a && wIs 8 x.b) 0 1
    (fun L => packed2 (fun i => f (fmtOf x.ty) x.rm (half (L.rd x.a) i) (half (L.rd x.b) i) (half (L.rd x.d) i))) s

/-! ## Scalar arithmetic -/

/-- FADD (09 R190). -/
def execFadd (x : FOp) (s : State) : Host.Outcome State Fault Refusal := fBin x false (fun F rm z a b _ => fAdd F rm z a b) s
/-- FSUB (09 R190). -/
def execFsub (x : FOp) (s : State) : Host.Outcome State Fault Refusal := fBin x false (fun F rm z a b _ => fSub F rm z a b) s
/-- FMUL (09 R190). -/
def execFmul (x : FOp) (s : State) : Host.Outcome State Fault Refusal := fBin x false (fun F rm z a b _ => fMul F rm z a b) s
/-- FFMA (09 R190). -/
def execFfma (x : FOp) (s : State) : Host.Outcome State Fault Refusal := fBin x true fFma s

/-- FMIN (09 R191). -/
def execFmin (x : FMmOp) (s : State) : Host.Outcome State Fault Refusal :=
  fltRow x.hd 5 [x.a, x.b] x.d (tyW x.ty x.d && tyW x.ty x.a && tyW x.ty x.b) 0 (fCyc 1 x.ty)
    (fun L => fMinMax (fmtOf x.ty) false x.ftz (L.rd x.a) (L.rd x.b)) s
/-- FMAX (09 R191). -/
def execFmax (x : FMmOp) (s : State) : Host.Outcome State Fault Refusal :=
  fltRow x.hd 5 [x.a, x.b] x.d (tyW x.ty x.d && tyW x.ty x.a && tyW x.ty x.b) 0 (fCyc 1 x.ty)
    (fun L => fMinMax (fmtOf x.ty) true x.ftz (L.rd x.a) (L.rd x.b)) s

/-- FCMP (09 R191). -/
def execFcmp (x : FCmpOp) (s : State) : Host.Outcome State Fault Refusal :=
  bodyWord { WordInfo.plain x.hd 5 [x.a, x.b] [] (tyW x.ty x.a && tyW x.ty x.b) with pf := true, cyc := fCyc 1 x.ty } (fun s r R m =>
    .done (fixedEff s r R m (fun _ L =>
      let c := fCmp (fmtOf x.ty) x.cnd (L.rd x.a) (L.rd x.b)
      [.pr x.p c.1, .fl c.2]))) s

/-- FRND (09 R191). -/
def execFrnd (x : FUnOp) (s : State) : Host.Outcome State Fault Refusal :=
  fltRow x.hd 5 [x.a] x.d (tyW x.ty x.d && tyW x.ty x.a) 0 (fCyc 1 x.ty) (fun L => fRnd (fmtOf x.ty) x.rm x.ftz (L.rd x.a)) s

/-- FCLASS (09 R191): the mask, zero-extended or truncated to D. -/
def execFclass (x : FClassOp) (s : State) : Host.Outcome State Fault Refusal :=
  fltRow x.hd 5 [x.a] x.d (3 ≤ x.d.w.stitches && x.d.w.stitches ≤ 8 && tyW x.ty x.a) 0 1
    (fun L => { v := fClass (fmtOf x.ty) (L.rd x.a), fl := 0 }) s

/-! ## Packed and FP8 forms -/

/-- FADD2 (09 R192). -/
def execFadd2 (x : FPkOp) (s : State) : Host.Outcome State Fault Refusal := fPacked x false (fun F rm a b _ => fAdd F rm false a b) s
/-- FMUL2 (09 R192). -/
def execFmul2 (x : FPkOp) (s : State) : Host.Outcome State Fault Refusal := fPacked x false (fun F rm a b _ => fMul F rm false a b) s
/-- FFMA2 (09 R192). -/
def execFfma2 (x : FPkOp) (s : State) : Host.Outcome State Fault Refusal := fPacked x true (fun F rm a b d => fFma F rm false a b d) s

/-- FDOT4 (09 R193). -/
def execFdot4 (x : FPkOp) (s : State) : Host.Outcome State Fault Refusal :=
  fltRow x.hd 5 [x.a, x.b, x.d] x.d (wIs 8 x.d && wIs 8 x.a && wIs 8 x.b) 0 1
    (fun L => fDot4 (fmtOf x.ty) x.rm (L.rd x.a) (L.rd x.b) (L.rd x.d)) s

/-! ## Special functions -/

/-- FRCP (09 R194). -/
def execFrcp (x : FUnOp) (s : State) : Host.Outcome State Fault Refusal := fSpecial x fRcp s
/-- FRSQ (09 R194). -/
def execFrsq (x : FUnOp) (s : State) : Host.Outcome State Fault Refusal := fSpecial x fRsq s
/-- FSQRT (09 R194). -/
def execFsqrt (x : FUnOp) (s : State) : Host.Outcome State Fault Refusal := fSpecial x fSqrt s

/-- FDIV (09 R194). -/
def execFdiv (x : FOp) (s : State) : Host.Outcome State Fault Refusal :=
  fltRow x.hd 6 [x.a, x.b] x.d (tyW x.ty x.d && tyW x.ty x.a && tyW x.ty x.b) (fCyc 16 x.ty) (fCyc 8 x.ty)
    (fun L => fDiv (fmtOf x.ty) x.rm x.ftz (L.rd x.a) (L.rd x.b)) s

/-- FEXP2 (09 R194). -/
def execFexp2 (x : FTransOp) (s : State) : Host.Outcome State Fault Refusal := fFaithful x fExp2 s
/-- FLOG2 (09 R194). -/
def execFlog2 (x : FTransOp) (s : State) : Host.Outcome State Fault Refusal := fFaithful x fLog2 s
/-- FSIN (09 R194). -/
def execFsin (x : FTransOp) (s : State) : Host.Outcome State Fault Refusal := fFaithful x (fun z a => fTrig 2 z a false) s
/-- FCOS (09 R194). -/
def execFcos (x : FTransOp) (s : State) : Host.Outcome State Fault Refusal := fFaithful x (fun z a => fTrig 3 z a true) s

/-! ## Conversions -/

/-- Widths of an operand of a conversion: exact for a floating-point type or e8m0, 1 to 16 stitches for an integer one (09 R196). -/
def cvtW (t : Ty) (o : Opnd) : Bool := if t.isInt then intW o else o.w.stitches == t.stitches

/-- The result of a conversion in a lane (09 R196). -/
def cvtVal (x : CvtOp) (L : Lane) : FRes :=
  let a := if x.src.isInt then L.srcP x.src x.a else L.rd x.a
  let c := convert x.dst x.src x.rm x.sat a
  { v := if x.dst.isInt then dstPat x.dst x.sat c.1 x.d.w.bits else pat c.1 x.dst.bits, fl := c.2 }

/-- CVT (09 R196). -/
def execCvt (x : CvtOp) (s : State) : Host.Outcome State Fault Refusal :=
  fltRow x.hd 6 [x.a] x.d (cvtW x.dst x.d && cvtW x.src x.a) 8 1 (cvtVal x) s

/-- CVTI (09 R197). -/
def execCvti (x : CvtOp) (s : State) : Host.Outcome State Fault Refusal :=
  fltRow x.hd 6 [x.a] x.d (cvtW x.dst x.d && cvtW x.src x.a) 0 1 (cvtVal x) s

/-- FSCALE (09 R198). -/
def execFscale (x : FOp) (s : State) : Host.Outcome State Fault Refusal :=
  fltRow x.hd 6 [x.a, x.b] x.d (tyW x.ty x.d && tyW x.ty x.a && x.b.w.stitches ≤ 8) 0 (fCyc 1 x.ty)
    (fun L => fScale (fmtOf x.ty) x.rm x.ftz (L.rd x.a) (L.src .i32 x.b)) s

/-! ## Blocks -/

/-- The groups of `n` lanes into which a gang divides (09 R199, 26 R408): their first lanes. -/
def laneGroups (G : Gang) (n : Nat) : List Nat := (List.range ((if G.width = 64 then 64 else 32) / n)).map (· * n)

/-- Bit `i` of a group is that of its lane `i`. -/
def groupHas (m : Mask) (first n : Nat) : Bool := (List.range n).any (fun i => Mask.has m (first + i))

/-- What one group's computation makes of some values: the groups in turn, each group without a participating lane left alone (09 R199). -/
def perGroup {α : Type} (G : Gang) (m : Mask) (n : Nat) (f : Nat → α → α) (a : α) : α :=
  (laneGroups G n).foldl (fun a g => if groupHas m g n then f g a else a) a

/-- Values of the lanes with flags, by lane. -/
abbrev LaneVals := List (Nat × Nat)

/-- The sources of the lanes: +0 for a lane that does not take part (09 R199). -/
def blockSrc (G : Gang) (m : Mask) (a : Opnd) : LaneVals :=
  (List.range 64).map (fun l => (if Mask.has m l then (G.lane l).rd a else 0, 0))

/-- The Hadamard transform of 05 R117 applied to each group of `2^k` lanes; its flags go to every lane of the group (09 R199, R200). -/
def hadGroups (G : Gang) (m : Mask) (k : Nat) (v : LaneVals) : LaneVals :=
  perGroup G m (2 ^ k) (fun g v =>
    let h := hadamard k 0 (((v.drop g).take (2 ^ k)).map (·.1))
    mapFrom (fun i (e : Nat × Nat) => if g ≤ i ∧ i < g + 2 ^ k then (elemAt h.1 (i - g), e.2 ||| h.2) else e) 0 v) v

/-- What QBLK gives each lane: element, scale byte and flags (09 R200). -/
def qblkVals (x : QblkOp) (G : Gang) (m : Mask) : List (Int × Nat × Nat) :=
  let v := match x.h with
    | .none => blockSrc G m x.a
    | .h16 => hadGroups G m 4 (blockSrc G m x.a)
    | .h32 => hadGroups G m 5 (blockSrc G m x.a)
  let n := if x.b16 then 16 else 32
  perGroup G m n (fun g out =>
    let q := quantise x.bx4 (((v.drop g).take n).map (·.1))
    mapFrom (fun i (e : Int × Nat × Nat) =>
      if g ≤ i ∧ i < g + n then
        let y := (q.2.1[i - g]?).getD (0, 0)
        (y.1, q.1, ((v[i]?).getD (0, 0)).2 ||| y.2 ||| q.2.2)
      else e) 0 out) (List.replicate 64 (0, 0, 0))

/-- Stitches of a block element (05 R116). -/
def bxW (bx4 : Bool) (o : Opnd) : Bool := wIs (if bx4 then 1 else 2) o

/-- Two operands share no stitch (03 R62). -/
def apart (a b : Opnd) : Bool := a.start + a.w.stitches ≤ b.start || b.start + b.w.stitches ≤ a.start

/-- QBLK (09 R200). -/
def execQblk (x : QblkOp) (s : State) : Host.Outcome State Fault Refusal :=
  bodyWord { WordInfo.plain x.hd 6 [x.a] [x.d, x.sc] (bxW x.bx4 x.d && wIs 2 x.sc && wIs 8 x.a && apart x.d x.sc) with pf := true, cyc := 2, lat := 14 }
    (fun s r R m =>
      let v := qblkVals x (s.gang r.gang) m
      .done (longEff s r R m (fun l =>
        let e := (v[l]?).getD (0, 0, 0)
        [wrTo x.d (pat e.1 x.d.w.bits), wrTo x.sc e.2.1, .fl e.2.2]))) s

/-- DQBLK (09 R201). -/
def execDqblk (x : DqOp) (s : State) : Host.Outcome State Fault Refusal :=
  fltRow x.hd 6 [x.a, x.b] x.d (bxW x.bx4 x.a && wIs 2 x.b && wIs 8 x.d) 8 1 (fun L => dequantise x.bx4 (L.rd x.a) (L.rd x.b)) s

/-- REQ (09 R202): the width of A selects the source format. -/
def execReq (x : DqOp) (s : State) : Host.Outcome State Fault Refusal :=
  fltRow x.hd 6 [x.a, x.b] x.d (x.a.w.stitches ≤ 2 && wIs 4 x.b && bxW x.bx4 x.d) 8 1 (fun L =>
    let b := L.rd x.b
    let q := requantise (wIs 1 x.a) x.bx4 (L.rd x.a) (fld b 0 8) (fld b 8 8)
    { v := pat q.1 x.d.w.bits, fl := q.2 }) s

/-- HAD (09 R203). -/
def execHad (x : HadOp) (s : State) : Host.Outcome State Fault Refusal :=
  bodyWord { WordInfo.plain x.hd 6 [x.a] [x.d] (wIs 8 x.d && wIs 8 x.a) with pf := true, cyc := 2, lat := 10 } (fun s r R m =>
    let G := s.gang r.gang
    let v := hadGroups G m (if x.h32 then 5 else 4) (blockSrc G m x.a)
    .done (longEff s r R m (fun l =>
      let e := (v[l]?).getD (0, 0)
      [wrTo x.d e.1, .fl e.2]))) s

end Machine
end Sys2Proof
end

