-- ==== Sys2Proof/Machine/Integer.lean ====
section
/-! DEFINITION. The meanings of the integer words of groups 0x1 and 0x2 (08 R171 to R178). -/

set_option Elab.async false

namespace Sys2Proof
namespace Machine

/-! ## Results (08 R172, R174) -/

/-- A bit pattern read at the type (08 R171). -/
def patVal (t : Ty) (p : Nat) : Int := readInt t p

/-- SHL: a x 2^c. A count of w or more moves every bit out, and exceeds the range of any value but zero. -/
def shlVal (w : Nat) (a : Int) (c : Nat) : Int := a * 2 ^ Nat.min c w

/-- SHR of a pattern. -/
def shrVal (w p c : Nat) : Nat := p / 2 ^ Nat.min c w

/-- SHRA of a pattern. -/
def shraVal (w p c : Nat) : Int := extS p w / 2 ^ Nat.min c w

/-- ROTL of a pattern. -/
def rotlVal (w p c : Nat) : Nat :=
  let k := c % w
  (p * 2 ^ k + p / 2 ^ (w - k)) % 2 ^ w

/-- FSHL of two patterns. -/
def fshlVal (w d a c : Nat) : Nat := (d * 2 ^ w + a) * 2 ^ (c % w) / 2 ^ w % 2 ^ w

/-- The length of a field of `w` bits (08 R174). -/
def fieldLen (w pos len : Nat) : Nat := if w ≤ pos then 0 else Nat.min len (w - pos)

/-- BFX of a pattern: `b` holds the position and the length. -/
def bfxVal (t : Ty) (p b : Nat) : Int :=
  let n := fieldLen t.bits (fld b 0 8) (fld b 8 8)
  if n = 0 then 0
  else
    let x := fld p (fld b 0 8) n
    if t.signed then extS x n else (x : Int)

/-- BFI of patterns. -/
def bfiVal (w d a b : Nat) : Nat :=
  let pos := fld b 0 8
  let n := fieldLen w pos (fld b 8 8)
  d % 2 ^ pos + fld a 0 n * 2 ^ pos + (d / 2 ^ (pos + n)) * 2 ^ (pos + n)

/-- Bits set in a pattern of `w` bits. -/
def popVal (w p : Nat) : Nat := ((List.range w).filter (bit p)).length

/-- Leading zero bits. -/
def clzVal (w p : Nat) : Nat := ((List.range w).find? (fun i => bit p (w - 1 - i))).getD w

/-- Trailing zero bits. -/
def ctzVal (w p : Nat) : Nat := ((List.range w).find? (bit p)).getD w

/-- The pattern reversed. -/
def brevVal (w p : Nat) : Nat := bitsOf (fun i => bit p (w - 1 - i)) w

/-- CLAMP (08 R172). -/
def clampVal (d a b : Int) : Int := if b < a then b else min (max d a) b

/-! ## Rows -/

/-- An integer row of three operands (08 R171): D is a source too where `readD`; `sat` says that the row saturates. -/
def intRow (x : IntOp) (readD sat : Bool) (ok : Bool) (v : Lane → Int) (s : State) : Host.Outcome State Fault Refusal :=
  let srcs := if readD then [x.a, x.b, x.d] else [x.a, x.b]
  bodyWord (WordInfo.plain x.hd 1 srcs [x.d] (ok && srcs.all intW && intW x.d)) (fun s r R m =>
    .done (fixedEff s r R m (fun _ L => [wrInt x.d x.ty x.sat (toType x.ty (sat && x.sat) (v L))]))) s

/-- An integer row of one source (08 R171). -/
def intRow1 (x : IntUn) (sat : Bool) (v : Lane → Int) (s : State) : Host.Outcome State Fault Refusal :=
  bodyWord (WordInfo.plain x.hd 1 [x.a] [x.d] (intW x.a && intW x.d)) (fun s r R m =>
    .done (fixedEff s r R m (fun _ L => [wrInt x.d x.ty x.sat (toType x.ty (sat && x.sat) (v L))]))) s

/-- A row of group 0x2 (08 R177). -/
def immRow (x : ImmOp) (sat : Bool) (v : Lane → Int) (s : State) : Host.Outcome State Fault Refusal :=
  bodyWord (WordInfo.plain x.hd 2 [x.a] [x.d] (intW x.a && intW x.d)) (fun s r R m =>
    .done (fixedEff s r R m (fun _ L => [wrInt x.d x.ty x.sat (toType x.ty (sat && x.sat) (v L))]))) s

/-- The count of a shift, read unsigned at the operand's width (08 R174). -/
def Lane.count (L : Lane) (o : Opnd) : Nat := L.rd o

/-- ADD. -/
def execAdd (x : IntOp) (s : State) : Host.Outcome State Fault Refusal :=
  intRow x false true true (fun L => L.src x.ty x.a + L.src x.ty x.b) s
/-- SUB. -/
def execSub (x : IntOp) (s : State) : Host.Outcome State Fault Refusal :=
  intRow x false true true (fun L => L.src x.ty x.a - L.src x.ty x.b) s
/-- NEG. -/
def execNeg (x : IntUn) (s : State) : Host.Outcome State Fault Refusal := intRow1 x true (fun L => -(L.src x.ty x.a)) s
/-- ABS. -/
def execAbs (x : IntUn) (s : State) : Host.Outcome State Fault Refusal := intRow1 x true (fun L => ((L.src x.ty x.a).natAbs : Int)) s
/-- MIN. -/
def execMin (x : IntOp) (s : State) : Host.Outcome State Fault Refusal :=
  intRow x false false true (fun L => min (L.src x.ty x.a) (L.src x.ty x.b)) s
/-- MAX. -/
def execMax (x : IntOp) (s : State) : Host.Outcome State Fault Refusal :=
  intRow x false false true (fun L => max (L.src x.ty x.a) (L.src x.ty x.b)) s
/-- CLAMP. -/
def execClamp (x : IntOp) (s : State) : Host.Outcome State Fault Refusal :=
  intRow x true false true (fun L => clampVal (L.src x.ty x.d) (L.src x.ty x.a) (L.src x.ty x.b)) s
/-- MUL. -/
def execMul (x : IntOp) (s : State) : Host.Outcome State Fault Refusal :=
  intRow x false true true (fun L => L.src x.ty x.a * L.src x.ty x.b) s
/-- MULHI: the floor of the product over 2^w. -/
def execMulhi (x : IntOp) (s : State) : Host.Outcome State Fault Refusal :=
  intRow x false false true (fun L => L.src x.ty x.a * L.src x.ty x.b / 2 ^ x.ty.bits) s
/-- MAD. -/
def execMad (x : IntOp) (s : State) : Host.Outcome State Fault Refusal :=
  intRow x true true true (fun L => L.src x.ty x.a * L.src x.ty x.b + L.src x.ty x.d) s
/-- SAD. -/
def execSad (x : IntOp) (s : State) : Host.Outcome State Fault Refusal :=
  intRow x true true true (fun L => ((L.src x.ty x.a - L.src x.ty x.b).natAbs : Int) + L.src x.ty x.d) s
/-- AND. -/
def execAnd (x : IntOp) (s : State) : Host.Outcome State Fault Refusal :=
  intRow x false false true (fun L => patVal x.ty (L.srcP x.ty x.a &&& L.srcP x.ty x.b)) s
/-- OR. -/
def execOr (x : IntOp) (s : State) : Host.Outcome State Fault Refusal :=
  intRow x false false true (fun L => patVal x.ty (L.srcP x.ty x.a ||| L.srcP x.ty x.b)) s
/-- XOR. -/
def execXor (x : IntOp) (s : State) : Host.Outcome State Fault Refusal :=
  intRow x false false true (fun L => patVal x.ty (L.srcP x.ty x.a ^^^ L.srcP x.ty x.b)) s
/-- The complement of a pattern of `w` bits. -/
def notPat (w p : Nat) : Nat := 2 ^ w - 1 - p
/-- ANDN. -/
def execAndn (x : IntOp) (s : State) : Host.Outcome State Fault Refusal :=
  intRow x false false true (fun L => patVal x.ty (L.srcP x.ty x.a &&& notPat x.ty.bits (L.srcP x.ty x.b))) s
/-- ORN. -/
def execOrn (x : IntOp) (s : State) : Host.Outcome State Fault Refusal :=
  intRow x false false true (fun L => patVal x.ty (L.srcP x.ty x.a ||| notPat x.ty.bits (L.srcP x.ty x.b))) s
/-- SHL. -/
def execShl (x : IntOp) (s : State) : Host.Outcome State Fault Refusal :=
  intRow x false true true (fun L => shlVal x.ty.bits (L.src x.ty x.a) (L.count x.b)) s
/-- SHR. -/
def execShr (x : IntOp) (s : State) : Host.Outcome State Fault Refusal :=
  intRow x false false true (fun L => patVal x.ty (shrVal x.ty.bits (L.srcP x.ty x.a) (L.count x.b))) s
/-- SHRA. -/
def execShra (x : IntOp) (s : State) : Host.Outcome State Fault Refusal :=
  intRow x false false true (fun L => shraVal x.ty.bits (L.srcP x.ty x.a) (L.count x.b)) s
/-- ROTL. -/
def execRotl (x : IntOp) (s : State) : Host.Outcome State Fault Refusal :=
  intRow x false false true (fun L => patVal x.ty (rotlVal x.ty.bits (L.srcP x.ty x.a) (L.count x.b))) s
/-- FSHL. -/
def execFshl (x : IntOp) (s : State) : Host.Outcome State Fault Refusal :=
  intRow x true false true (fun L => patVal x.ty (fshlVal x.ty.bits (L.srcP x.ty x.d) (L.srcP x.ty x.a) (L.count x.b))) s
/-- POPC. -/
def execPopc (x : IntUn) (s : State) : Host.Outcome State Fault Refusal :=
  intRow1 x false (fun L => (popVal x.ty.bits (L.srcP x.ty x.a) : Int)) s
/-- CLZ. -/
def execClz (x : IntUn) (s : State) : Host.Outcome State Fault Refusal :=
  intRow1 x false (fun L => (clzVal x.ty.bits (L.srcP x.ty x.a) : Int)) s
/-- CTZ. -/
def execCtz (x : IntUn) (s : State) : Host.Outcome State Fault Refusal :=
  intRow1 x false (fun L => (ctzVal x.ty.bits (L.srcP x.ty x.a) : Int)) s
/-- BREV. -/
def execBrev (x : IntUn) (s : State) : Host.Outcome State Fault Refusal :=
  intRow1 x false (fun L => patVal x.ty (brevVal x.ty.bits (L.srcP x.ty x.a))) s
/-- BFX: B is at least 4 stitches wide (08 R174). -/
def execBfx (x : IntOp) (s : State) : Host.Outcome State Fault Refusal :=
  intRow x false false (4 ≤ x.b.w.stitches) (fun L => bfxVal x.ty (L.srcP x.ty x.a) (L.rd x.b)) s
/-- BFI: B is at least 4 stitches wide (08 R174). -/
def execBfi (x : IntOp) (s : State) : Host.Outcome State Fault Refusal :=
  intRow x true false (4 ≤ x.b.w.stitches)
    (fun L => patVal x.ty (bfiVal x.ty.bits (L.srcP x.ty x.d) (L.srcP x.ty x.a) (L.rd x.b))) s
/-- SEL (08 R175): D is read at its own width. -/
def execSel (x : IntOp) (s : State) : Host.Outcome State Fault Refusal :=
  intRow x true false true (fun L => if L.rd x.d = 0 then L.src x.ty x.b else L.src x.ty x.a) s

/-- ADDC and SUBB (08 R173): the carry predicate is p(28 + c). -/
def carryRow (x : CarryOp) (f : Nat → Nat → Nat → Bool → Nat × Bool) (s : State) : Host.Outcome State Fault Refusal :=
  bodyWord { WordInfo.plain x.hd 1 [x.a, x.b] [x.d] (intW x.a && intW x.b && intW x.d) with pf := true } (fun s r R m =>
    .done (fixedEff s r R m (fun _ L =>
      let u := f x.ty.bits (L.srcP x.ty x.a) (L.srcP x.ty x.b) (L.pred (28 + x.c))
      [wrInt x.d x.ty false (readInt x.ty u.1), .pr (28 + x.c) u.2]))) s

/-- ADDC. -/
def execAddc (x : CarryOp) (s : State) : Host.Outcome State Fault Refusal := carryRow x addCarry s
/-- SUBB. -/
def execSubb (x : CarryOp) (s : State) : Host.Outcome State Fault Refusal := carryRow x subBorrow s

/-- The bits of MOV's source: a stitch operand's or a special register's, and how many (03 R75, 08 R175). -/
def movSource (s : State) (r : SlotRef) (l : Nat) (L : Lane) : MovSrc → Nat × Nat
  | .stitch a => (L.rd a, a.w.bits)
  | .special n => (special s r l n, specialBits n)

/-- MOV (08 R175): without a type the bits are copied; with one it is an ordinary row. -/
def execMov (x : MovOp) (s : State) : Host.Outcome State Fault Refusal :=
  let srcs := match x.src with
    | .stitch a => [a]
    | .special _ => []
  let ok := x.ty == .none || (intW x.d && srcs.all intW)
  bodyWord (WordInfo.plain x.hd 1 srcs [x.d] ok) (fun s r R m =>
    .done (fixedEff s r R m (fun l L =>
      let a := movSource s r l L x.src
      [if x.ty = .none then wrTo x.d (a.1 % 2 ^ x.d.w.bits) else wrInt x.d x.ty x.sat (srcInt x.ty a.1 a.2)]))) s

/-- XT (08 R175): A at its own width, extended or saturated to D's. -/
def execXt (x : IntUn) (s : State) : Host.Outcome State Fault Refusal :=
  bodyWord (WordInfo.plain x.hd 1 [x.a] [x.d] (intW x.a && intW x.d)) (fun s r R m =>
    .done (fixedEff s r R m (fun _ L =>
      let v := if x.ty.signed then extS (L.rd x.a) x.a.w.bits else (L.rd x.a : Int)
      let v := if x.sat then (if x.ty.signed then satS v x.d.w.bits else satN v x.d.w.bits) else v
      [wrTo x.d (pat v x.d.w.bits)]))) s

/-- CMP (08 R176). -/
def execCmp (x : CmpOp) (s : State) : Host.Outcome State Fault Refusal :=
  bodyWord { WordInfo.plain x.hd 1 [x.a, x.b] [] (intW x.a && intW x.b) with pf := true } (fun s r R m =>
    .done (fixedEff s r R m (fun _ L => [.pr x.p (cndHolds x.cnd (L.src x.ty x.a) (L.src x.ty x.b))]))) s

/-- An immediate at the type: its pattern modulo 2^w (08 R177). -/
def immVal (t : Ty) (imm : Int) : Int := readInt t (pat imm t.bits)

/-- ADDI (08 R177). -/
def execAddi (x : ImmOp) (s : State) : Host.Outcome State Fault Refusal := immRow x true (fun L => L.src x.ty x.a + x.imm) s
/-- ANDI. -/
def execAndi (x : ImmOp) (s : State) : Host.Outcome State Fault Refusal :=
  immRow x false (fun L => patVal x.ty (L.srcP x.ty x.a &&& pat x.imm x.ty.bits)) s
/-- ORI. -/
def execOri (x : ImmOp) (s : State) : Host.Outcome State Fault Refusal :=
  immRow x false (fun L => patVal x.ty (L.srcP x.ty x.a ||| pat x.imm x.ty.bits)) s
/-- XORI. -/
def execXori (x : ImmOp) (s : State) : Host.Outcome State Fault Refusal :=
  immRow x false (fun L => patVal x.ty (L.srcP x.ty x.a ^^^ pat x.imm x.ty.bits)) s
/-- SHLI. -/
def execShli (x : ImmOp) (s : State) : Host.Outcome State Fault Refusal :=
  immRow x true (fun L => shlVal x.ty.bits (L.src x.ty x.a) x.imm.toNat) s
/-- SHRI. -/
def execShri (x : ImmOp) (s : State) : Host.Outcome State Fault Refusal :=
  immRow x false (fun L => patVal x.ty (shrVal x.ty.bits (L.srcP x.ty x.a) x.imm.toNat)) s
/-- SHRAI. -/
def execShrai (x : ImmOp) (s : State) : Host.Outcome State Fault Refusal :=
  immRow x false (fun L => shraVal x.ty.bits (L.srcP x.ty x.a) x.imm.toNat) s
/-- MULI. -/
def execMuli (x : ImmOp) (s : State) : Host.Outcome State Fault Refusal := immRow x true (fun L => L.src x.ty x.a * x.imm) s

/-- CMPI (08 R176, R177). -/
def execCmpi (x : CmpIOp) (s : State) : Host.Outcome State Fault Refusal :=
  bodyWord { WordInfo.plain x.hd 2 [x.a] [] (intW x.a) with pf := true } (fun s r R m =>
    .done (fixedEff s r R m (fun _ L => [.pr x.p (cndHolds x.cnd (L.src x.ty x.a) (immVal x.ty x.imm))]))) s

/-- MOVI (08 R178): the immediate's value through 08 R171. -/
def execMovi (x : MovIOp) (s : State) : Host.Outcome State Fault Refusal :=
  bodyWord (WordInfo.plain x.hd 2 [] [x.d] (intW x.d)) (fun s r R m =>
    let v := if x.ty.signed then extS x.imm 20 else extZ x.imm 20
    .done (fixedEff s r R m (fun _ _ => [wrInt x.d x.ty x.sat (toType x.ty false v)]))) s

/-- MOVHI (08 R178). -/
def execMovhi (x : MovIOp) (s : State) : Host.Outcome State Fault Refusal :=
  bodyWord (WordInfo.plain x.hd 2 [] [x.d] (intW x.d)) (fun s r R m =>
    .done (fixedEff s r R m (fun _ _ => [wrInt x.d x.ty x.sat (readInt x.ty (x.imm * 2 ^ 12))]))) s

end Machine
end Sys2Proof
end

