-- ==== Sys2Proof/Machine/LaunchOps.lean ====
section
/-! DEFINITION. Launches: the management core's and the distributor's own accesses, parameter blocks (19 R336, R337), walks (19 R340), placement
and admission (19 R341, R342), visits and settlement (19 R338, R339), team records and fault reports (19 R348, 21 R363), and the end of a
team (01 R20, 19 R349, 21 R363). -/

set_option Elab.async false

namespace Sys2Proof
namespace Machine

/-! ## Accesses that no core makes -/

/-- Bytes at an address of a context, at their places; none where they do not translate or cannot be read. -/
def mgmtRead (s : State) (ctx va : Nat) : Nat → Option (List Byte)
  | 0 => some []
  | n + 1 =>
    match (mgmtXlate s ctx (va % 2 ^ 56) .read).2 with
    | .fault _ => none
    | .ok _ k => if s.poisoned k then none else (mgmtRead s ctx (va + 1) n).map (s.mem.read k :: ·)

/-- Words of 8 bytes. -/
def wordsOf : Nat → List Byte → List Word64
  | 0, _ => []
  | n + 1, bs => BitVec.ofNat 64 (bytesNat (bs.take 8)) :: wordsOf n (bs.drop 8)

def mgmtWords (s : State) (ctx va n : Nat) : Option (List Word64) := (mgmtRead s ctx va (8 * n)).map (wordsOf n)

/-- Bytes written at an address of a context, at their places; the address of a fault, before which the earlier bytes are written. -/
def mgmtWrite (s : State) (ctx va : Nat) : List Byte → State × Option Nat
  | [] => (s, none)
  | b :: bs =>
    match mgmtXlate s ctx (va % 2 ^ 56) .write with
    | (s, .fault _) => (s, some (va % 2 ^ 56))
    | (s, .ok _ k) => mgmtWrite (s.put k 0xFF b) ctx (va + 1) bs

/-! ## Queues -/

/-- The number of a panel's host queue handle among all handles (27 R412). -/
def handleId (panel h : Nat) : Nat := panel * 512 + h

def State.handle (s : State) (h : Nat) : Handle := tabGet Handle.unbound s.handles h
def State.setHandle (s : State) (h : Nat) (x : Handle) : State := { s with handles := tabSet s.handles h x }

def Queue.is (q : Queue) (panel rcb n : Nat) : Bool := q.panel == panel && q.rcb == rcb && q.q == n

def findQueue (s : State) (panel rcb n : Nat) : Option Queue := s.queues.find? (fun q => q.is panel rcb n)

def setQueue (s : State) (x : Queue) : State := { s with queues := s.queues.map (fun q => if q.is x.panel x.rcb x.q then x else q) }

/-- The virtual device in whose tree a block stands: the enabled one whose ROOT is the root of its path (19 R427, 23 R379). -/
def vdOfRcb (s : State) (panel addr : Nat) : Option Nat :=
  ((rcbPath s panel (rcbFuel s) addr).getLast?).bind (fun (b : Rcb) =>
    (List.range 16).find? (fun v => bit (descWord (s.vd panel v) 0) 63 && fld (descWord (s.vd panel v) 0) 0 56 == b.addr))

/-! ## Parameter blocks -/

def Launch.entry (L : Launch) : Nat := L.blk 0 0 56
def Launch.twinTeams (L : Launch) : Nat := if L.twin then 2 else 1
def Launch.gmin (L : Launch) : Nat := L.blk 3 48 8
def Launch.scratch (L : Launch) : Nat := L.blk 4 0 20
def Launch.pmode (L : Launch) : Bool := L.blk 4 36 1 == 1
def Launch.swz (L : Launch) : Nat := L.blk 4 32 4
def Launch.order (L : Launch) : Nat := L.blk 4 30 2
def Launch.idem (L : Launch) : Bool := L.blk 4 29 1 == 1
def Launch.ctx (L : Launch) : Nat := ctxId L.panel L.vd

/-- Lanes of a gang: 32, 16 or 64 (26 R400, R408). -/
def Launch.width (L : Launch) : Nat := match fld (descWord L.desc 5) 22 2 with
  | 1 => 16
  | 2 => 64
  | _ => 32

/-- Hardware gangs of a launched gang (26 R408). -/
def Launch.parts (L : Launch) : Nat := if L.width = 64 then 2 else 1

/-- E, the core-cycles of a team, where E_max is the leaf's (19 R336, R339). -/
def Launch.cost (L : Launch) (emax : Nat) : Nat := if L.blk 5 0 32 = 0 then emax else L.blk 5 0 32

/-- Teams of a dispatch unit (19 R337). -/
def Launch.unitTeams (L : Launch) : Nat := if L.grid then L.teams else L.twinTeams

/-- No reserved bit of a block is set (19 R336). -/
def blockBits (b : List Word64) : Bool :=
  let z (i lo n : Nat) : Bool := fld (descWord b i) lo n == 0
  z 0 56 8 && z 1 56 8 && z 2 60 4 && z 3 56 8 && z 3 11 13 && z 4 37 3 && z 4 20 7 && z 5 32 32 && z 6 56 8 && z 7 56 8
    && z 8 28 36 && z 8 12 4 && z 9 56 8 && z 10 56 8 && (List.range 5).all (fun i => z (11 + i) 0 64)

/-- Every field lies in its range, and the conditions of 19 R337 hold that need no placement; a reserved WIDTH and a pair of more than 16
gangs are malformed too (26 R400, R408). -/
def blockFields (L : Launch) (emax : Nat) : Bool :=
  let g := L.gangs
  let d (i lo n : Nat) : Nat := fld (descWord L.desc i) lo n
  L.entry % 8 == 0 && d 1 0 56 ≤ L.entry && L.entry + 8 ≤ d 2 0 56
    && 1 ≤ L.dimx && 1 ≤ L.dimy && 1 ≤ L.dimz && 1 ≤ g && g ≤ 32 && 1 ≤ L.stitch && L.stitch ≤ 1024 && L.swz ≤ 10 && L.scratch ≤ 983040
    && L.blk 7 0 56 % 128 == 0 && L.blk 9 0 56 % 4 == 0 && L.blk 10 0 56 % 256 == 0
    && g ≤ d 5 16 6 && d 5 0 11 ≤ L.stitch && d 6 0 20 ≤ L.scratch
    && !(L.twin && L.teams % 2 == 1)
    && L.cost emax * L.unitTeams ≤ emax
    && (L.gmin == 0 || (L.blk 7 0 56 != 0 && 3 ≤ L.gmin && L.gmin < fullGrant L.stitch))
    && !bit (descWord L.desc 5) 11 && d 5 22 2 != 3 && !(L.width == 64 && 16 < g)
    && !(L.pmode && L.blk 9 0 56 == 0)

/-! ## Walks -/

/-- Hilbert's point (19 R340): `s` doubles until it reaches `n`. -/
def hilbertFrom (n : Nat) : Nat → Nat → Nat → Nat → Nat → Nat × Nat
  | 0, _, _, x, y => (x, y)
  | fuel + 1, t, s, x, y =>
    if n ≤ s then (x, y)
    else
      let rx := t / 2 % 2
      let ry := (t % 2) ^^^ rx
      let p : Nat × Nat := if ry = 0 then (if rx = 1 then (s - 1 - y, s - 1 - x) else (y, x)) else (x, y)
      hilbertFrom n fuel (t / 4) (2 * s) (p.1 + s * rx) (p.2 + s * ry)

def hilbertPoint (d n : Nat) : Nat × Nat := hilbertFrom n 21 d 1 0 0

/-- The bits of `d` at even places from place 0 up (19 R340). -/
def evenBits (d : Nat) : Nat := bitsOf (fun i => bit d (2 * i)) 20

def mortonPoint (d : Nat) : Nat × Nat := (evenBits d, evenBits (d / 2))

/-- The `r`-th point from ordinal `d` on, of those that lie in a strip of `w` columns and `h` rows (19 R340). -/
def nthPoint (w h : Nat) (pt : Nat → Nat × Nat) : Nat → Nat → Nat → Nat × Nat
  | 0, _, _ => (0, 0)
  | fuel + 1, d, r =>
    let p := pt d
    if p.1 < w ∧ p.2 < h then (if r = 0 then p else nthPoint w h pt fuel (d + 1) (r - 1)) else nthPoint w h pt fuel (d + 1) r

/-- The least power of two that is not below `a`; `a` is at most 2^20. -/
def pow2Above (a : Nat) : Nat := (List.range 21).foldl (fun n _ => if n < a then 2 * n else n) 1

/-- Point `r` of a strip in the launch's order (19 R340). -/
def stripPoint (order w h r : Nat) : Nat × Nat :=
  let n := pow2Above (max w h)
  match order with
  | 0 => (r % w, r / w)
  | 1 => (r / h, r % h)
  | 2 => nthPoint w h mortonPoint (n * n) 0 r
  | _ => nthPoint w h (fun d => hilbertPoint d n) (n * n) 0 r

/-- The linear index of the team at a walk position (19 R340, R341). -/
def walkIndex (L : Launch) (p : Nat) : Nat :=
  if L.pmode then p
  else
    let x := L.dimx
    let y := L.dimy
    let z := p / (x * y)
    let q := p % (x * y)
    let w := if L.swz = 0 then x else 2 ^ L.swz
    let k := q / (w * y)
    let a := stripPoint L.order (min w (x - k * w)) y (q - k * w * y)
    k * w + a.1 + x * (a.2 + y * z)

/-! ## Placement -/

/-- What a core gives a team: each hardware gang's place, first granule and granules, the grant, and the scratchpad granule (19 R342). -/
structure Alloc where
  runs : List (Nat × Nat × Nat)
  grant : Nat
  spad : Nat
  deriving DecidableEq, Repr

/-- Adjacent slots 2j and 2j + 1 for a pair, on the scheduler with the fewest gangs that has them (26 R409). -/
def pickPair (free : List Nat) : Option Nat :=
  let pairs := free.filter (fun i => i % 2 == 0 && free.contains (i + 1))
  let order := (List.range 13).flatMap (fun n => (List.range 4).filter (fun k => schedLoad free k == n))
  match order.find? (fun k => pairs.any (fun i => i / 12 == k)) with
  | some k => pairs.find? (fun i => i / 12 == k)
  | none => none

/-- Slots and runs of granules for gangs of some hardware gangs and a grant each, one after another (19 R342). -/
def allocGangs : List (Nat × Nat) → List Nat → List (Nat × Nat) → Option (List (Nat × Nat × Nat))
  | [], _, _ => some []
  | (parts, grant) :: gs, free, used =>
    match (if parts = 2 then pickPair free else pickSlot free), firstFit used Config.regGranules grant with
    | some i, some a =>
      if parts = 2 then
        match firstFit ((a, grant) :: used) Config.regGranules grant with
        | none => none
        | some b => (allocGangs gs (free.filter (fun j => j != i && j != i + 1)) ((a, grant) :: (b, grant) :: used)).map
            (fun l => (i, a, grant) :: (i + 1, b, grant) :: l)
      else (allocGangs gs (free.filter (· != i)) ((a, grant) :: used)).map (fun l => (i, a, grant) :: l)
    | _, _ => none

/-- Scratchpad granules of an allocation. -/
def spadCount (scratch : Nat) : Nat := (scratch + 8191) / 8192

def usedSpad (s : State) (core : Nat) : List (Nat × Nat) :=
  (s.teams.filter (fun e => e.2.core == core && e.2.scratch != 0)).map (fun e => (e.2.spadBase, spadCount e.2.scratch))

/-- What a core gives a team, at the first of some grants at which its gangs fit (19 R342). -/
def allocWith (s : State) (core scratch : Nat) (gangs : Nat → List (Nat × Nat)) (grants : List Nat) : Option Alloc :=
  if Config.coreTeams ≤ (s.teams.filter (fun e => e.2.core == core)).length then none
  else
    match firstFit (usedSpad s core) Config.spadGranules (spadCount scratch) with
    | none => none
    | some p => grants.findSome? (fun n =>
        (allocGangs (gangs n) (freeSlots s core) (usedGranules s core)).map (fun l =>
          { runs := l.map (fun x => (core * 64 + x.1, x.2)), grant := n, spad := p }))

/-- The grants that a launch accepts, best first: the full one, then those from the next lower down to GMIN (19 R342). -/
def Launch.grants (L : Launch) : List Nat :=
  let full := fullGrant L.stitch
  full :: (if L.gmin = 0 then [] else ((List.range (full - L.gmin)).map (fun i => full - 1 - i)))

/-- What a core gives a team of a launch. -/
def allocOn (s : State) (core : Nat) (L : Launch) : Option Alloc := allocWith s core L.scratch (fun n => List.replicate L.gangs (L.parts, n)) L.grants

/-- The core of a panel core number that can take teams: its twin, or the twin's spare, is up (19 R341, 23 R377, 27 R421). -/
def panelCoreAt (s : State) (panel c : Nat) : Option Nat :=
  let d := s.panel panel
  if c / 2 < nTwinOf d then
    match physTwin d (c / 2) with
    | some p => if s.ready.twins.getLsbD p then some (2 * p + c % 2) else none
    | none => none
  else none

/-- The lowest team position that no team of the core holds (18 R332). -/
def freePos (s : State) (core : Nat) : Nat :=
  (firstBelow 16 (fun p => s.teams.all (fun e => !(e.2.core == core && e.2.pos == p)))).getD 0

/-- The role of launched gang `n`: V first, then M, then C (01 R17). -/
def roleOf (L : Launch) (n : Nat) : Role :=
  if n < L.blk 3 24 8 then .v else if n < L.blk 3 24 8 + L.blk 3 32 8 then .m else .c

/-- The lanes with which a gang starts (26 R408). -/
def startMask (width : Nat) : Mask := maskOf (fun l => l < width)

/-- A launched gang at its team's admission (03 R74, 19 R342, R343). -/
def startGang (L : Launch) (team idx n grant age : Nat) : Gang :=
  { Gang.blank with
    team := some team, num := n, role := roleOf L n, width := L.width, a := Slot.at L.entry (startMask L.width) none, age,
    live := startMask L.width, bound := boundOf L.stitch grant, govb := backingBase L idx (L.parts * n) }.setK 0 (L.blk 6 0 56)

/-- The places of a team's launched gangs: the first of each one's hardware gangs. -/
def gangPlaces (parts : Nat) (runs : List (Nat × Nat × Nat)) : List Nat :=
  (List.range (runs.length / parts)).filterMap (fun i => (runs[parts * i]?).map (·.1))

/-- A team as it is admitted (13 R274, R277, 06 R138). -/
def startTeam (s : State) (L : Launch) (lid p core : Nat) (a : Alloc) (partner : Option Nat) (eff : Rcb) : Team :=
  { launch := lid, eff, idx := walkIndex L p, core, pos := freePos s core, cluster := p / L.twinTeams, cbar := p / L.twinTeams, partner, ngang := L.gangs,
    stitches := L.stitch, grant := a.grant, regRuns := a.runs, gmarks := [], spadBase := a.spad, scratch := L.scratch,
    bars := List.replicate 16 (Barrier.init L.gangs), recs := List.replicate 64 RecSlot.init, reg := none, recallsTill := 0,
    refusals := 0,
    admitted := (s.core core).clock.toNat, seq := s.nextCmd, resid := 0, winOff := 0, metered := 0, saves := 0, spawned := 0, stallTot := List.replicate 16 0, pre := .none, ended := none,
    image := none, remap := none }

/-- The constant cache of a core emptied: what was written before a team's admission is seen by it (06 R133). -/
def emptyCc (s : State) (core : Nat) : State := s.setCore core { s.core core with cc := [] }

/-- A team admitted to a core (19 R342): its gangs start in one cycle, and its admission is an acquire at .y (19 R336). -/
def admitTeam (s : State) (lid p core : Nat) (L : Launch) (a : Alloc) (partner : Option Nat) : State :=
  match findRcb s L.panel L.rcb with
  | none => s
  | some b =>
    let id := s.nextTeam
    let T := startTeam s L lid p core a partner (effRcb s b)
    let gs := mapFrom (fun n g => (g, startGang L id T.idx n a.grant s.now)) 0 (gangPlaces L.parts a.runs)
    let s := { s with nextTeam := id + 1, nextCmd := s.nextCmd + 1 }.setTeam id T
    emptyCc (acquireAction (gs.foldl (fun s g => s.setGang g.1 g.2) s) core) core

/-- The barrier registers of a cluster: CEXP members, or its launched gangs (13 R277). -/
def openCluster (s : State) (lid c : Nat) : State :=
  s.updLaunch lid (fun L =>
    { L with cbars := tabSet L.cbars c (List.replicate 8 (Barrier.init (if L.blk 8 0 12 = 0 then L.gangs * L.twinTeams else L.blk 8 0 12))) })

/-- Teams of a launch on a core. -/
def launchLoad (s : State) (lid core : Nat) : Nat := (s.teams.filter (fun e => e.2.launch == lid && e.2.core == core)).length

/-- The outcome of a placement: placed, not now, or a placement error. -/
inductive Placed
  | ok (s : State)
  | no
  | error

/-- The least of some numbers by a weight, ties to the first. -/
def leastBy (f : Nat → Nat) : List Nat → Option Nat
  | [] => none
  | c :: cs => match leastBy f cs with
    | some d => some (if f c ≤ f d then c else d)
    | none => some c

/-- Teams at two walk positions admitted to the cores of a panel twin, or none (19 R340, R341). -/
def admitPair (s : State) (lid p : Nat) (L : Launch) (c : Nat) : Option State :=
  match panelCoreAt s L.panel c, panelCoreAt s L.panel (c + 1) with
  | some x, some y =>
    match allocOn s x L with
    | none => none
    | some a =>
      let t := s.nextTeam
      let s := admitTeam s lid p x L a (some (t + 1))
      match allocOn s y L with
      | none => none
      | some b => some (openCluster (admitTeam s lid (p + 1) y L b (some t)) lid (p / 2))
  | _, _ => none

/-- A team at a walk position admitted to a panel core, or none. -/
def admitSingle (s : State) (lid p : Nat) (L : Launch) (c : Nat) : Option State :=
  match panelCoreAt s L.panel c with
  | some x => (allocOn s x L).map (fun a => openCluster (admitTeam s lid p x L a none) lid p)
  | none => none

/-- The panel core that the placement table names for a team; none where it cannot be read (19 R341). -/
def tableCore (s : State) (L : Launch) (i : Nat) : Option Nat := (mgmtRead s L.ctx (L.blk 9 0 56 + 4 * i) 4).map bytesNat

/-- The teams of a cluster placed (19 R341). -/
def placeCluster (s : State) (lid p : Nat) (L : Launch) : Placed :=
  let n := 2 * nTwinOf (s.panel L.panel)
  let load (c : Nat) : Nat := match panelCoreAt s L.panel c with | some x => launchLoad s lid x | none => 0
  if L.pmode then
    match tableCore s L p with
    | none => .error
    | some c =>
      if (panelCoreAt s L.panel c).isNone then .error
      else if L.twin then
        if c % 2 ≠ 0 ∨ tableCore s L (p + 1) ≠ some (c + 1) then .error
        else match admitPair s lid p L c with
          | some s => .ok s
          | none => .no
      else match admitSingle s lid p L c with
        | some s => .ok s
        | none => .no
  else if L.twin then
    let ok := ((List.range (n / 2)).map (2 * ·)).filter (fun c => (admitPair s lid p L c).isSome)
    match (leastBy (fun c => load c + load (c + 1)) ok).bind (admitPair s lid p L) with
    | some s => .ok s
    | none => .no
  else
    let ok := (List.range n).filter (fun c => match panelCoreAt s L.panel c with
      | some x => (allocOn s x L).isSome
      | none => false)
    match (leastBy load ok).bind (admitSingle s lid p L) with
    | some s => .ok s
    | none => .no

/-- The clusters of a unit placed one after another, all or none (19 R341). -/
def placeAll (lid : Nat) (L : Launch) : List Nat → State → Placed
  | [], s => .ok s
  | p :: ps, s =>
    match placeCluster s lid p L with
    | .ok s => placeAll lid L ps s
    | .no => .no
    | .error => .error

/-- The first walk positions of the clusters of a launch's next undispatched unit, those placed back first (19 R337, 21 R366). -/
def nextUnit (L : Launch) : List Nat :=
  let k := L.twinTeams
  if !L.again.isEmpty then
    if L.grid then L.again.filter (fun p => p % k == 0) else L.again.take 1
  else if L.teams ≤ L.walk then []
  else if L.grid then (List.range (L.teams / k)).map (fun i => k * i)
  else [L.walk]

/-- A launch with a unit dispatched (19 R339). -/
def Launch.passUnit (L : Launch) : Launch :=
  let n := L.unitTeams
  if !L.again.isEmpty then { L with again := L.again.drop n, dispatched := L.dispatched + n }
  else { L with walk := L.walk + n, dispatched := L.dispatched + n }

/-- Every team of the launch has been dispatched. -/
def Launch.spent (L : Launch) : Bool := L.dropped || (L.again.isEmpty && L.teams ≤ L.walk)

/-- Every team of a grid launch fits on the empty panel; an error in a placement table is found at dispatch (19 R337, R341). -/
def fitsEmpty (s : State) (L : Launch) : Bool :=
  if Config.coreTeams * 2 * nTwinOf (s.panel L.panel) < L.teams then false
  else
    match placeAll 0 L (nextUnit { L with walk := 0, again := [] }) ({ s with teams := [], gangs := [] }.setLaunch 0 L) with
    | .no => false
    | .ok _ | .error => true

/-- The distributor of a panel, which waited after a round of visits that dispatched nothing, visits its queues again (19 R339). -/
def stir (s : State) (panel : Nat) : State := { s with quiet := tabDel s.quiet panel }

/-! ## Submission -/

/-- The statuses of a submission (13 R290). -/
def stQueued : Nat := 0
def stFull : Nat := 1
def stMalformed : Nat := 2
def stNoQueue : Nat := 3

/-- The launch that a block at an address describes, where it is sound (19 R336, R337). -/
def parseBlock (s : State) (q : Queue) (vd addr : Nat) (b : Rcb) : Option Launch := do
  let ctx := ctxId q.panel vd
  if addr % 64 ≠ 0 ∨ 2 ^ 56 ≤ addr then none
  else
    let block ← mgmtWords s ctx addr 16
    let desc ← mgmtWords s ctx (fld (descWord block 1) 0 56) 8
    let L : Launch := { panel := q.panel, vd, rcb := q.rcb, queue := q.q, block, blockAddr := addr, desc, walk := 0, dispatched := 0,
                        again := [], retired := 0, dropped := false, gbars := [], cbars := [], sent := 0, recv := 0, sweep := none }
    let g := L.blk 8 16 12
    let L := { L with gbars := if L.grid then List.replicate 4 (Barrier.init (if g = 0 then L.teams else g)) else [] }
    if blockBits block && blockFields L (effRcb s b).emax && (!L.grid || fitsEmpty s L) then some L else none

/-- A block submitted to a queue, and the status (13 R290, 19 R336). -/
def submit (s : State) (panel rcb n vd addr : Nat) : State × Nat :=
  match findQueue s panel rcb n, findRcb s panel rcb with
  | some q, some b =>
    match parseBlock s q vd addr b with
    | none => (s, stMalformed)
    | some L =>
      if Config.queueBlocks ≤ q.launches.length then (s, stFull)
      else
        (stir (setQueue { s with nextLaunch := s.nextLaunch + 1, launches := tabSet s.launches s.nextLaunch L }
          { q with launches := q.launches ++ [s.nextLaunch] }) panel, stQueued)
  | _, _ => (s, stNoQueue)

/-! ## Fault reports -/

/-- What a fault report holds besides its sequence number (21 R363). -/
structure Report where
  cause : Nat
  first : Nat
  second : Nat
  fdom : Nat
  core : Nat
  /-- ORD and OFF, as in ctl.tcause [63:37] -/
  word : Nat
  block : Nat
  idx : Nat
  rcb : Nat
  detail : Nat
  clock : Nat
  deriving DecidableEq, Repr

def reportBytes (p : Report) (seq : Nat) : List Byte :=
  [BitVec.ofNat 8 p.cause, BitVec.ofNat 8 p.first, BitVec.ofNat 8 p.fdom, BitVec.ofNat 8 p.second] ++ natBytes 4 p.core ++ natBytes 8 p.word
    ++ natBytes 8 p.block ++ natBytes 8 p.idx ++ natBytes 8 p.rcb ++ natBytes 8 p.detail ++ natBytes 8 p.clock ++ natBytes 8 seq

/-- A report appended to the ring of a virtual device (21 R363, 23 R379). -/
def appendReport (s : State) (panel vd : Nat) (p : Report) : State :=
  let d := s.vd panel vd
  let key := panel * 16 + vd
  let seq := tabGet 0 s.reportSeq key + 1
  let s := { s with reportSeq := tabSet s.reportSeq key seq }
  (mgmtWrite s (sysCtx panel) (fld (descWord d 4) 0 56 + 64 * ((seq - 1) % 2 ^ fld (descWord d 5) 0 5)) (reportBytes p seq)).1

/-- ORD and OFF of a word in their places of ctl.tcause. -/
def ordOff (ord off : Nat) : Nat := ord * 2 ^ 44 + off * 2 ^ 37

/-! ## Visits -/

/-- A launch whose placement failed (19 R341): its undispatched teams are dropped, and the error is reported with cause 51. -/
def placementError (s : State) (q : Queue) (lid : Nat) (L : Launch) : State :=
  let s := setQueue (s.setLaunch lid { L with dropped := true, again := [], walk := L.teams }) { q with launches := q.launches.filter (· != lid) }
  let fdom := (findRcb s L.panel L.rcb).elim 0 (fun b => (effRcb s b).fdom)
  let idx := ((nextUnit L).head?).elim 0 (walkIndex L)
  let s := appendReport s L.panel L.vd
    { cause := 51, first := 0, second := 0, fdom, core := 0, word := ordOff noOrd 0, block := L.blockAddr, idx, rcb := L.rcb, detail := 0, clock := 0 }
  if s.teams.any (fun e => e.2.launch == lid) || s.saved.any (fun v => v.body.launch == lid) then s
  else { s with launches := tabDel s.launches lid, past := tabSet s.past lid L }

/-- The next unit of a queue's oldest launch, placed: the state, the core-cycles that it is charged, or why not (19 R339). -/
inductive UnitPlaced
  | none
  | ok (s : State) (charge : Nat)
  | no
  | error (lid : Nat) (L : Launch)

/-- A team of the queue is saved out and waits for its restore, which places it ahead of every undispatched unit (19 R344); one that CTXSV saved
waits for CTXLD. -/
def savedAhead (s : State) (q : Queue) : Bool :=
  s.saved.any (fun v => !v.byCtx && (s.launch? v.body.launch).any (fun (L : Launch) => q.is L.panel L.rcb L.queue))

def placeNext (s : State) (q : Queue) : UnitPlaced :=
  match q.launches with
  | [] => .none
  | lid :: rest =>
    match s.launch? lid with
    | none => .none
    | some L =>
      if savedAhead s q then .no
      else
      match placeAll lid L (nextUnit L) s with
      | .no => .no
      | .error => .error lid L
      | .ok s =>
        let emax := (findRcb s L.panel L.rcb).elim 0 (fun b => (effRcb s b).emax)
        let s := s.updLaunch lid Launch.passUnit
        let s := if (s.launch? lid).any Launch.spent then setQueue s { q with launches := rest } else s
        .ok s (L.cost emax * L.unitTeams)

/-- Units dispatched while the deficit is positive and the next one fits (19 R339). -/
def dispatchLoop (panel rcb n : Nat) : Nat → State → State
  | 0, s => s
  | fuel + 1, s =>
    match findQueue s panel rcb n with
    | none => s
    | some q =>
      if q.deficit ≤ 0 then s
      else
        match placeNext s q with
        | .none => s
        | .no => s
        | .error lid L => placementError s q lid L
        | .ok s charge =>
          (match findQueue s panel rcb n with
           | some q => dispatchLoop panel rcb n fuel (setQueue s { q with deficit := q.deficit - charge })
           | none => s)

/-- A visit of a queue (19 R339). -/
def visitQueue (s : State) (q : Queue) : State :=
  match placeNext s q with
  | .none => setQueue s { q with idle := true, deficit := min q.deficit 0 }
  | .no => s
  | .error lid L => placementError s q lid L
  | .ok _ _ =>
    let quantum := (findRcb s q.panel q.rcb).elim 0 (fun b => (effRcb s b).quantum)
    dispatchLoop q.panel q.rcb q.q (Config.coreTeams * Config.nCores + 1)
      (setQueue s { q with idle := false, deficit := q.deficit + quantum })

/-- The queues of a panel that are visited: those of the virtual device whose slice it is, in the cyclic order (19 R339, 23 R381). -/
def visited (s : State) (panel : Nat) : List Queue :=
  match tabFind s.slice panel with
  | none => []
  | some (v, ended, _) => if ended then [] else s.queues.filter (fun q => q.panel == panel && vdOfRcb s panel q.rcb == some v)

/-- The distributor of a panel has more visits to make: it waits after a whole round that has dispatched nothing (19 R339). -/
def visitDue (s : State) (panel : Nat) : Bool := tabGet 0 s.quiet panel < (visited s panel).length

/-- A queue visited, and the visits in a row counted that dispatch nothing; one that drops a launch for its placement error is not among them
(DESIGN CHOICE, log 70: 19 R339 does not say). -/
def countVisit (s : State) (q : Queue) : State :=
  let s' := visitQueue s q
  let same : Bool := s'.nextTeam == s.nextTeam && ((findQueue s' q.panel q.rcb q.q).map (·.launches)) == some q.launches
  { s' with quiet := if same then tabSet s'.quiet q.panel (tabGet 0 s.quiet q.panel + 1) else tabDel s'.quiet q.panel }

/-- Ceiling of a quotient. -/
def ceilDiv (a b : Nat) : Nat := (a + b - 1) / b

/-- `n` resident cycles times the team's share, rounded up (19 R338). A pair counts as two gangs (log 27). -/
def Team.chargeFor (T : Team) (parts n : Nat) : Nat :=
  max (max (ceilDiv (n * (parts * T.ngang)) 48) (ceilDiv (n * (parts * T.ngang * T.grant)) 512))
    (max (ceilDiv (n * spadCount T.scratch) 120) (ceilDiv n 16))

def chargeOf (s : State) (T : Team) : Nat := T.chargeFor ((s.launch? T.launch).elim 1 Launch.parts) T.resid

/-! ## Meters -/

/-- A team's record changed, resident or saved out. -/
def State.updBody (s : State) (t : Nat) (f : Team → Team) : State :=
  match s.team? t with
  | some T => s.setTeam t (f T)
  | none => { s with saved := s.saved.map (fun u => if u.team = t then { u with body := f u.body } else u) }

/-- What has occurred to a team and its meters do not have: its resident cycles by its share, and the time for which it has held tiles (19 R338, 23
R385). -/
def accrueHeld (s : State) (t : Nat) : State :=
  match s.teamBody t with
  | none => s
  | some T =>
    let c := chargeOf s T
    let s := (accrue s (some T.eff.meter) 0 (c - T.metered)).updBody t (fun T => { T with metered := max T.metered c })
    (tilesHeldBy s t).foldl meterTile s

/-- What is to be added to a meter of an identity. -/
def usedOf (s : State) (id meter : Nat) : Nat := ((tabGet [] s.used id)[meter]?).getD 0

/-- Of what is to be added to a meter of an identity, an amount at most is added; the meter saturates (23 R384, R385). -/
def moveUsed (s : State) (id meter amount : Nat) : State :=
  match tabFind s.meters id, tabFind s.used id with
  | some l, some u =>
    let n := min amount (usedOf s id meter)
    { s with meters := tabSet s.meters id (listSet l meter (min ((l[meter]?).getD 0 + n) (2 ^ 64 - 1))),
             used := tabSet s.used id (listSet u meter (usedOf s id meter - n)) }
  | _, _ => s

/-- All that is to be added to the meters of an identity is. -/
def moveAllUsed (s : State) (id : Nat) : State := (List.range 9).foldl (fun s n => moveUsed s id n (usedOf s id n)) s

/-- Every meter of the module brought up to date, as happens within 4,096 management cycles of an event (23 R385). -/
def accrueAll (s : State) : State :=
  let s := (s.teams.map (·.1) ++ s.saved.map (·.team)).foldl accrueHeld s
  (s.used.map (·.1)).foldl moveAllUsed s

/-- A team that leaves for good is metered to its end (19 R338, 23 R385). -/
def closeMeters (s : State) (t : Nat) : State :=
  match s.teamBody t with
  | none => s
  | some T => moveAllUsed (accrueHeld s t) T.eff.meter

/-! ## The end of a team -/

/-- A team's queue settled (19 R339); one that is out of its slice is not idle (23 R381). The distributor visits again. -/
def settleQueue (s : State) (T : Team) : State :=
  match s.launch? T.launch with
  | none => s
  | some L =>
    match findQueue s L.panel L.rcb L.queue with
    | none => s
    | some q =>
      let d : Int := q.deficit + (L.cost T.eff.emax : Nat) - (chargeOf s T : Nat)
      let idle : Bool := q.idle && (visited s L.panel).any (fun x => x.is q.panel q.rcb q.q)
      stir (setQueue s { q with deficit := if idle then min d 0 else d }) L.panel

/-- The team record (19 R348). A team ended with no reported cause, which are 48 and above (21 R361), was ended by system software (01 R24). -/
def recordBytes (s : State) (T : Team) : List Byte :=
  natBytes 8 T.idx ++ natBytes 4 (panelCore s T.core).2 ++ natBytes 4 (match T.ended with | none => 0 | some (c, _) => if c < 48 then 2 else 1) ++ natBytes 8 T.admitted
    ++ natBytes 8 (s.core T.core).clock.toNat ++ natBytes 8 T.resid ++ natBytes 8 (chargeOf s T) ++ natBytes 4 T.spawned ++ natBytes 4 T.saves
    ++ natBytes 8 0 ++ (List.range 16).flatMap (fun i => natBytes 8 ((T.stallTot[i]?).getD 0)) ++ List.replicate 64 0

/-- The record written, where the launch names an area for it. -/
def writeRecord (s : State) (T : Team) : State :=
  match s.launch? T.launch with
  | none => s
  | some L =>
    let a := L.blk 10 0 56
    if a = 0 then s else (mgmtWrite s L.ctx (a + 256 * T.idx) (recordBytes s T)).1

/-- A CTXLD that waits for the recipes of a team, and the teams that it loads. -/
def loaderOf (s : State) (t : Nat) : Option (SlotRef × List Loaded) :=
  (allSlots s).findSome? (fun r => match (s.slot r).wait with
    | .loading ts _ _ => if ts.any (fun (x : Loaded) => x.team == t) then some (r, ts) else none
    | _ => none)

/-- Gangs of some loaded teams still run recipes (21 R370). -/
def recipesRun (s : State) (ts : List Loaded) : Bool :=
  s.gangs.any (fun e => e.2.rebuild.isSome && ts.any (fun (x : Loaded) => e.2.team == some x.team))

/-- A team leaves its core with all that it holds there: its gangs, its bins, its copies. -/
def dropTeam (s : State) (t : Nat) : State :=
  match s.team? t with
  | none => s
  | some T =>
    let c := s.core T.core
    let s := s.setCore T.core { c with
      bins := c.bins.map (fun b => if b.bound && b.team == t then Bin.free else b)
      undoWait := c.undoWait.filter (fun r => (s.gang r.gang).team != some t)
      forced := c.forced.filter (fun g => (s.gang g).team != some t) }
    { s with gangs := s.gangs.filter (fun e => e.2.team != some t), copies := s.copies.filter (fun c => c.team != t), teams := tabDel s.teams t }

/-- A team that CTXLD loaded leaves its core again, because a recipe trapped (21 R370): a saved team stands as it was (DESIGN CHOICE, log 30: the
spec says no more than the status). It is metered to then (23 R385), and SPAWNs that wait for its bins go on (01 R18). -/
def unload (s : State) (x : Loaded) : State :=
  match s.team? x.team with
  | none => s
  | some T =>
    match s.launch? T.launch with
    | none => spawnRetry (dropTeam (closeMeters s x.team) x.team) T.core
    | some L =>
      let s := spawnRetry (dropTeam (closeMeters s x.team) x.team) T.core
      if x.known then
        { s with
          saved := s.saved ++ [{ team := x.team, body := T, panel := L.panel, vd := L.vd, image := x.image, byCtx := x.byCtx, lanes := x.lanes }]
          reserved := s.reserved ++ (x.room.map (fun p => ({ vd := L.vd, panel := L.panel, team := x.team, base := p.1, len := p.2 } : Reserve))).toList }
      else s

/-- A CTXLD that waits returns a status (18 R332). -/
def loadReply (s : State) (r : SlotRef) (status : Nat) : State :=
  match (s.slot r).wait, (s.slot r).run with
  | .loading _ d m, some R => pastWord (fixedEff s r R m (fun _ _ => [wrTo d status])) r
  | _, _ => s

/-- A CTXSV that waits for a team returns a status (18 R332). -/
def ctxReply (s : State) (team status : Nat) : State :=
  (allSlots s).foldl (fun s r => match (s.slot r).wait, (s.slot r).run with
    | .saving t d m, some R => if t = team then pastWord (fixedEff s r R m (fun _ _ => [wrTo d status])) r else s
    | _, _ => s) s

/-- A launch none of whose teams is left is over (01 R13); an image of one of its teams can still make another (18 R332). -/
def checkLaunch (s : State) (lid : Nat) : State :=
  match s.launch? lid with
  | none => s
  | some L =>
    if L.spent && s.teams.all (fun e => e.2.launch != lid) && s.saved.all (fun v => v.body.launch != lid) then
      { s with launches := tabDel s.launches lid, past := tabSet s.past lid L }
    else s

/-- A team retires (19 R349): record, settlement, then its tiles and resources are free. -/
def retireTeam (s : State) (t : Nat) : State :=
  match s.team? t with
  | none => s
  | some T =>
    if !teamQuiet s t then s
    else
      let s := closeMeters (settleQueue (writeRecord s T) T) t
      let s := releaseTiles s t
      let s := { s with teams := tabDel s.teams t, reserved := s.reserved.filter (fun r => r.team != t) }
      let s := s.updLaunch T.launch (fun L => { L with retired := L.retired + 1 })
      checkLaunch (ctxReply s t 1) T.launch

/-- The teams of a team's unit that are resident (21 R364). -/
def unitOf (s : State) (t : Nat) : List Nat :=
  match s.team? t with
  | none => []
  | some T =>
    match s.launch? T.launch with
    | none => [t]
    | some L =>
      if L.grid then (s.teams.filter (fun e => e.2.launch == T.launch)).map (·.1)
      else match T.partner with
        | some u => if (s.team? u).isSome then [t, u] else [t]
        | none => [t]

/-- A team's gangs end at once, with their queue entries and bins (21 R363); the flows that its lost requests fenced go on (27 R417). -/
def endTeam (s : State) (t cause detail : Nat) : State :=
  match s.team? t with
  | none => s
  | some T =>
    if T.ended.isSome then s
    else
      let mine (g : Nat) : Bool := (s.gang g).team == some t
      let gs := s.gangs.filter (fun e => e.2.team == some t)
      let c := s.core T.core
      let tot := gs.foldl (fun l e => addStalls l e.2) T.stallTot
      let s := s.setCore T.core { c with undoWait := c.undoWait.filter (fun r => !mine r.gang), forced := c.forced.filter (fun g => !mine g),
                                         bins := c.bins.map (fun b => if b.bound && b.team == t then Bin.free else b) }
      let s := { s with gangs := s.gangs.filter (fun e => e.2.team != some t) }
      let s := s.setTeam t { T with ended := some (cause, detail), stallTot := tot, pre := .none, remap := none, image := none }
      let s := releaseTiles s t
      let s := if s.links.any (fun e => e.2.lost.contains t) then s.wakeAll .unready else s
      checkRetire (spawnRetry (ctxReply s t 1) T.core) t

/-- The first trap, and the second cause, of a team that ends by a double trap (21 R363). -/
def doubleOf (s : State) (t : Nat) : Option (TrapInfo × Nat) :=
  (s.gangs.filter (fun e => e.2.team == some t)).findSome? (fun e => [e.2.a, e.2.b].findSome? (fun (X : Slot) => match X.hnd, X.wait with
    | some h, .trapped u => some (h.trap, u.cause)
    | _, _ => none))

/-- The trap in a recipe with which a restored team ends (21 R370). -/
def recipeTrap (s : State) (t : Nat) : Option TrapInfo :=
  (s.gangs.filter (fun e => e.2.team == some t && e.2.rebuild.isSome)).findSome? (fun e => match e.2.a.wait with
    | .trapped u => some u
    | _ => none)

/-- The report of a team that ends (21 R363): the word of a double trap's first trap, and that of a trap in a recipe, are known. -/
def teamReport (s : State) (t : Nat) (T : Team) (L : Launch) (cause detail : Nat) : Report :=
  let d := if cause = 49 then doubleOf s t else none
  { cause, first := d.elim 0 (·.1.cause), second := d.elim 0 (·.2), fdom := T.eff.fdom, core := (panelCore s T.core).2,
    word := (match d with
      | some x => ordOff x.1.ord x.1.off
      | none => match (if cause = 52 then recipeTrap s t else none) with
        | some u => ordOff u.ord u.off
        | none => ordOff noOrd 0)
    block := L.blockAddr, idx := T.idx, rcb := L.rcb, detail,
    clock := (s.core T.core).clock.toNat }

/-- A trap in a recipe of a team that CTXLD loads takes the teams away again, and the status is 3 (18 R332, 21 R370). -/
def loadFails (s : State) (r : SlotRef) (ts : List Loaded) : State := loadReply (ts.foldl unload s) r 3

/-- A reported cause ends a team's unit (21 R363), or system software does, with no report (01 R24, 19 R348; log 66). -/
def endUnit (s : State) (t cause detail : Nat) : State :=
  match s.team? t with
  | none => s
  | some T =>
    if T.ended.isSome then s
    else
      let s := match s.launch? T.launch with
        | some L => if cause < 48 then s else appendReport s L.panel L.vd (teamReport s t T L cause detail)
        | none => s
      (unitOf s t).foldl (fun s u => endTeam s u cause detail) s

/-- The place of an overflow row of a member in the backing store (03 R69, 19 R343). -/
def govbAddr (s : State) (g n part : Nat) : Nat :=
  let G := s.gang g
  (G.govb + part * (128 * ((((teamOf s g).elim 0 (·.stitches)) + 7) / 8)) + (n - G.bound / 8) * 128) % 2 ^ 56

/-- An overflow row written back to the backing store (03 R70); a poisoned one carries its marks (27 R419). -/
def spillRow (s : State) (g row : Nat) : State :=
  let G := s.gang g
  (List.range (32 * members G)).foldl (fun s l =>
    let L := G.lane l
    let ctx := sysCtx (panelCore s (coreOf g)).1
    let a := (govbAddr s g row (l / 32) + 4 * (l % 32)) % 2 ^ 56
    let s := (mgmtWrite s ctx a (natBytes 4 (L.row row).toNat)).1
    match L.poison.getLsbD row, (mgmtXlate s ctx a .write).2 with
    | true, .ok _ k => { s with poison := s.poison ++ ((List.range 4).map (k + ·)).filter (fun x => !s.poison.contains x) }
    | _, _ => s) s

/-- An overflow row brought into a gang's window (03 R70): the least recently used row is written back first where it has been written since it
was filled. Poison of the backing store comes with the row. -/
def bringRow (s : State) (g row : Nat) : State :=
  let G := s.gang g
  if !overflowRow s g row || (G.window.map (·.1)).contains row then s
  else
    let ctx := sysCtx (panelCore s (coreOf g)).1
    let s := match G.window with
      | (old, true) :: _ => if G.window.length < 16 then s else spillRow s g old
      | _ => s
    let bad (l : Nat) : Bool := match (mgmtXlate s ctx ((govbAddr s g row (l / 32) + 4 * (l % 32)) % 2 ^ 56) .read).2 with
      | .ok _ k => s.poisoned k
      | .fault _ => false
    let win := if G.window.length < 16 then G.window else G.window.drop 1
    s.setGang g { G with
      lanes := mapLanes (maskOf (fun l => l < 32 * members G && bad l)) (fun _ L => { L with poison := L.poison ||| (1#128 <<< row) }) G.lanes
      window := win ++ [(row, false)] }

/-- A fill of a row completes: the words that wait for it go on (03 R70). -/
def fillRow (s : State) (g row : Nat) : State :=
  let s := bringRow s g row
  let G := s.gang g
  s.setGang g { G with a := G.a.wake (.fill row), b := G.b.wake (.fill row) }

end Machine
end Sys2Proof
end

