-- ==== Sys2Proof/Machine/Launches.lean ====
section
/-! DEFINITION. The meanings of LNCH and of the doorbell, and of the events of dispatch and of the end of a team (13 R290, 19 R336 to R349, 21
R363, 27 R412). -/

set_option Elab.async false

namespace Sys2Proof
namespace Machine

/-- The leaf queue that LNCH's selector names for a gang: its block, its number and the virtual device that owns it; none where there is none or
it is not permitted (13 R290). -/
def lnchQueue (s : State) (g kq : Nat) : Option (Nat × Nat × Nat × Nat) :=
  let panel := (panelCore s (coreOf g)).1
  let own := launchOf s g
  if kq = 0 then own.map (fun L => (L.panel, L.rcb, L.queue, L.vd))
  else if 512 < kq then none
  else
    match (s.handle (handleId panel (kq - 1))).leaf with
    | none => none
    | some (rcb, q) =>
      match vdOfRcb s panel rcb with
      | none => none
      | some v => if isSvc g || own.any (fun L => L.vd == v) then some (panel, rcb, q, v) else none

/-- Cycles of a load of a block's place by a gang's core (27 R422). -/
def blockCycles (s : State) (r : SlotRef) (addr : Nat) : Nat :=
  match (mgmtXlate s (gangCtx s r).1 (addr % 2 ^ 56) .read).2 with
  | .ok _ k => placeCycles s (coreOf r.gang) k
  | .fault _ => 0

/-- LNCH (13 R290): a release at .d, then the block is read and queued; the status is long-latency. -/
def execLnch (x : LnchOp) (s : State) : Host.Outcome State Fault Refusal :=
  bodyWord (syncInfo x.hd [x.d] (wIs 8 x.d)) (fun s r _ m =>
    if m = 0 then .done s
    else if releaseHeld s r.gang m .d then .wait .unready
    else
      match releaseLanes s r.gang m .d with
      | (s, false) => .done s
      | (s, true) =>
      let y := match lnchQueue s r.gang (kreg s r x.kq) with
        | none => (s, stNoQueue)
        | some (panel, rcb, q, v) => submit s panel rcb q v (kreg s r x.kblk)
      match (y.1.slot r).run with
      | some R => .done (longEff y.1 r { R with back := max R.back (s.now + blockCycles s r (kreg s r x.kblk) + 480) } m (fun _ => [wrTo x.d y.2]))
      | none => .done y.1) s

/-- Cycles for which a submission is being read: those of its block's place from panel twin 0, and 8 (27 R412). -/
def submitCycles (s : State) (panel vd addr : Nat) : Nat :=
  match (mgmtXlate s (ctxId panel vd) addr .read).2 with
  | .ok _ k => placeCycles s (2 * (physTwin (s.panel panel) 0).getD 0) k + 8
  | .fault _ => 8

/-- A submission that has been read is queued or refused, and its status readable (27 R412). -/
def endSubmission (s : State) (handle : Nat) : State :=
  let h := s.handle handle
  match h.reading, h.leaf with
  | some (value, _), some (rcb, q) =>
    let y := submit s (handle / 512) rcb q (fld value 60 4) (fld value 0 56)
    y.1.setHandle handle { h with status := y.2, reading := none }
  | _, _ => s.setHandle handle { h with reading := none }

/-- The submissions whose reading ends by the module's cycle (27 R412). -/
def finishDoorbells (s : State) : State :=
  (s.handles.filter (fun e => e.2.reading.any (fun x => x.2 ≤ s.mclock))).foldl (fun s e => endSubmission s e.1) s

/-- DOORBELL (27 R412): a write to a bound handle submits a block. One made while an earlier submission of the handle is being read is dropped with
status 1; one that names another virtual device, or a queue whose leaf is not registered, is refused with status 3. -/
def execDoorbell (handle value : Nat) (s : State) : Host.Outcome State Fault Refusal :=
  let h := s.handle handle
  match h.leaf with
  | none => .next s
  | some (rcb, q) =>
    let panel := handle / 512
    if !s.ready.mgmt || !s.ready.cxl then .next s
    else if h.reading.isSome then .next (s.setHandle handle { h with status := stFull })
    else if vdOfRcb s panel rcb = some (fld value 60 4) ∧ (findQueue s panel rcb q).isSome then
      let k := s.mclock + submitCycles s panel (fld value 60 4) (fld value 0 56)
      .next (s.setHandle handle { h with reading := some (value, k) })
    else .next (s.setHandle handle { h with status := stNoQueue })

/-- A read of a doorbell by the host (27 R412): its status, or all ones where the handle is bound to nothing. -/
def doorbellRead (s : State) (handle : Nat) : State :=
  let h := s.handle handle
  if s.ready.cxl then { s with reply := .data (natBytes 8 (if h.leaf.isSome then h.status else 2 ^ 64 - 1)) } else s

/-- HOST_QUEUE_HANDLE_BIND (27 R412): a handle of a panel bound to a leaf queue of one of its virtual devices, or unbound. -/
def execHostQueueHandleBind (panel handle : Nat) (leaf : Option (Nat × Nat)) (s : State) : Host.Outcome State Fault Refusal :=
  if handle < 512 then .next (s.setHandle (handleId panel handle) { leaf, status := 0, reading := none }) else .next s

/-- DISPATCH_VISIT (19 R339): the next queue of the panel in the cyclic order is visited. -/
def execDispatchVisit (panel : Nat) (s : State) : Host.Outcome State Fault Refusal :=
  let all := s.queues.filter (fun q => q.panel == panel)
  let ok := visited s panel
  let here := tabGet 0 s.visit panel
  let order := (List.range all.length).map (fun i => (here + i) % all.length)
  match order.find? (fun i => match all[i]? with | some q => ok.contains q | none => false) with
  | none => .next s
  | some i =>
    match all[i]? with
    | some q => .next (countVisit { s with visit := tabSet s.visit panel ((i + 1) % all.length) } q)
    | none => .next s

/-- TEAM_RETIREMENT (01 R20, 19 R349). -/
def execTeamRetirement (team : Nat) (s : State) : Host.Outcome State Fault Refusal := .next (retireTeam s team)

/-- TEAM_END (21 R363); a trap in a recipe of a team that CTXLD loads ends nothing but the load (21 R370). -/
def execTeamEnd (team cause detail : Nat) (s : State) : Host.Outcome State Fault Refusal :=
  match (if cause = 52 then loaderOf s team else none) with
  | some (r, ts) => .next (loadFails s r ts)
  | none => .next (endUnit s team cause detail)

/-- The service gang, which has no team, consumed poison or lost a write: a trap with cause 48 (18 R323, 23 R380). -/
def servicePoison (s : State) (g detail : Nat) : State :=
  let r : SlotRef := { gang := g, b := (s.gang g).a.mask == 0 }
  let X := s.slot r
  if X.mask = 0 then s
  else
    takeTrap s r { cause := 48, ord := X.run.elim noOrd (·.hdr.ord), off := X.run.elim 0 (·.pos), kept := true, code := 0, detail, resume := X.entry }

/-- POISON_CONSUMED (27 R419): the team that consumed poison is ended with cause 48. -/
def execPoisonConsumed (team detail : Nat) (s : State) : Host.Outcome State Fault Refusal :=
  .next (if ownerBase ≤ team then servicePoison s (team - ownerBase) detail else endUnit s team 48 detail)

/-- OVERFLOW_ROW_FILL (03 R70). -/
def execOverflowRowFill (gang row : Nat) (s : State) : Host.Outcome State Fault Refusal := .next (fillRow s gang row)

end Machine
end Sys2Proof
end

