-- ==== Sys2Proof/Machine/MatOps.lean ====
section
/-! DEFINITION. The matrix engine: operand words (12 R254, R264), the bytes that a command reads and writes (12 R255, R257, R269, R270), the order
of commands (12 R260, R261), sampling against racing writes (12 R263) and the arithmetic of passes (05 R120 to R124, 12 R267). -/

set_option Elab.async false

namespace Sys2Proof
namespace Machine

/-! ## Operand words -/

/-- A place word (12 R264): `elem` for an element place, which is a multiple of 64. -/
def placeWordOf (v : Nat) (elem : Bool) : Option MPlace :=
  let a := fld v 0 56
  if fld v 56 7 ≠ 0 ∨ (elem ∧ a % 64 ≠ 0) ∨ (!bit v 63 ∧ 2 ^ 20 ≤ a) then none else some { vault := bit v 63, addr := a }

/-- The format block of a pair of uniform registers (12 R254). -/
def fmtBlkOf (v : Nat) : Option FmtBlk :=
  let bs : MPlace := { vault := bit v 63, addr := fld v 64 56 }
  if fld v 120 8 ≠ 0 ∨ fld v 20 34 ≠ 0 ∨ 1 < fld v 61 2 ∨ 1 < fld v 58 2 ∨ fld v 55 2 = 3 ∨ (fld v 61 2 = 1 ∧ bit v 60)
      ∨ (!bs.vault ∧ 2 ^ 20 ≤ bs.addr) then none
  else some { bscale := bs, bt2 := bit v 61, b16 := bit v 60, abx4 := bit v 58, a16 := bit v 57,
              h := (match fld v 55 2 with | 0 => 0 | 1 => 4 | _ => 5), i32 := bit v 54, ascale := fld v 0 20 }

/-- The fields of a quarter word. -/
structure QWord where
  qmask : Nat
  clr : Bool
  ofmt : Nat
  deriving DecidableEq, Repr

/-- A quarter word (12 R264); `sync` for MSYNC, `st` for ACCST. -/
def quarterWordOf (v : Nat) (sync st : Bool) : Option QWord :=
  if fld v 9 55 ≠ 0 ∨ fld v 6 2 ≠ 0 ∨ (!sync ∧ bit v 8) ∨ (!st ∧ fld v 4 2 ≠ 0) ∨ fld v 4 2 = 3 ∨ (!sync ∧ fld v 0 4 = 0) then none
  else some { qmask := fld v 0 4, clr := bit v 8, ofmt := fld v 4 2 }

/-- Quarters of a mask in ascending order. -/
def quartersOf (qmask : Nat) : List Nat := (List.range 4).filter (bit qmask)

/-! ## Cores and tiles of a command -/

/-- The other core of a twin (00 R8). -/
def otherCore (c : Nat) : Nat := c / 2 * 2 + (1 - c % 2)

/-- Cores that a command uses, the leader first (12 R253). -/
def MatCmd.cores (c : MatCmd) : List Nat := if c.tw then [c.core, otherCore c.core] else [c.core]

/-- The array quarters that a command uses, as tiles. -/
def quarterTiles (cores : List Nat) (qmask : Nat) : List Nat := cores.flatMap (fun c => (quartersOf qmask).map (quarterTile c))

/-- How a quarter stands charged at the end of the sequence: a CHARGE that has not retired counts (12 R260, R267). -/
def chargedAs (s : State) (t : Nat) : Bool × Bool × QShape :=
  let q := s.quarter t
  s.mats.foldl (fun acc c => match c.op with
    | .charge _ f n1024 =>
      if bit c.qmask (t % 4) && c.cores.contains (t / 4) then
        (f.bt2, f.b16,
          if !c.tw then .single
          else if n1024 then (if c.core = t / 4 then .n1024Lead else .n1024Follow)
          else (if c.core = t / 4 then .k1024Lead else .k1024Follow))
      else acc
    | .mma .. | .accz | .accld _ | .accst .. | .accq .. => acc) (q.bt2, q.b16, q.shape)

/-! ## Bytes of a command -/

/-- Local columns of a quarter (12 R252). -/
def columns (bt2 : Bool) : Nat := if bt2 then 512 else 128

/-- Regions of a charge's source (12 R255): one for each quarter of each core, or for each quarter of a .k1024 pair. -/
def chargeRegions (tw n1024 : Bool) (qmask : Nat) : Nat := (quartersOf qmask).length * (if tw && n1024 then 2 else 1)

/-- A .k1024 charge. -/
def isK1024 (tw n1024 : Bool) : Bool := tw && !n1024

/-- Bytes of one element region, and of one region's scales (12 R255). -/
def regionBytes (k1024 : Bool) : Nat := if k1024 then 131072 else 65536
def scaleBytes (k1024 : Bool) (f : FmtBlk) : Nat := columns f.bt2 * ((if k1024 then 1024 else 512) / (if f.b16 then 16 else 32))

/-- Bytes of an A row, and A blocks in a row (12 R257). -/
def rowBytes (f : FmtBlk) (k1024 : Bool) : Nat := (if f.abx4 then 256 else 512) * (if k1024 then 2 else 1)
def rowBlocks (f : FmtBlk) (k1024 : Bool) : Nat := (if k1024 then 1024 else 512) / (if f.a16 then 16 else 32)

/-- The runs of bytes that a command reads, in order (12 R255, R257, R269). -/
def MatCmd.srcs (c : MatCmd) : List (MPlace × Nat) :=
  let n := (quartersOf c.qmask).length
  match c.op with
  | .charge p f n1024 =>
    let k := isK1024 c.tw n1024
    [(p, chargeRegions c.tw n1024 c.qmask * regionBytes k), (f.bscale, chargeRegions c.tw n1024 c.qmask * scaleBytes k f)]
  | .mma m aoff f k1024 =>
    ({ vault := false, addr := aoff }, m * rowBytes f k1024) ::
      (if f.i32 then [] else [({ vault := false, addr := f.ascale }, m * rowBlocks f k1024)])
  | .accld p => [(p, n * 32768)]
  | .accz | .accst .. | .accq .. => []

/-- The runs of bytes that a command writes (12 R269, R270). -/
def MatCmd.dsts (c : MatCmd) : List (MPlace × Nat) :=
  let n := (quartersOf c.qmask).length
  match c.op with
  | .accst p ofmt _ => [(p, n * 8192 * (if ofmt = 0 then 4 else 2))]
  | .accq p sc bx4 b16 => [(p, n * (if bx4 then 4096 else 8192)), (sc, n * (8192 / (if b16 then 16 else 32)))]
  | .charge .. | .mma .. | .accz | .accld _ => []

/-- The vault extents that runs of bytes touch, by address / 2^20. -/
def extsOf (runs : List (MPlace × Nat)) : List Nat :=
  (runs.flatMap (fun x => if x.1.vault && x.2 != 0 then
    (List.range ((x.1.addr % 2 ^ 20 + x.2 - 1) / 2 ^ 20 + 1)).map (fun i => (x.1.addr / 2 ^ 20 + i) % 2 ^ 36) else [])).eraseDups

/-- The extent that a team holds under an address / 2^20 (06 R144: resolved at its claim). -/
def heldExtent (s : State) (team va20 : Nat) : Option Nat :=
  (s.tiles.find? (fun e => isExtent e.1 && e.2.va == va20 * 2 ^ 20 && tileHeld s team e.1)).map (fun e => e.1 - extentBase)

/-- The mark for a team on a tile, or on an extent under an address (11 R246). -/
def markOf (s : State) (team : Nat) (p : Nat → Nat → Bool) : Option (Nat × Nat) :=
  s.tiles.findSome? (fun e => (e.2.stripped.find? (fun m => m.1 == team && p e.1 m.2.2)).map (fun m => (e.1, m.2.1)))

/-- A mark cleared. -/
def clearMark (s : State) (team t : Nat) : State :=
  let x := s.tile t
  s.setTile t { x with stripped := x.stripped.filter (fun m => m.1 != team) }

/-- The tile fault of a matrix instruction (12 R264, 11 R246): the state with its mark cleared, and the cause. The quarters are looked at
first, in order, then the extents. -/
def tileFault (s : State) (team : Nat) (quarters exts : List Nat) : Option (State × Nat) :=
  match quarters.findSome? (fun t => match markOf s team (fun u _ => u == t) with
      | some m => some (clearMark s team m.1, m.2)
      | none => if tileHeld s team t then none else some (s, 14)) with
  | some f => some f
  | none => exts.findSome? (fun v => match markOf s team (fun u va => isExtent u && va == v * 2 ^ 20) with
      | some m => some (clearMark s team m.1, m.2)
      | none => if (heldExtent s team v).isSome then none else some (s, 14))

/-- The key of byte `i` of a place, where there is one: in the scratchpad of the leader's team by its wrap rule, or in a claimed extent (12
R257, R264). -/
def placeKey (s : State) (c : MatCmd) (p : MPlace) (i : Nat) : Option Nat :=
  if p.vault then
    let va := (p.addr + i) % 2 ^ 56
    (tabFind c.exts (va / 2 ^ 20)).map (fun e => memKey 1 (e * 2 ^ 20 + va % 2 ^ 20))
  else
    match s.team? c.team with
    | some T => spadByteKey c.core (T.spadBase * 8192) T.scratch (p.addr + i)
    | none => none

/-- The keys of the bytes that a command reads, in order. -/
def srcKeys (s : State) (c : MatCmd) : List (Option Nat) := c.srcs.flatMap (fun x => (List.range x.2).map (placeKey s c x.1))

/-- The byte at a place's key, as the issuing core sees it: its team's stores that are dirty in its L1 are ordered before the command by a
barrier at .t (10 R217, 12 R263). -/
def placeByte (s : State) (core : Nat) (k : Option Nat) : Byte := (k.map (dirtyByte s core)).getD 0

/-- What the source of a command holds as it is issued. -/
def sampleFirst (s : State) (c : MatCmd) : List Byte := (srcKeys s c).map (placeByte s c.core)

/-- Numbers of fresh open values that one sampling sets apart: more than there are granules. -/
def sampleSpan : Nat := 2 ^ 64

/-- The source sampled again: each aligned 64-byte granule is as it was, or as it is now, which the spec leaves open (12 R263, log 25). -/
def resample (s : State) (c : MatCmd) : State × List Byte :=
  let bs := ((srcKeys s c).zip c.a).map (fun e =>
    let now := placeByte s c.core e.1
    match e.1 with
    | some k => if Config.freeBits (s.fresh + k / 64) % 2 = 0 then e.2 else now
    | none => now)
  ({ s with fresh := s.fresh + sampleSpan }, bs)

/-- A byte that a command reads is poisoned (27 R419). -/
def srcPoison (s : State) (c : MatCmd) : Option Nat :=
  if unspoilt s c.core then none else ((srcKeys s c).filterMap id).find? (placePoisoned s c.core)

/-- A run of bytes written at a place from byte `i` on; those beyond a scratchpad allocation are dropped. What the issuing core's L1 holds of their
lines is written back first and dropped, so that no older store comes after them (12 R263). -/
def placeWrite (s : State) (c : MatCmd) (p : MPlace) (i : Nat) (bs : List Byte) : State :=
  (mapFrom (fun j b => (j, b)) 0 bs).foldl (fun s e => match placeKey s c p (i + e.1) with
    | some k => (if cacheable c.core k then evictLine s c.core (lineOf k) else s).put k 0xFF e.2
    | none => s) s

/-- The keys of the bytes that a command writes. -/
def dstKeys (s : State) (c : MatCmd) : List Nat := (c.dsts.flatMap (fun x => (List.range x.2).map (placeKey s c x.1))).filterMap id

/-- A byte that a command would write and whose poison it does not overwrite whole: the write is lost (27 R419, R420). -/
def dstLost (s : State) (c : MatCmd) : Option Nat :=
  if s.poison.isEmpty then none
  else
    let ks := dstKeys s c
    ks.find? (s.loses ks)

/-- A later command of the core reads what a command has written, whatever it held as that later one was issued (12 R260). -/
def afterWrite (s : State) (c b : MatCmd) : MatCmd :=
  let written (k : Option Nat) : Bool := k.any (fun k => (dstKeys s c).contains k)
  { b with a := ((srcKeys s b).zip b.a).map (fun e => if written e.1 then placeByte s b.core e.1 else e.2) }

/-! ## The sequence -/

/-- The commands of the sequence before one, that have not retired. -/
def matsBefore (s : State) (id : Nat) : List MatCmd := s.mats.takeWhile (fun c => c.id != id)

/-- Two commands use a core in common. -/
def sharesCore (a b : MatCmd) : Bool := a.cores.any (fun c => b.cores.contains c)

def isMma (c : MatCmd) : Bool := match c.op with
  | .mma .. => true
  | .charge .. | .accz | .accld _ | .accst .. | .accq .. => false

/-- Cycles that the array takes for one row of A (12 R261). -/
def rowCycles (f : FmtBlk) : Nat := if f.abx4 then 4 else 8

/-- The cycle from its start in which an MMA captures its last row, and the one in which its array window ends (12 R261). -/
def MatCmd.lastRow (c : MatCmd) : Nat := match c.op with
  | .mma m _ f _ => 19 + rowCycles f * (m - 1)
  | .charge .. | .accz | .accld _ | .accst .. | .accq .. => 0
def MatCmd.window (c : MatCmd) : Nat := match c.op with
  | .mma m _ f _ => 19 + rowCycles f * m
  | .charge .. | .accz | .accld _ | .accst .. | .accq .. => 0

/-- The physical twin of the vault that a place names (12 R261, 23 R377). -/
def placeTwin (c : MatCmd) (p : MPlace) : Nat := ((tabFind c.exts (p.addr % 2 ^ 56 / 2 ^ 20)).getD 0) / 256

/-- Cycles that a run of bytes takes at a place, with the latency term of another vault (12 R261). -/
def moveCycles (c : MatCmd) (p : MPlace) (bytes : Nat) (wr : Bool) : Nat :=
  let steps (rate : Nat) : Nat := (bytes + (rate - 1)) / rate
  if !p.vault then steps 1024
  else if placeTwin c p = c.core / 2 then steps (if wr then 832 else 1664)
  else steps 512 + vaultCycles (c.core / 2) (placeTwin c p)

/-- Cycles from its start to its retirement (12 R261). -/
def MatCmd.cycles (c : MatCmd) : Nat :=
  let n := (quartersOf c.qmask).length
  match c.op with
  | .mma _ _ _ k1024 => c.window + 24 + (if !c.tw then 0 else if k1024 then 16 else 4)
  | .charge p f n1024 =>
    let k := isK1024 c.tw n1024
    40 + moveCycles c p (chargeRegions c.tw n1024 c.qmask * regionBytes k) false
      + moveCycles c f.bscale (chargeRegions c.tw n1024 c.qmask * scaleBytes k f) false
  | .accz => 8
  | .accld p => 20 + moveCycles c p (32768 * n) false
  | .accst p _ _ => 20 + moveCycles c p (32768 * n) true
  | .accq .. => 20 + 40 * n

/-- The last command of the sequence before one on a core that has not retired. -/
def matPrev (s : State) (c : MatCmd) (core : Nat) : Option MatCmd :=
  ((matsBefore s c.id).filter (fun b => b.cores.contains core)).getLast?

/-- An MMA with at most 20 cycles of its array window left, this one among them: the next one's first bit-plane then follows its last (12 R261). -/
def nearEnd (s : State) (b : MatCmd) : Bool := isMma b && b.started && b.since + b.window < s.mclock + 20

/-- A command may start (12 R260, R261): the command before it on each of its cores has retired; or it is an MMA, and on each of its cores the
command before it is an MMA that has retired or is near its end. The vaults of its places are ready (27 R421). -/
def canStart (s : State) (c : MatCmd) : Bool :=
  !c.started && c.exts.all (fun e => vaultReady s (e.2 / 256)) &&
  (c.cores.all (fun k => (matPrev s c k).isNone)
   || isMma c && c.cores.all (fun k => match matPrev s c k with
      | none => (s.core k).lastMma
      | some b => nearEnd s b))

/-- An MMA may capture its last row: its cycle has come (12 R261), and those before it on its cores have (12 R260). -/
def canConsume (s : State) (c : MatCmd) : Bool :=
  isMma c && c.started && !c.consumed && c.since + c.lastRow ≤ s.mclock && ((matsBefore s c.id).filter (sharesCore c)).all (fun b => b.consumed)

/-- A command may retire: its cycle has come (12 R261), it has done all else, and every earlier command on its cores has retired (12 R260). -/
def canRetire (s : State) (c : MatCmd) : Bool :=
  c.started && (c.consumed || !isMma c) && c.since + c.cycles ≤ s.mclock && !((matsBefore s c.id).any (sharesCore c))

/-- The event of the matrix engine that is due (12 R261). -/
def matDue (s : State) : Option Instr :=
  s.mats.findSome? (fun c =>
    if canStart s c then some (.matrixCommandStart c.id)
    else if canConsume s c then some (.operandsConsumed c.id)
    else if canRetire s c then some (.matrixCommandRetire c.id)
    else none)

def findMat (s : State) (id : Nat) : Option MatCmd := s.mats.find? (fun (c : MatCmd) => c.id == id)

def setMat (s : State) (x : MatCmd) : State := { s with mats := s.mats.map (fun c => if c.id = x.id then x else c) }

/-- The engine's arrival at a command's barrier as one member with no bytes (12 R262). -/
def matArrive (s : State) (c : MatCmd) : State := match c.bar with
  | some b => barArrive s b 1 0
  | none => s

/-! ## Arithmetic -/

/-- The weight at K index `k` of local column `j` of a quarter (12 R255), and whether it is the reserved code (05 R116). -/
def weight (m : Memory) (q : Nat) (bt2 : Bool) (j k : Nat) : Int × Bool :=
  if bt2 then
    let x := readBt2 (fld (m.read (wtKey q (j * 128 + k / 4))).toNat (2 * (k % 4)) 2)
    (x.1, x.2 != 0)
  else (readBx false (m.read (wtKey q (j * 512 + k))).toNat, false)

/-- Element `k` of A row `i` as captured (12 R257). -/
def aElem (a : List Byte) (f : FmtBlk) (k1024 : Bool) (i k : Nat) : Int :=
  let at_ (n : Nat) : Nat := (((a[i * rowBytes f k1024 + n]?).getD 0).toNat)
  if f.abx4 then readBx true (fld (at_ (k / 2)) (4 * (k % 2)) 4) else readBx false (at_ k)

/-- The scale byte of the A block that holds index `k` of row `i`. -/
def aScale (a : List Byte) (m : Nat) (f : FmtBlk) (k1024 : Bool) (i k : Nat) : Nat :=
  (((a[m * rowBytes f k1024 + i * rowBlocks f k1024 + k / (if f.a16 then 16 else 32)]?).getD 0).toNat)

/-- The scale byte of the B block that holds index `k` of column `j`. -/
def bScale (m : Memory) (q : Nat) (f : FmtBlk) (j k : Nat) : Nat :=
  let L := if f.b16 then 16 else 32
  (m.read (scKey q (j * (512 / L) + k / L))).toNat

/-- Length of a product block (05 R120). -/
def blockLen (f : FmtBlk) : Nat := if f.a16 || f.b16 then 16 else 32

/-- The exact sum of product block `b` of pass `p` (05 R120). -/
def blockSum (mem : Memory) (a : List Byte) (f : FmtBlk) (k1024 : Bool) (q p i j b : Nat) : Int :=
  ((List.range (blockLen f)).map (fun n =>
    let k := b * blockLen f + n
    aElem a f k1024 i (512 * p + k) * (weight mem q f.bt2 j k).1)).sum

/-- A block product scaled and rounded (05 R121). -/
def blockProd (mem : Memory) (a : List Byte) (m : Nat) (f : FmtBlk) (k1024 : Bool) (q p i j b : Nat) : FRes :=
  let k := b * blockLen f
  let sa := aScale a m f k1024 i (512 * p + k)
  let sb := bScale mem q f j k
  if sa = 0xFF ∨ sb = 0xFF then Fmt.f32.invalid
  else Fmt.f32.roundV .rne false false (FV.mk (blockSum mem a f k1024 q p i j b) ((sa : Int) - 127 + ((sb : Int) - 127) - f.h) false)

/-- An .f32 addition by RNE, with the flags of both sides (05 R122). -/
def addF (a b : FRes) : FRes :=
  let r := fAdd .f32 .rne false a.v b.v
  { v := r.v, fl := a.fl ||| b.fl ||| r.fl }

/-- One level of the balanced tree (05 R122). -/
def treeLevel : List FRes → List FRes
  | a :: b :: t => addF a b :: treeLevel t
  | l => l

/-- The balanced tree over at most 2^n values (05 R122). -/
def treeSum : Nat → List FRes → FRes
  | 0, l => l.headD { v := 0, fl := 0 }
  | n + 1, l => treeSum n (treeLevel l)

/-- The tree result of a pass (05 R122). -/
def passTree (mem : Memory) (a : List Byte) (m : Nat) (f : FmtBlk) (k1024 : Bool) (q p i j : Nat) : FRes :=
  treeSum 5 ((List.range (512 / blockLen f)).map (blockProd mem a m f k1024 q p i j))

/-- The exact sum of a pass (05 R124). -/
def passSum (mem : Memory) (a : List Byte) (f : FmtBlk) (k1024 : Bool) (q p i j : Nat) : Int :=
  ((List.range (512 / blockLen f)).map (blockSum mem a f k1024 q p i j)).sum

/-- Bits of a matrix status word beside those of 05 R109 (12 R259). -/
def mflIO : Nat := 32
def mflTC : Nat := 64

/-- One element's update by an MMA (12 R267): `qs` holds the quarter of each pass, in order. -/
def mmaElem (mem : Memory) (a : List Byte) (m : Nat) (f : FmtBlk) (qs : List Nat) (i j acc : Nat) : FRes :=
  let k1024 := qs.length == 2
  if f.i32 then
    let t := (mapFrom (fun p q => passSum mem a f k1024 q p i j) 0 qs).sum
    let v := extS acc 32 + t
    { v := pat (satS v 32) 32, fl := if satS v 32 = v then 0 else mflIO }
  else
    match mapFrom (fun p q => passTree mem a m f k1024 q p i j) 0 qs with
    | [t] => addF { v := acc, fl := 0 } t
    | [t, u] => addF { v := acc, fl := 0 } (addF t u)
    | _ => { v := acc, fl := 0 }

/-- Flags set in a quarter's status word (12 R259). -/
def setStatus (s : State) (t fl : Nat) : State :=
  let q := s.quarter t
  if fl = 0 then s else s.setQuarter t { q with status := q.status ||| BitVec.ofNat 32 fl }

/-- A weight of the quarter holds the reserved code (12 R266). -/
def hasReserved (mem : Memory) (t : Nat) (bt2 : Bool) : Bool :=
  bt2 && (List.range 65536).any (fun i => (List.range 4).any (fun n => fld (mem.read (wtKey t i)).toNat (2 * n) 2 == 2))

/-- Slices: element `e` of quarter tile `t`'s slice, by its first byte. -/
def sliceKey (t e : Nat) : Nat := accKey (t / 4) (8192 * (t % 4) + e)

/-- An MMA's update of the slice of a quarter (12 R267). -/
def mmaQuarter (s : State) (a : List Byte) (m : Nat) (f : FmtBlk) (qs : List Nat) (t : Nat) : State :=
  let n := columns f.bt2
  let rs := (List.range (m * n)).map (fun e => mmaElem s.mem a m f qs (e / n) (e % n) (s.mem.readN (sliceKey t e) 4))
  let s := { s with mem := s.mem.writeRange (sliceKey t 0) (rs.flatMap (fun r => natBytes 4 r.v)) }
  setStatus s t (rs.foldl (fun fl r => fl ||| r.fl) 0)

/-- The quarters whose reserved codes an MMA reads. -/
def mmaCodes (s : State) (f : FmtBlk) (ts : List Nat) : State :=
  ts.foldl (fun s t => setStatus s t (if hasReserved s.mem t f.bt2 then mflTC else 0)) s

/-- The value of an MMA's command performed (12 R267). -/
def doMma (s : State) (c : MatCmd) (m : Nat) (f : FmtBlk) (k1024 : Bool) : State :=
  let qs := quartersOf c.qmask
  let s := if k1024 then
      qs.foldl (fun s q => mmaQuarter s c.a m f [quarterTile c.core q, quarterTile (otherCore c.core) q] (quarterTile c.core q)) s
    else (quarterTiles c.cores c.qmask).foldl (fun s t => mmaQuarter s c.a m f [t] t) s
  mmaCodes s f (quarterTiles c.cores c.qmask)

/-- A quarter charged from its elements and scales (12 R255, R256). -/
def chargeQuarter (s : State) (t : Nat) (f : FmtBlk) (shape : QShape) (w sc : List Byte) : State :=
  let s := (s.unpoison (wtKey t 0) w.length).unpoison (scKey t 0) sc.length
  let s := { s with mem := (s.mem.writeRange (wtKey t 0) w).writeRange (scKey t 0) sc }
  s.setQuarter t { s.quarter t with bt2 := f.bt2, b16 := f.b16, shape }

/-- The half of every column's `n` bytes that one core of a .k1024 pair takes (12 R255). -/
def halfColumns (cols n : Nat) (second : Bool) (bs : List Byte) : List Byte :=
  (List.range cols).flatMap (fun j => (bs.drop (j * n + (if second then n / 2 else 0))).take (n / 2))

/-- A charge performed from the bytes that it read (12 R255, R266). -/
def doCharge (s : State) (c : MatCmd) (f : FmtBlk) (n1024 : Bool) (bs : List Byte) : State :=
  let k := isK1024 c.tw n1024
  let regs := chargeRegions c.tw n1024 c.qmask
  let el := bs.take (regs * regionBytes k)
  let sc := bs.drop (regs * regionBytes k)
  let at_ (l : List Byte) (n i : Nat) : List Byte := (l.drop (n * i)).take n
  if k then
    (mapFrom (fun o q => (o, q)) 0 (quartersOf c.qmask)).foldl (fun s e =>
      let w := at_ el (regionBytes k) e.1
      let b := at_ sc (scaleBytes k f) e.1
      let half (second : Bool) (l : List Byte) : List Byte := halfColumns (columns f.bt2) (l.length / columns f.bt2) second l
      let s := chargeQuarter s (quarterTile c.core e.2) f .k1024Lead (half false w) (half false b)
      chargeQuarter s (quarterTile (otherCore c.core) e.2) f .k1024Follow (half true w) (half true b)) s
  else
    (mapFrom (fun o t => (o, t)) 0 (quarterTiles c.cores c.qmask)).foldl (fun s e =>
      let shape : QShape := if !c.tw then .single else if e.2 / 4 = c.core then .n1024Lead else .n1024Follow
      chargeQuarter s e.2 f shape (at_ el (regionBytes k) e.1) (at_ sc (scaleBytes k f) e.1)) s

/-- The slices that a command overwrites whole lose their poison (27 R419). -/
def unpoisonSlices (s : State) (c : MatCmd) : State := (quarterTiles c.cores c.qmask).foldl (fun (s : State) t => s.unpoison (sliceKey t 0) 32768) s

/-- ACCZ performed (12 R268). -/
def doAccz (s : State) (c : MatCmd) : State :=
  let s := unpoisonSlices s c
  { s with mem := (quarterTiles c.cores c.qmask).foldl (fun m t => forget m (sliceKey t 0) 32768) s.mem }

/-- ACCLD performed from the bytes that it read (12 R269). -/
def doAccld (s : State) (c : MatCmd) (bs : List Byte) : State :=
  let s := unpoisonSlices s c
  { s with mem := (mapFrom (fun o t => (o, t)) 0 (quarterTiles c.cores c.qmask)).foldl (fun m e =>
      m.writeRange (sliceKey e.2 0) ((bs.drop (32768 * e.1)).take 32768)) s.mem }

/-- The conversion of one element by ACCST (12 R269). -/
def accstElem (ofmt : Nat) (rm : Rm) (x : Nat) : FRes :=
  match ofmt with
  | 0 => { v := x, fl := 0 }
  | 1 => toFloat .bf16 rm false (Fmt.f32.read x)
  | _ => toFloat .f16 rm false (Fmt.f32.read x)

/-- ACCST performed (12 R269). -/
def doAccst (s : State) (c : MatCmd) (p : MPlace) (ofmt : Nat) (rm : Rm) : State :=
  let size := if ofmt = 0 then 4 else 2
  (mapFrom (fun o t => (o, t)) 0 (quarterTiles c.cores c.qmask)).foldl (fun s e =>
    let rs := (List.range 8192).map (fun i => accstElem ofmt rm (s.mem.readN (sliceKey e.2 i) 4))
    let s := placeWrite s c p (8192 * size * e.1) (rs.flatMap (fun r => natBytes size r.v))
    setStatus s e.2 (rs.foldl (fun fl r => fl ||| r.fl) 0)) s

/-- Two BX4 elements to a byte (05 R115). -/
def pack4 : List Int → List Byte
  | a :: b :: t => BitVec.ofNat 8 (pat a 4 + 16 * pat b 4) :: pack4 t
  | [a] => [BitVec.ofNat 8 (pat a 4)]
  | [] => []

/-- One block of ACCQ (12 R270): elements, scale byte and flags. -/
def accqBlock (s : State) (bx4 : Bool) (t len b : Nat) : List Int × Nat × Nat :=
  let q := quantise bx4 ((List.range len).map (fun i => s.mem.readN (sliceKey t (b * len + i)) 4))
  (q.2.1.map (·.1), q.1, q.2.1.foldl (fun fl e => fl ||| e.2) q.2.2)

/-- ACCQ performed (12 R270). -/
def doAccq (s : State) (c : MatCmd) (p sc : MPlace) (bx4 b16 : Bool) : State :=
  let len := if b16 then 16 else 32
  (mapFrom (fun o t => (o, t)) 0 (quarterTiles c.cores c.qmask)).foldl (fun s e =>
    let bl := (List.range (8192 / len)).map (accqBlock s bx4 e.2 len)
    let vs := bl.flatMap (·.1)
    let bytes := if bx4 then pack4 vs else vs.map (fun v => BitVec.ofNat 8 (pat v 8))
    let s := placeWrite s c p ((if bx4 then 4096 else 8192) * e.1) bytes
    let s := placeWrite s c sc (8192 / len * e.1) (bl.map (fun b => BitVec.ofNat 8 b.2.1))
    setStatus s e.2 (bl.foldl (fun fl b => fl ||| b.2.2) 0)) s

/-- The effect of a command at its retirement; `bs` is what it read. -/
def doMat (s : State) (c : MatCmd) (bs : List Byte) : State :=
  match c.op with
  | .charge _ f n1024 => doCharge s c f n1024 bs
  | .mma m _ f k1024 => doMma s c m f k1024
  | .accz => doAccz s c
  | .accld _ => doAccld s c bs
  | .accst p ofmt rm => doAccst s c p ofmt rm
  | .accq p sc bx4 b16 => doAccq s c p sc bx4 b16

/-- The keys of the macros and accumulators that a command reads, as first keys and lengths (27 R418); an .i32 MMA reads no scale byte (05 R124). -/
def engineReads (c : MatCmd) : List (Nat × Nat) :=
  match c.op with
  | .mma m _ f _ => (quarterTiles c.cores c.qmask).flatMap (fun t =>
      [(wtKey t 0, 65536), (scKey t 0, if f.i32 then 0 else 8192), (sliceKey t 0, 4 * (m * columns f.bt2))])
  | .accst .. | .accq .. => (quarterTiles c.cores c.qmask).map (fun t => (sliceKey t 0, 32768))
  | .charge .. | .accz | .accld _ => []

/-- Poison that keeps a command from its effect at its retirement: what a charge or a load has read, a macro row or an element that it would read, or
a line that it does not overwrite whole (27 R418 to R420). -/
def retirePoison (s : State) (c : MatCmd) : Option Nat :=
  if unspoilt s c.core then none
  else
    match (if isMma c then none else srcPoison s c) with
    | some k => some k
    | none =>
      match s.poison.find? (fun p => (engineReads c).any (fun r => r.1 ≤ p && p < r.1 + r.2)) with
      | some k => some k
      | none => dstLost s c

/-! ## MSYNC -/

/-- The value of an MSYNC whose commands have retired (12 R271), and the words cleared. -/
def msyncRead (s : State) (ts : List Nat) (clr : Bool) : State × Nat :=
  let v := ts.foldl (fun (a : Word32) t => a ||| (s.quarter t).status) 0
  (if clr then ts.foldl (fun s t => s.setQuarter t { s.quarter t with status := 0 }) s else s, v.toNat)

/-- The late values of a slot's MSYNCs that wait for nothing more become known, each as an acquire (12 R271). -/
def msyncSlot (s : State) (r : SlotRef) : State :=
  match (s.slot r).run with
  | none => s
  | some R =>
    let x := R.lates.foldl (fun (a : State × List Late) l =>
      match l.kind, l.val with
      | .msync ts clr cmds, none =>
        if cmds.any (fun i => (findMat a.1 i).isSome) then (a.1, a.2 ++ [l])
        else
          let y := msyncRead a.1 ts clr
          (acquireScope y.1 (coreOf r.gang) .d, a.2 ++ [{ l with val := some (y.2, false, 0) }])
      | _, _ => (a.1, a.2 ++ [l])) (s, [])
    if x.2 = R.lates then s else x.1.setRun r { R with lates := x.2, back := max R.back (s.now + 1) }

/-- Every MSYNC of the machine that waits for nothing more. -/
def msyncAll (s : State) : State := (allSlots s).foldl msyncSlot s

end Machine
end Sys2Proof
end

