-- ==== Sys2Proof/Machine/Matrix.lean ====
section
/-! DEFINITION. The meanings of the matrix words of group 0xB and of the events of the matrix engine (12 R260 to R271). -/

set_option Elab.async false

namespace Sys2Proof
namespace Machine

/-- What the rules of issue know of a matrix word (12 R264, 04 R87, 18 R322). -/
def matInfo (hd : Hd) (dsts : List Opnd) (ok : Bool) : WordInfo :=
  { WordInfo.plain hd 0xB [] dsts ok with noGuard := true, noHandler := true, memory := true }

/-- The record fault of a malformed command, in the lowest participating lane (12 R264); the spec names no version byte for it (log 24). -/
def matRecFault (s : State) (r : SlotRef) (R : Run) (l : Nat) : State :=
  let v := s.openVal 8
  v.2.setRun r (R.fault l 13 v.1)

/-- A matrix command at its issue (12 R260, R264): nothing without a participating lane; a wait while an engine is full; a record fault for a
malformed one, a tile fault, or its place at the end of the sequence. -/
def matIssue (tw : Bool) (bar : Bar) (cmd : State → Option (Nat × MatOp)) (s : State) (r : SlotRef) (R : Run) (m : Mask) : Eff :=
  match Mask.lowest m, (s.gang r.gang).team with
  | some l, some team =>
    let core := coreOf r.gang
    if engineFull s core tw then .wait .none
    else
      match cmd s with
      | none => .done (matRecFault s r R l)
      | some (qmask, op) =>
        let c : MatCmd := { id := s.nextCmd, core, tw, team, gang := r.gang, qmask, op, bar := barOf s r.gang bar, started := false, since := 0,
                            consumed := false, a := [], exts := [] }
        let vs := extsOf (c.srcs ++ c.dsts)
        match tileFault s team (quarterTiles c.cores qmask) vs with
        | some (s, cause) => .done (s.setRun r (R.fault l cause 0))
        | none =>
          let c := { c with exts := vs.foldl (fun (t : Tab Nat) v => tabSet t v ((heldExtent s team v).getD 0)) [] }
          .done { s with nextCmd := s.nextCmd + 1, mats := s.mats ++ [{ c with a := sampleFirst s c }] }
  | _, _ => .done s

/-- CHARGE (12 R266). -/
def execCharge (x : ChargeOp) (s : State) : Host.Outcome State Fault Refusal :=
  bodyWord (matInfo x.hd [] (x.fmt % 2 == 0)) (fun s r R m =>
    matIssue x.tw x.bar (fun s => do
      let p ← placeWordOf (kreg s r x.place) true
      let f ← fmtBlkOf (kpair s r x.fmt)
      let q ← quarterWordOf (kreg s r x.kq) false false
      some (q.qmask, .charge p f x.n1024)) s r R m) s

/-- The shape in which the quarters of an MMA stand charged, with its block's formats: `some true` for .k1024 (12 R267). -/
def mmaShape (s : State) (core : Nat) (tw : Bool) (qmask : Nat) (f : FmtBlk) : Option Bool :=
  let all (c : Nat) (sh : QShape) : Bool := (quartersOf qmask).all (fun q => chargedAs s (quarterTile c q) == (f.bt2, f.b16, sh))
  if !tw then (if all core .single then some false else none)
  else if all core .k1024Lead && all (otherCore core) .k1024Follow then some true
  else if all core .n1024Lead && all (otherCore core) .n1024Follow then some false
  else none

/-- MMA (12 R267). -/
def execMma (x : MmaOp) (s : State) : Host.Outcome State Fault Refusal :=
  bodyWord (matInfo x.hd [] (x.fmt % 2 == 0)) (fun s r R m =>
    matIssue x.tw x.bar (fun s => do
      let v := kreg s r x.cmd
      let f ← fmtBlkOf (kpair s r x.fmt)
      let q ← quarterWordOf (kreg s r x.kq) false false
      let rows := fld v 20 7
      if fld v 27 37 ≠ 0 ∨ fld v 0 20 % 64 ≠ 0 ∨ rows = 0 ∨ (if f.bt2 then 16 else 64) < rows then none
      else
        let k ← mmaShape s (coreOf r.gang) x.tw q.qmask f
        some (q.qmask, .mma rows (fld v 0 20) f k)) s r R m) s

/-- ACCZ (12 R268). -/
def execAccz (x : AcczOp) (s : State) : Host.Outcome State Fault Refusal :=
  bodyWord (matInfo x.hd [] true) (fun s r R m =>
    matIssue x.tw .none (fun s => do
      let q ← quarterWordOf (kreg s r x.kq) false false
      some (q.qmask, .accz)) s r R m) s

/-- ACCLD (12 R269). -/
def execAccld (x : AccldOp) (s : State) : Host.Outcome State Fault Refusal :=
  bodyWord (matInfo x.hd [] true) (fun s r R m =>
    matIssue false .none (fun s => do
      let p ← placeWordOf (kreg s r x.place) true
      let q ← quarterWordOf (kreg s r x.kq) false false
      some (q.qmask, .accld p)) s r R m) s

/-- ACCST (12 R269). -/
def execAccst (x : AccstOp) (s : State) : Host.Outcome State Fault Refusal :=
  bodyWord (matInfo x.hd [] true) (fun s r R m =>
    matIssue false .none (fun s => do
      let p ← placeWordOf (kreg s r x.place) true
      let q ← quarterWordOf (kreg s r x.kq) false true
      if x.rm ≠ .rne ∧ q.ofmt = 0 then none else some (q.qmask, .accst p q.ofmt x.rm)) s r R m) s

/-- ACCQ (12 R270). -/
def execAccq (x : AccqOp) (s : State) : Host.Outcome State Fault Refusal :=
  bodyWord (matInfo x.hd [] true) (fun s r R m =>
    matIssue false .none (fun s => do
      let p ← placeWordOf (kreg s r x.place) true
      let sc ← placeWordOf (kreg s r x.sc) false
      let q ← quarterWordOf (kreg s r x.kq) false false
      some (q.qmask, .accq p sc x.bx4 x.b16)) s r R m) s

/-- The commands that an MSYNC waits for (12 R271): those of its gang, and those that use one of its quarters. -/
def msyncWaits (s : State) (team g : Nat) (ts : List Nat) : List Nat :=
  (s.mats.filter (fun c => (c.gang == g && c.team == team) || ts.any (fun t => bit c.qmask (t % 4) && c.cores.contains (t / 4)))).map (·.id)

/-- MSYNC (12 R271): its value is known once the commands that it waits for have retired. -/
def execMsync (x : MsyncOp) (s : State) : Host.Outcome State Fault Refusal :=
  bodyWord (matInfo x.hd [x.d] (wIs 8 x.d)) (fun s r R m =>
    match Mask.lowest m, (s.gang r.gang).team with
    | some l, some team =>
      (match quarterWordOf (kreg s r x.kq) true false with
       | none => .done (matRecFault s r R l)
       | some q =>
         let core := coreOf r.gang
         let ts := quarterTiles (if x.tw then [core, otherCore core] else [core]) q.qmask
         match tileFault s team ts [] with
         | some (s, cause) => .done (s.setRun r (R.fault l cause 0))
         | none =>
           let id := s.nextCmd
           let old := cancelAll R.pends m (fun _ => [wrTo x.d 0])
           let R := { R with
             pends := old ++ (Mask.lanes m).map (fun l => Pend.st l x.d.start (stitchMask x.d.start x.d.w.stitches) (.late id))
             lates := R.lates ++ [{ id, kind := .msync ts q.clr (msyncWaits s team r.gang ts), val := none }] }
           .done (msyncSlot ({ s with nextCmd := id + 1 }.setRun r R) r))
    | _, _ => .done s) s

/-- MATRIX_COMMAND_START (12 R261). -/
def execMatrixCommandStart (cmd : Nat) (s : State) : Host.Outcome State Fault Refusal :=
  match findMat s cmd with
  | none => .next s
  | some c =>
    if canStart s c then
      let x := resample s c
      .next (setMat x.1 { c with started := true, since := s.mclock, a := x.2 })
    else .next s

/-- OPERANDS_CONSUMED (12 R262, R263): the A operand as captured, and the arrival. A command that would read poison does nothing more, and its team
is ended (27 R419). -/
def execOperandsConsumed (cmd : Nat) (s : State) : Host.Outcome State Fault Refusal :=
  match findMat s cmd with
  | none => .next s
  | some c =>
    if !canConsume s c then .next s
    else
      match srcPoison s c with
      | some k => .next (consumed (setMat s { c with consumed := true, qmask := 0 }) (some c.team) k)
      | none =>
        let x := resample s c
        .next (matArrive (setMat x.1 { c with consumed := true, a := x.2 }) c)

/-- MATRIX_COMMAND_RETIRE (12 R261, R262): the command's effect, a charge's arrival, and what waited for it; later commands of its cores read what it
has written (12 R260). -/
def execMatrixCommandRetire (cmd : Nat) (s : State) : Host.Outcome State Fault Refusal :=
  match findMat s cmd with
  | none => .next s
  | some c =>
    if !canRetire s c then .next s
    else
      let gone (s : State) : State :=
        let s := c.cores.foldl (fun (s : State) k => s.setCore k { s.core k with lastMma := isMma c }) s
        msyncAll { s with mats := s.mats.filter (fun b => b.id != cmd) }
      match retirePoison s c with
      | some k => .next (consumed (checkRetire (gone s) c.team) (some c.team) k)
      | none =>
        let x := if isMma c then (s, c.a) else resample s c
        let s := doMat x.1 c x.2
        let s := gone (if c.dsts.isEmpty then s else { s with mats := s.mats.map (fun b => if sharesCore c b && b.id != cmd then afterWrite s c b else b) })
        .next (checkRetire (if isMma c then s else matArrive s c) c.team)

end Machine
end Sys2Proof
end

