-- ==== Sys2Proof/Machine/SaveOps.lean ====
section
/-! DEFINITION. Stop points (21 R365), the choice of a method (21 R366), room for images (23 R382) and the save of a unit into its context images
(21 R367 to R371, 22 R374, R375). Log 15 gives the layouts that the spec leaves to the device. -/

set_option Elab.async false

namespace Sys2Proof
namespace Machine

/-! ## Stop points -/

/-- A slot stands at a stop point (21 R365): at an entry, parked or waiting there, or before a word of group 0xB, 0xC or 0xD of a plain trace
with no result that is still on its way. -/
def slotStopped (s : State) (r : SlotRef) : Bool :=
  let X := s.slot r
  X.mask == 0 || (X.hnd.isNone && match X.wait with
    | .none | .fill _ | .record _ | .seal _ | .unready | .queue => (match X.run with
      | none => true
      | some R => atStop X && returned s R)
    | .join | .barrier .. | .batch .. | .watch .. | .stopped | .undo => true
    | .claim .. | .bwait .. | .spawn .. => X.run.any (returned s)
    | .landing | .trapping .. | .resolving | .copy _ | .outside .. | .tlbsync | .trapped _ | .idle | .saving .. | .loading .. | .overrun => false)

/-- The gangs of a team, by their places. -/
def teamGangs (s : State) (t : Nat) : Tab Gang := s.gangs.filter (fun e => e.2.team == some t)

def teamStopped (s : State) (t : Nat) : Bool :=
  (teamGangs s t).all (fun e => slotStopped s { gang := e.1, b := false } && slotStopped s { gang := e.1, b := true } && e.2.rebuild.isNone)

/-- The slots of a team that wait at a word stop give up their waits (21 R365): a CLAIM's entry leaves its queue, and the words will issue
afresh. -/
def stopWaits (s : State) (t : Nat) : State :=
  (teamGangs s t).foldl (fun s e => [false, true].foldl (fun s b =>
    let r : SlotRef := { gang := e.1, b }
    let X := s.slot r
    if X.mask = 0 ∨ X.hnd.isSome then s
    else
      match X.wait with
      | .claim k _ _ => dropClaims (s.setWait r .none) k (fun q => q.team == t && !q.nb)
      | .bwait .. | .spawn .. | .seal _ => s.setWait r .none
      | _ => s) s) s

/-! ## The choice of a method -/

/-- Rows that hold a number of stitches (03 R55). -/
def rowsBelow (n : Nat) : Nat := (n + 7) / 8

/-- Bytes of an image up to its scratchpad section (21 R368). -/
def imageHead (rows : Nat) : Nat := (0x27000 + 128 * rows + 8191) / 8192 * 8192

/-- The largest image of a team: every row below each gang's bound (21 R366). -/
def largestImage (s : State) (t : Nat) (T : Team) : Nat :=
  imageHead ((teamGangs s t).map (fun e => members e.2 * rowsBelow e.2.bound)).sum + T.scratch

inductive Method
  | drain | flush | save
  deriving DecidableEq, Repr

def resident (s : State) (unit : List Nat) : List (Nat × Team) := unit.filterMap (fun t => (s.team? t).map (fun T => (t, T)))

/-- The method for a unit (21 R366). -/
def chooseMethod (s : State) (unit : List Nat) (A : Nat) : Method :=
  let us := resident s unit
  let spent := (us.map (fun e => chargeOf s e.2)).sum
  let due := (us.map (fun e => match s.launch? e.2.launch with | some L => L.cost e.2.eff.emax | none => 0)).sum
  let S := (us.map (fun e => 2 * ceilDiv (largestImage s e.1 e.2) 512)).sum
  if due - spent ≤ A then .drain
  else if us.all (fun e => (s.launch? e.2.launch).any Launch.idem) && spent ≤ S then .flush
  else .save

/-- The drain allowance of a team's virtual device (23 R379). -/
def allowance (s : State) (T : Team) : Nat := match s.launch? T.launch with
  | some L => fld (descWord (s.vd L.panel L.vd) 1) 0 32
  | none => 0

/-! ## Room for an image -/

/-- The first multiple of 4 KiB at which `n` bytes of a save area are free (23 R382). -/
def saveRoom (s : State) (panel vd n : Nat) : Option Nat :=
  let d := s.vd panel vd
  let base := fld (descWord d 2) 0 56
  let top := base + 65536 * fld (descWord d 3) 0 32
  let used := s.reserved.filter (fun r => r.panel == panel && r.vd == vd)
  let starts := base :: used.map (fun r => (r.base + r.len + 4095) / 4096 * 4096)
  (starts.filter (fun a => base ≤ a && a + n ≤ top && used.all (fun r => a + n ≤ r.base || r.base + r.len ≤ a))).foldl (fun (b : Option Nat) a => match b with
    | some c => some (min a c)
    | none => some a) none

/-- Room reserved for each team of a unit that has no image yet; none where the area has not enough (23 R382). -/
def reserveAll : List Nat → State → Option State
  | [], s => some s
  | t :: ts, s =>
    match s.team? t with
    | none => reserveAll ts s
    | some T =>
      if T.image.isSome then reserveAll ts s
      else
        match s.launch? T.launch with
        | none => reserveAll ts s
        | some L =>
          let n := largestImage s t T
          match saveRoom s L.panel L.vd n with
          | none => none
          | some a =>
            let r : Reserve := { vd := L.vd, panel := L.panel, team := t, base := a, len := n }
            reserveAll ts ({ s with reserved := s.reserved ++ [r] }.setTeam t { T with image := some a })

/-- The first page of a run of bytes of a panel's system address space that does not translate for an access, by its address. -/
def badPage (s : State) (panel base n : Nat) (acc : Acc) : Option Nat :=
  (List.range ((n + 4095) / 4096)).findSome? (fun i =>
    let a := (base + 4096 * i) % 2 ^ 56
    match (mgmtXlate s (sysCtx panel) a acc).2 with
    | .ok _ _ => none
    | .fault _ => some a)

/-- A page of a team's largest image that cannot be written. -/
def badImage (s : State) (t : Nat) : Option Nat := do
  let T ← s.team? t
  let a ← T.image
  badPage s (panelCore s T.core).1 a (largestImage s t T) .write

def setPre (s : State) (unit : List Nat) (p : Pre) : State := unit.foldl (fun s t => s.updTeam t (fun T => { T with pre := p })) s

/-- A unit begins to stop, to be saved or flushed (21 R365). -/
def stopUnit (s : State) (unit : List Nat) (p : Pre) : State := unit.foldl stopWaits (setPre s unit p)

/-- A unit whose save fails is ended (23 R382): its reservations are freed, and a CTXSV returns status 4. -/
def saveFault (s : State) (t addr : Nat) : State :=
  let unit := unitOf s t
  let s := unit.foldl (fun s u => ctxReply s u 4) s
  let s := { s with reserved := s.reserved.filter (fun r => !unit.contains r.team) }
  endUnit s t 53 addr

/-- A unit begins to stop for its save (23 R382). -/
def beginSave (s : State) (t : Nat) : State :=
  let unit := unitOf s t
  match reserveAll unit s with
  | none => setPre s unit .noRoom
  | some s' =>
    match unit.findSome? (badImage s') with
    | some a => saveFault s' t a
    | none => stopUnit s' unit .save

/-! ## Writing an image -/

/-- Bytes with their poison (27 R419). -/
abbrev Marked := List (Byte × Bool)

def plain (bs : List Byte) : Marked := bs.map (fun b => (b, false))

/-- Bytes written at a system address with their poison marks; the address of a fault. -/
def imgWrite (s : State) (ctx va : Nat) : Marked → State × Option Nat
  | [] => (s, none)
  | b :: bs =>
    match mgmtXlate s ctx (va % 2 ^ 56) .write with
    | (s, .fault _) => (s, some (va % 2 ^ 56))
    | (s, .ok _ k) =>
      let s := s.put k 0xFF b.1
      imgWrite (if b.2 ∧ !s.poison.contains k then { s with poison := s.poison ++ [k] } else s) ctx (va + 1) bs

/-- Parts of an image written one after another. -/
def imgParts (s : State) (ctx base : Nat) : List (Nat × Marked) → State × Option Nat
  | [] => (s, none)
  | p :: ps =>
    match imgWrite s ctx (base + p.1) p.2 with
    | (s, some a) => (s, some a)
    | (s, none) => imgParts s ctx base ps

/-- Bytes filled with zeros to a length. -/
def padTo (n : Nat) (bs : List Byte) : List Byte := (bs ++ List.replicate (n - bs.length) 0).take n

/-- The scratchpad allocation as it stands (21 R371, 22 R375). -/
def spadImage (s : State) (T : Team) : Marked :=
  (List.range T.scratch).map (fun o =>
    let k := spadKey T.core (T.spadBase * 8192 + o)
    (s.mem.read k, !s.poison.isEmpty && s.poisoned k))

/-- Positions of token ids on the stack, from its bottom, counted from 1; 0 is no token. -/
def tokRef (st : List StackEntry) (t : Option Nat) : Nat :=
  match t with
  | none => 0
  | some id => match (List.range st.length).find? (fun i => match st[i]? with
      | some (StackEntry.token j _ _ _ _) => j == id
      | _ => false) with
    | some i => st.length - i
    | none => 0

/-- The barrier field by which a gang's team names a register. -/
def barField : BarId → Nat
  | .team _ n => Bar.field (.team n)
  | .cluster _ n => Bar.field (.cluster n)
  | .grid _ n => Bar.field (.grid n)

/-- The kind and the data of what a group waits for, as the divergence block holds it (log 15): nothing, a TRAPI's delivery, a barrier, or a
batch by its distance from the completed ones. A watch is woken by the save (log 29). -/
def waitCode (s : State) (g : Nat) (w : Wait) : Nat × Nat :=
  match w with
  | .trapped t => (1, t.ord + 2 ^ 20 * t.off + 2 ^ 27 * t.code)
  | .barrier b ph y => (2, barField b + 2 ^ 6 * b2n ph + 2 ^ 7 * b2n y)
  | .batch l n => (3, l + 2 ^ 6 * (n - (laneBatch s g l).done))
  | _ => (0, 0)

/-- An entry of the divergence block, 24 bytes (log 15). -/
def entryBytes (s : State) (g : Nat) (st : List StackEntry) : StackEntry → List Byte
  | .path a m t w =>
    let c := waitCode s g w
    natBytes 8 (2 ^ 63 + tokRef st t + 2 ^ 6 * c.1 + 2 ^ 8 * c.2) ++ natBytes 8 a ++ natBytes 8 m.toNat
  | .token _ j e a p => natBytes 8 (j % 2 ^ 57 + 2 ^ 57 * tokRef st p) ++ natBytes 8 e.toNat ++ natBytes 8 a.toNat

/-- The state code of a slot, its word offset, and its barrier field with the phase (21 R368); for a batch the field is that of no barrier, and
the phase byte its distance from the completed ones. -/
def slotCode (s : State) (g : Nat) (X : Slot) : Nat × Nat × Nat × Nat :=
  if X.mask = 0 then (0, 0, 0, 0)
  else
    match X.run with
    | some R => (2, R.pos + 1, 0, 0)
    | none =>
      match X.wait with
      | .join => (3, 0, 0, 0)
      | .barrier b ph y => (if y then 5 else 4, 0, barField b, b2n ph)
      | .batch l n => (5, 0, Bar.field .none, n - (laneBatch s g l).done)
      | .watch _ _ => (6, 0, 0, 0)
      | _ => (1, 0, 0, 0)

/-- A slot entry of a gang section: `i` is the member. A word stop's token word holds the number of its kept trace too (log 26). -/
def slotBytes (s : State) (g : Nat) (st : List StackEntry) (i kept : Nat) (X : Slot) : List Byte :=
  let c := slotCode s g X
  let m := fld X.mask.toNat (32 * i) 32
  padTo 32 (if i = 0 then natBytes 8 X.entry ++ natBytes 4 m ++ natBytes 4 (tokRef st X.tok + 2 ^ 6 * kept) ++ natBytes 4 c.1 ++ natBytes 1 c.2.1
      ++ natBytes 1 c.2.2.1 ++ natBytes 1 c.2.2.2
    else natBytes 8 0 ++ natBytes 4 m)

/-- A watch of a slot: address and value. -/
def watchBytes (X : Slot) : List Byte := match X.wait with
  | .watch a v => natBytes 8 a ++ natBytes 8 v
  | _ => natBytes 16 0

/-- The set-aside state of a cast-off routine (log 15): the slots with their upper lanes, the stack's depth and the bound, then predicates and
flags. -/
def asideBytes (s : State) (g : Nat) (st : List StackEntry) (co : Castoff) : List Byte :=
  let base := st.drop (st.length - co.depth)
  let slot (X : Slot) (n : Nat) : List Byte :=
    (slotBytes s g base 0 0 X).take 23 ++ natBytes 4 (fld X.mask.toNat 32 32) ++ natBytes 2 n ++ natBytes 3 0
  slot co.a co.bound ++ slot co.b co.depth ++ co.preds.flatMap (fun p => natBytes 4 p.toNat) ++ co.fpsr.flatMap (fun f => natBytes 1 f.toNat)

/-! ## Safe points -/

/-- What the safe-point table says of a trace (26 R401): live and anchor maps, the recipe's address, the ordinal. -/
structure SafePoint where
  live : Nat
  anchor : Nat
  recipe : Option Nat
  ord : Nat
  deriving DecidableEq, Repr

/-- The safe-point entry of the trace at an address; none where the address is not the entry of a trace of the table (21 R369). -/
def safePoint (s : State) (L : Launch) (va : Nat) : Option SafePoint := do
  let w ← mgmtWords s L.ctx va 1
  let h ← headerOf (w.headD 0).toNat
  let e ← mgmtRead s L.ctx (fld (descWord L.desc 4) 0 56 + 48 * h.ord) 48
  let n (o k : Nat) : Nat := bytesNat ((e.drop o).take k)
  let code := fld (descWord L.desc 1) 0 56
  if va % 8 = 0 ∧ va < 2 ^ 56 ∧ va + 8 ≤ fld (descWord L.desc 2) 0 56 ∧ va = code + n 0x20 4 then
    some { live := n 0 16, anchor := n 0x10 16, recipe := if n 0x24 4 = 0xFFFFFFFF then none else some (code + n 0x24 4), ord := h.ord }
  else none

/-- The positions at which lanes of a gang stand, with the lanes (21 R369). -/
def positions (G : Gang) : List (Nat × Mask) :=
  let slots := match G.co with
    | some c => [G.a, G.b, c.a, c.b]
    | none => [G.a, G.b]
  ((slots.map (fun X => (X.entry, X.mask))) ++ G.stack.map (fun e => match e with
    | .path a m _ _ => (a, m)
    | .token _ j _ a _ => (j, a))).filter (fun p => p.2 != 0)

/-- A gang's save is a flashback one (21 R369): no slot at a word stop, and every position in the safe-point table. -/
def flashback (s : State) (L : Launch) (G : Gang) : Bool :=
  G.a.run.isNone && G.b.run.isNone && (positions G).all (fun p => (safePoint s L p.1).isSome)

/-- The rows that a gang saves, as a map (21 R369). -/
def rowMap (s : State) (L : Launch) (G : Gang) : Nat :=
  let all := 2 ^ rowsBelow G.bound - 1
  if flashback s L G then
    all &&& (positions G).foldl (fun m p => match safePoint s L p.1 with
      | some x => m ||| (if x.recipe.isSome then x.anchor else x.live)
      | none => m) 0
  else all

/-- The rows of a map. -/
def rowsIn (m : Nat) : List Nat := (List.range 128).filter (bit m)

/-! ## Sections -/

/-- A member's section of a gang (21 R368, 26 R409); `ka` and `kb` are the numbers of the traces kept for its slots. -/
def gangSection (s : State) (L : Launch) (T : Team) (g : Nat) (G : Gang) (i ka kb : Nat) : List Byte :=
  let lane (l : Nat) := G.lane (32 * i + l)
  let first (bs : List Byte) : List Byte := if i = 0 then bs else List.replicate bs.length 0
  let batch (l : Nat) : List Byte :=
    let b := laneBatch s g (32 * i + l)
    if G.role = .c then
      natBytes 4 (s.copies.filter (fun c => copyOf s g (32 * i + l) c && c.batch == b.sealed + 1)).length ++ natBytes 4 (batchNum (b.sealed + 1))
        ++ natBytes 4 (batchNum (b.done + 1)) ++ natBytes 4 (b.sealed / batchWrap)
    else natBytes 16 0
  padTo 4096 (first (G.k.toList.flatMap (fun k => natBytes 8 k.toNat))
    ++ (List.range 32).flatMap (fun l => natBytes 4 (lane l).preds.toNat)
    ++ (List.range 32).flatMap (fun l => natBytes 4 (lane l).fpsr.toNat)
    ++ padTo 128 ((if i = 0 then G.stalls else G.stalls1).flatMap (natBytes 4))
    ++ slotBytes s g G.stack i ka G.a ++ slotBytes s g G.stack i kb G.b
    ++ first (watchBytes G.a ++ watchBytes G.b)
    ++ natBytes 16 (rowMap s L G)
    ++ padTo 16 (natBytes 1 (match G.role with | .v => 0 | .m => 1 | .c => 2) ++ natBytes 1 G.num
      ++ natBytes 1 (b2n (T.reg.any (fun (x : Reg) => x.gang == g))) ++ natBytes 1 (b2n (!flashback s L G)) ++ natBytes 1 i)
    ++ first (padTo 768 (G.stack.reverse.flatMap (entryBytes s g G.stack)))
    ++ (List.range 32).flatMap batch
    ++ first (padTo 384 (match G.co with | some c => asideBytes s g G.stack c | none => [])))

/-- Register `b` in 16 bytes (21 R368). -/
def barBytes (b : Barrier) : List Byte :=
  natBytes 8 (b.arrbytes + 2 ^ 32 * b.expbytes) ++ natBytes 8 (b.arrmem + 2 ^ 12 * b.expmem + 2 ^ 31 * b2n b.phase)

/-- The team of a twin cluster on its even core, or the team of a single cluster, holds the cluster's registers in its image. -/
def holdsCluster (T : Team) : Bool := T.partner.isNone || T.core % 2 == 0

def barSection (L : Launch) (T : Team) : List Byte :=
  padTo 256 (T.bars.flatMap barBytes)
    ++ padTo 128 (if holdsCluster T then (tabGet [] L.cbars T.cbar).flatMap barBytes else [])
    ++ padTo 128 (if T.idx = 0 then L.gbars.flatMap barBytes else [])

/-- Tile state (log 15). -/
def tileSection (s : State) (t : Nat) (T : Team) : List Byte :=
  let co := (teamGangs s t).findSome? (fun e => e.2.co)
  padTo 256 (natBytes 8 (T.reg.elim 0 (·.entry)) ++ natBytes 8 (T.reg.elim 0 (·.bound)) ++ natBytes 8 T.refusals
    ++ natBytes 8 (if T.eff.window = 0 then 0 else T.eff.window - (T.resid + T.winOff) % T.eff.window)
    ++ natBytes 8 (co.elim 0 (·.count)) ++ natBytes 8 (co.elim 0 (fun c => c.tile + 1))
    ++ (tilesHeldBy s t).map (fun x => match (s.tile x).rcall with | .due _ => (1 : Byte) | _ => 0))

def recSection (T : Team) : List Byte :=
  T.recs.flatMap (fun r => natBytes 32 r.body.toNat ++ padTo 16 (natBytes 1 (b2n r.valid)))

/-- A copy descriptor (22 R374). A command that CPYX left out of the batches has the number of a batch that has completed or does not exist. -/
def copyDesc (s : State) (c : Copy) : List Byte :=
  let left := (((List.range c.blocks.length).drop c.requested).map (fun n => (c.granule n).length)).sum
  let b := laneBatch s c.gang c.req.lane
  let batch := if !copyOf s c.gang c.req.lane c then (if c.batch = 0 then 0 else batchNum c.batch)
    else if c.batch = 0 then (if b.done = 0 then batchWrap else batchNum b.done)
    else if c.batch = b.sealed + 1 then 0 else batchNum c.batch
  let rd := c.req.kind == kCpyrd
  natBytes 32 c.w ++ natBytes 8 c.req.box0 ++ natBytes 8 c.req.box1
    ++ natBytes 8 (c.req.offset + 2 ^ 23 * c.requested + 2 ^ 37 * (c.req.lane % 32) + 2 ^ 42 * c.gangNum + 2 ^ 48 * (if rd then c.req.ty.code else 0)
      + 2 ^ 53 * (if rd then c.req.aop.code else 0) + 2 ^ 57 * c.req.br.field + 2 ^ 63 * b2n c.req.out)
    ++ natBytes 8 (left + 2 ^ 30 * c.req.kind + 2 ^ 32 * batch)

/-- The remap entry and the descriptors (21 R371, 22 R374). -/
def copySection (s : State) (t : Nat) (T : Team) : List Byte :=
  padTo 4096 (natBytes 8 (2 ^ 63 + T.scratch) ++ natBytes 8 (T.remap.getD 0) ++ natBytes 48 0
    ++ (s.copies.filter (fun c => c.team == t)).flatMap (copyDesc s))

/-- The bins of a team (21 R368, log 15). -/
def binSection (s : State) (t : Nat) (T : Team) : List Byte :=
  padTo 20480 (((s.core T.core).bins.filter (fun b => b.bound && b.team == t)).flatMap (fun b =>
    padTo 256 (natBytes 8 b.entry ++ natBytes 4 (match b.role with | .v => 0 | .m => 1 | .c => 2) ++ natBytes 4 b.lanes.length ++ natBytes 8 b.left
      ++ natBytes 1 1 ++ natBytes 1 (b2n b.due)) ++ padTo 1024 (b.lanes.flatMap (fun p => natBytes 32 p.toNat))))

/-- The gangs of a team in ascending %gang. -/
def gangsByNum (s : State) (t : Nat) : List (Nat × Gang) :=
  (List.range 64).flatMap (fun n => (teamGangs s t).filter (fun e => e.2.num == n))

/-- The saved rows of a gang, member by member, each with the poison of its lanes (21 R368). -/
def rowSection (s : State) (L : Launch) (G : Gang) : Marked :=
  (List.range (members G)).flatMap (fun i => (rowsIn (rowMap s L G)).flatMap (fun n =>
    (List.range 32).flatMap (fun l =>
      let x := G.lane (32 * i + l)
      (natBytes 4 (x.row n).toNat).map (fun b => (b, x.poison.getLsbD n)))))

/-- A gang as its save leaves it: its pending results land, its TLBIs take place, and its overflow rows are written back, those too on which a result
has landed since they left the window (03 R69, 21 R365, R367). -/
def quietGang (s : State) (g : Nat) : State :=
  let s := [false, true].foldl (fun s b =>
    let r : SlotRef := { gang := g, b }
    let X := s.slot r
    if X.mask = 0 then s
    else
      let s := match X.run with | some R => land s r R | none => s
      match X.wait with
      | .stopped | .undo | .fill _ | .record _ | .unready => s.setWait r .none
      | _ => s) s
  let c := s.core (coreOf g)
  let s := s.setCore (coreOf g) { c with undoWait := c.undoWait.filter (fun r => r.gang != g) }
  let s := (s.gang g).tlbi.foldl (fun s q => dropTlb s (ctxId q.panel q.vd) q.va) s
  let s := (List.range (rowsBelow (declared s g))).foldl (fun s n => if overflowRow s g n then spillRow s g n else s) s
  s.setGang g { s.gang g with tlbi := [], window := [] }

/-- A number in the kept traces for each word stop of a gang (log 26). -/
def keepRuns (s : State) (G : Gang) : State × Nat × Nat :=
  let one (s : State) (X : Slot) : State × Nat := match X.mask == 0, X.run with
    | false, some R => ({ s with kept := s.kept ++ [R] }, s.kept.length + 1)
    | _, _ => (s, 0)
  let x := one s G.a
  let y := one x.1 G.b
  (y.1, x.2, y.2)

/-- The gang sections and rows of a team. -/
def gangParts (s : State) (L : Launch) (T : Team) : List (Nat × Gang) → State × List Byte × Marked
  | [] => (s, [], [])
  | (g, G) :: gs =>
    let k := keepRuns s G
    let x := gangParts k.1 L T gs
    (x.1, (List.range (members G)).flatMap (fun i => gangSection s L T g G i k.2.1 k.2.2) ++ x.2.1, rowSection s L G ++ x.2.2)

/-- The header with DONE (21 R368). Of the base and the bound, which 03 R68 has reported in the image, it holds what the layout has a field for, GRANT,
from which the bound follows (DESIGN CHOICE, log 59). -/
def headerBytes (s : State) (t : Nat) (T : Team) (L : Launch) (gangs rows : Nat) : List Byte :=
  let q := (tilesHeldBy s t).any (fun x => !isExtent x)
  padTo 256 (natBytes 8 (2 ^ 56 + 2 ^ 40 * gangs + 2 ^ 32 + (imageHead rows + T.scratch)) ++ natBytes 8 L.blockAddr ++ natBytes 8 T.idx
    ++ natBytes 8 (2 ^ 42 * T.grant + 2 ^ 32 * spadCount T.scratch + rows) ++ natBytes 8 (chargeOf s T) ++ natBytes 8 T.resid
    ++ natBytes 8 (2 ^ 16 * b2n q + (panelCore s T.core).2))

/-! ## The steps of a save -/

/-- The first part of a team's save after its stop: its gangs are made quiet, its allocation is copied into the image's scratchpad section, which
stands where the rows that will be saved put it, and the remap entry comes into force (21 R371, 22 R375). -/
def beginRemap (s : State) (t : Nat) : State × Option Nat :=
  let s := (teamGangs s t).foldl (fun s e => quietGang s e.1) s
  match s.team? t with
  | none => (s, none)
  | some T =>
    match s.launch? T.launch, T.image with
    | some L, some a =>
      let rows := ((teamGangs s t).map (fun e => members e.2 * (rowsIn (rowMap s L e.2)).length)).sum
      let at_ := a + imageHead rows
      let x := imgWrite s (sysCtx L.panel) at_ (spadImage s T)
      (x.1.setTeam t { T with remap := some at_ }, x.2)
    | _, _ => (s, none)

/-- A team's image is written, the header last, as a release at .d (21 R367). -/
def writeImage (s : State) (t : Nat) : State × Option Nat :=
  match s.team? t with
  | none => (s, none)
  | some T =>
    match s.launch? T.launch, T.image with
    | some L, some a =>
      let s := flushReds (promote s T.core) (fun d => d.team == some t)
      let gs := gangsByNum s t
      let x := gangParts s L T gs
      let s := x.1
      let parts : List (Nat × Marked) :=
        [(0x100, plain (barSection L T)), (0x300, plain (tileSection s t T)), (0x400, plain (recSection T)), (0x1000, plain (copySection s t T)),
         (0x2000, plain (binSection s t T)), (0x7000, plain (padTo 131072 x.2.1)), (0x27000, x.2.2),
         (0, plain (headerBytes s t T L (x.2.1.length / 4096) (x.2.2.length / 128)))]
      imgParts s (sysCtx L.panel) a parts
    | _, _ => (s, none)

/-- A team whose image is written leaves its core (21 R367, 23 R382). -/
def leaveCore (s : State) (t : Nat) : State :=
  match s.team? t with
  | none => s
  | some T =>
    match s.launch? T.launch, T.image with
    | some L, some a =>
      let len := fld ((mgmtWords s (sysCtx L.panel) a 1).elim 0 (fun w => (w.headD 0).toNat)) 0 32
      let body : Team := { T with pre := .none, image := none, remap := none, saves := T.saves + 1 }
      let v : Saved := { team := t, body, panel := L.panel, vd := L.vd, image := a, byCtx := s.reserved.all (fun r => r.team != t),
                         lanes := (s.copies.filter (fun c => c.team == t)).map (·.req.lane) }
      let s := dropTeam s t
      let s := { s with
        reserved := s.reserved.map (fun r => if r.team = t then { r with len := min r.len len } else r)
        saved := s.saved ++ [v] }
      spawnRetry (ctxReply s t 0) T.core
    | _, _ => s

/-- A step over the teams of a unit that a fault of a write stops. -/
def overUnit (f : State → Nat → State × Option Nat) (s : State) : List Nat → State × Option Nat
  | [] => (s, none)
  | t :: ts =>
    match f s t with
    | (s, some a) => (s, some a)
    | (s, none) => overUnit f s ts

/-- The unit of a team is being saved and has stopped, its matrix commands have retired, and no record or copy check is under way. -/
def saveReady (s : State) (unit : List Nat) : Bool :=
  unit.all (fun t => match s.team? t with
    | some T => T.pre == .save && T.image.isSome && teamStopped s t && T.recs.all (fun r => r.pending.isNone)
    | none => false)
  && s.mats.all (fun m => !unit.contains m.team)

/-- Tiles held as loans by the teams of a unit. -/
def loansOf (s : State) (unit : List Nat) : List Nat :=
  (s.tiles.filter (fun e => e.2.cls == .loan && e.2.holder.any (fun h => unit.contains h))).map (·.1)

/-- The next step of a unit's save, where one can be taken (21 R367). -/
inductive SaveStep
  | loans | remap | close
  deriving DecidableEq, Repr

def saveStep (s : State) (unit : List Nat) : Option SaveStep :=
  if unit.isEmpty || !saveReady s unit then none
  else
    let loans := loansOf s unit
    if loans.any (fun t => (s.tile t).passing.isNone) then some .loans
    else if !loans.isEmpty then none
    else if unit.any (fun t => match s.team? t with | some T => T.remap.isNone | none => false) then some .remap
    else if s.copies.any (fun c => unit.contains c.team && (c.inFlight.isSome || copyDone c)) then none
    else some .close

/-- A unit's save takes its next step (21 R367). -/
def saveUnit (s : State) (t : Nat) : State :=
  let unit := unitOf s t
  let run (f : State → Nat → State × Option Nat) (k : State → State) : State := match overUnit f s unit with
    | (s, some a) => saveFault s t a
    | (s, none) => k s
  match saveStep s unit with
  | none => s
  | some .loans => unit.foldl revokeLoans s
  | some .remap => run beginRemap id
  | some .close => run writeImage (fun s => unit.foldl leaveCore s)

end Machine
end Sys2Proof
end

