-- ==== Sys2Proof/Machine/RestoreOps.lean ====
section
/-! DEFINITION. The restore of a saved unit from its context images (21 R370, R372, 22 R374, 19 R344), and the end of a unit that is saved out. -/

set_option Elab.async false

namespace Sys2Proof
namespace Machine

/-! ## Reading an image -/

/-- The place of a byte at a system address, where it translates. -/
def sysKey (s : State) (ctx va : Nat) : Option Nat :=
  match (mgmtXlate s ctx (va % 2 ^ 56) .read).2 with
  | .ok _ k => some k
  | .fault _ => none

/-- A byte at a system address with its poison; zero where it does not translate. -/
def sysByte (s : State) (ctx va : Nat) : Byte × Bool :=
  match sysKey s ctx va with
  | some k => (s.mem.read k, !s.poison.isEmpty && s.poisoned k)
  | none => (0, false)

/-- An image to restore: the panel, the address, the launch of its team, and the lanes of its copies where its save is known (26 R409). -/
structure Image where
  panel : Nat
  addr : Nat
  launch : Launch
  lanes : List Nat
  deriving DecidableEq, Repr

/-- `n` bytes of an image. -/
def Image.rd (m : Image) (s : State) (off n : Nat) : Nat :=
  bytesNat ((List.range n).map (fun i => (sysByte s (sysCtx m.panel) (m.addr + off + i)).1))

/-- Word `i` of an image's header. -/
def Image.head (m : Image) (s : State) (i : Nat) : Nat := m.rd s (8 * i) 8

/-- `n` bytes of section `i` of the gangs. -/
def Image.sec (m : Image) (s : State) (i off n : Nat) : Nat := m.rd s (0x7000 + 4096 * i + off) n

def Image.gangs (m : Image) (s : State) : Nat := fld (m.head s 0) 40 8
def Image.grant (m : Image) (s : State) : Nat := fld (m.head s 3) 42 10
def Image.nrows (m : Image) (s : State) : Nat := fld (m.head s 3) 0 32
def Image.pinned (m : Image) (s : State) : Bool := fld (m.head s 6) 16 1 == 1
def Image.core (m : Image) (s : State) : Nat := fld (m.head s 6) 0 10

/-- Where a descriptor stands (22 R374). -/
def Image.desc (m : Image) (s : State) (i k n : Nat) : Nat := m.rd s (0x1040 + 64 * i + k) n

/-- Copy descriptors of the image: the first with UNCNT = 0 ends the list. -/
def Image.ncopies (m : Image) (s : State) : Nat :=
  (firstBelow 32 (fun i => fld (m.desc s i 56 8) 0 21 == 0)).getD 32

/-- Sections of one gang, by number: a pair's second member follows its first (26 R409). -/
def Image.gangSecs (m : Image) (s : State) : List (Nat × Nat) :=
  (List.range (m.gangs s)).filterMap (fun i =>
    if m.sec s i 0x3F4 1 = 0 then some (i, if i + 1 < m.gangs s ∧ m.sec s (i + 1) 0x3F4 1 = 1 then 2 else 1) else none)

/-- The %gang of a section. -/
def Image.num (m : Image) (s : State) (i : Nat) : Nat := m.sec s i 0x3F1 1

/-- Saved rows of the sections before section `i`. -/
def Image.rowBase (m : Image) (s : State) (i : Nat) : Nat := ((List.range i).map (fun j => (rowsIn (m.sec s j 0x3E0 16)).length)).sum

/-! ## Sound images -/

/-- The layout record of a descriptor, and its command but for the barrier and the lane (22 R374). -/
def Image.layout (m : Image) (s : State) (i : Nat) : Nat := m.desc s i 0 32
def Image.copyReq (m : Image) (s : State) (i : Nat) : CopyReq :=
  let d6 := m.desc s i 48 8
  { kind := fld (m.desc s i 56 8) 30 2, lane := fld d6 37 5, layoutAddr := 0, box0 := m.desc s i 32 8, box1 := m.desc s i 40 8,
    spw := fld d6 0 20 + 2 ^ 63 * fld d6 63 1, bar := none, br := (Bar.ofField (fld d6 57 6)).getD .none,
    aop := (Aop.ofCode (fld d6 53 4)).getD .add, ty := (Ty.ofCode (fld d6 48 5)).getD .none }

/-- A descriptor has no reserved code and no reserved bit, in its layout record and its pair either (22 R374, 06 R140, 13 R281), and its command is
one that could have been accepted: the fields of an image are to lie in their ranges (18 R332). -/
def Image.descOk (m : Image) (s : State) (i : Nat) : Bool :=
  let d6 := m.desc s i 48 8
  let d7 := m.desc s i 56 8
  let kind := fld d7 30 2
  fld d6 20 3 == 0 && fld d7 21 9 == 0 && kind != 3 && (Bar.ofField (fld d6 57 6)).any Bar.cmdOk
  && (if kind = 2 then (match Aop.ofCode (fld d6 53 4), Ty.ofCode (fld d6 48 5) with
      | some a, some t => a.isCopy && a.accepts t
      | _, _ => false)
    else fld d6 48 9 == 0)
  && copyOk (m.copyReq s i) (m.layout s i)

/-- The image is complete, of this format, and its fields lie in their ranges (18 R332, 21 R368, R370). -/
def Image.ok (m : Image) (s : State) : Bool :=
  let L := m.launch
  let h (i lo n : Nat) : Nat := fld (m.head s i) lo n
  h 0 56 8 == 1 && h 0 32 1 == 1 && h 0 48 8 == 0 && h 0 33 7 == 0 && h 1 56 8 == 0 && h 3 52 12 == 0 && h 6 17 47 == 0 && h 6 10 6 == 0
  && (List.range 25).all (fun i => h (7 + i) 0 64 == 0)
  && 1 ≤ m.gangs s && m.gangs s ≤ 32 && h 2 0 64 < L.teams
  && h 0 0 32 == imageHead (m.nrows s) + L.scratch && h 3 32 10 == spadCount L.scratch
  && 1 ≤ m.grant s && m.grant s ≤ fullGrant L.stitch && (m.grant s == fullGrant L.stitch || 3 ≤ m.grant s)
  && m.rowBase s (m.gangs s) == m.nrows s
  && ((m.gangSecs s).map (·.2)).sum == m.gangs s
  && (m.gangSecs s).all (fun p => m.num s p.1 < 64 && m.sec s p.1 0x3F0 1 ≤ 2 && m.sec s p.1 0x3F2 1 ≤ 1 && m.sec s p.1 0x3F3 1 ≤ 1 && m.sec s p.1 0x390 4 ≤ 6 && m.sec s p.1 0x3B0 4 ≤ 6)
  && decide (((m.gangSecs s).map (fun p => m.num s p.1)).Nodup)
  && (List.range (m.ncopies s)).all (m.descOk s)

/-! ## Gangs -/

/-- A token by its place on the stack, from the bottom, counted from 1. -/
def tokAt (n : Nat) : Option Nat := if n = 0 then none else some (n - 1)

/-- The register that a barrier field names for a team (13 R274). -/
def teamBar (t : Nat) (T : Team) (f : Nat) : Option BarId := match Bar.ofField f with
  | some (.team n) => some (.team t n)
  | some (.cluster n) => some (.cluster (clusterId T.launch T.cbar) n)
  | some (.grid n) => some (.grid T.launch n)
  | some .none | none => none

/-- A wait that the divergence block holds (log 15). -/
def waitOf (t : Nat) (T : Team) (addr : Nat) (done : Nat → Nat) (kind v : Nat) : Wait :=
  match kind with
  | 1 => .trapped { cause := 20, ord := fld v 0 20, off := fld v 20 7, kept := true, code := fld v 27 8, detail := 0, resume := addr }
  | 2 => (match teamBar t T (fld v 0 6) with
    | some b => .barrier b (bit v 6) (bit v 7)
    | none => .none)
  | 3 => .batch (fld v 0 6) (done (fld v 0 6) + fld v 6 40)
  | _ => .none

/-- Entry `i` of a divergence block, counted from the bottom of the stack; none above its top. -/
def Image.entry (m : Image) (s : State) (t : Nat) (T : Team) (done : Nat → Nat) (sec i : Nat) : Option StackEntry :=
  let w (k : Nat) : Nat := m.sec s sec (0x400 + 24 * i + 8 * k) 8
  if bit (w 0) 63 then some (.path (w 1) (BitVec.ofNat 64 (w 2)) (tokAt (fld (w 0) 0 6)) (waitOf t T (w 1) done (fld (w 0) 6 2) (fld (w 0) 8 55)))
  else if w 1 = 0 then none
  else
    let j := fld (w 0) 0 57
    some (.token i (if j < 3 * 2 ^ 55 then j else j + 2 ^ 64 - 2 ^ 57) (BitVec.ofNat 64 (w 1)) (BitVec.ofNat 64 (w 2)) (tokAt (fld (w 0) 57 6)))

/-- The stack of a section, its top first. -/
def Image.stack (m : Image) (s : State) (t : Nat) (T : Team) (done : Nat → Nat) (sec : Nat) : List StackEntry :=
  ((List.range 32).map (m.entry s t T done sec)).foldl (fun (l : List StackEntry) e => match e with
    | some e => e :: l
    | none => l) []

/-- A slot from its entry at an offset of a section (21 R368, log 15). A word stop whose trace is not kept stands at its entry (log 26). -/
def Image.slotAt (m : Image) (s : State) (t : Nat) (T : Team) (done : Nat → Nat) (sec off hi watch : Nat) : Slot :=
  let n (o k : Nat) : Nat := m.sec s sec (off + o) k
  let mask : Mask := BitVec.ofNat 64 (n 8 4 + 2 ^ 32 * hi)
  if n 16 4 = 0 ∨ mask = 0 then Slot.free
  else
    let X := Slot.at (n 0 8) mask (tokAt (fld (n 12 4) 0 6))
    match n 16 4 with
    | 2 => (match (if n 12 4 < 64 then none else s.kept[n 12 4 / 64 - 1]?) with
      | some (R : Run) => { X with run := some { R with pos := n 20 1 - 1 } }
      | none => X)
    | 3 => { X with wait := .join }
    | 4 => (match teamBar t T (n 21 1) with | some b => { X with wait := .barrier b (n 22 1 != 0) false } | none => X)
    | 5 => if n 21 1 = 48 then let l := (Mask.lowest mask).getD 0; { X with wait := .batch l (done l + n 22 1) }
      else (match teamBar t T (n 21 1) with | some b => { X with wait := .barrier b (n 22 1 != 0) true } | none => X)
    | 6 => { X with wait := .watch (m.sec s sec watch 8) (m.sec s sec (watch + 8) 8) }
    | _ => X

/-- The batches of a C gang's lane (13 R286). -/
def Image.batch (m : Image) (s : State) (sec l : Nat) : LaneBatch :=
  let n (k : Nat) : Nat := m.sec s (sec + l / 32) (0x700 + 16 * (l % 32) + 4 * k) 4
  let sealed := n 3 * batchWrap + (n 1 - 1)
  { sealed, done := sealed - (n 1 + batchWrap - n 2) % batchWrap }

/-- A lane of a gang from its member's section and rows: rows that were not saved read zero (21 R370). -/
def Image.lane (m : Image) (s : State) (sec parts l : Nat) : Lane :=
  if 32 * parts ≤ l then Lane.reset
  else
    let i := sec + l / 32
    let L : Lane := { Lane.reset with preds := BitVec.ofNat 32 (m.sec s i (0x200 + 4 * (l % 32)) 4) ||| 1#32, fpsr := BitVec.ofNat 32 (m.sec s i (0x280 + 4 * (l % 32)) 4) &&& 0x3F#32 }
    (mapFrom (fun k n => (k, n)) (m.rowBase s i) (rowsIn (m.sec s i 0x3E0 16))).foldl (fun (L : Lane) e =>
      let o := 0x27000 + 128 * e.1 + 4 * (l % 32)
      let L := L.wr (8 * e.2) 8 (m.rd s o 4)
      if (sysByte s (sysCtx m.panel) (m.addr + o)).2 then { L with poison := L.poison ||| (1#128 <<< e.2) } else L) L

/-- The cast-off context of a registrant (11 R242, log 15). -/
def Image.castoff (m : Image) (s : State) (t : Nat) (T : Team) (done : Nat → Nat) (sec : Nat) : Option Castoff :=
  let tile := m.rd s 0x328 8
  if tile = 0 ∨ m.sec s sec 0x3F2 1 = 0 then none
  else
    some { tile := tile - 1, a := m.slotAt s t T done sec 0x900 (m.sec s sec 0x917 4) 0x3C0, b := m.slotAt s t T done sec 0x920 (m.sec s sec 0x937 4) 0x3C0,
           preds := (List.range 64).map (fun l => BitVec.ofNat 32 (m.sec s sec (0x940 + 4 * l) 4) ||| 1#32),
           fpsr := (List.range 64).map (fun l => BitVec.ofNat 32 (m.sec s sec (0xA40 + l) 1) &&& 0x3F#32), count := m.rd s 0x320 8,
           bound := m.sec s sec 0x91B 2, depth := m.sec s sec 0x93B 2 }

/-- The lanes of a gang that have not exited: those of its positions. -/
def standing (G : Gang) : Mask := (positions G).foldl (fun m p => m ||| p.2) 0

/-- A gang from its sections (21 R370). -/
def Image.gang (m : Image) (s : State) (t : Nat) (T : Team) (sec parts : Nat) : Gang :=
  let role : Role := match m.sec s sec 0x3F0 1 with | 0 => .v | 1 => .m | _ => .c
  let batches : Tab LaneBatch := if role = .c then
      ((List.range (32 * parts)).map (fun l => (l, m.batch s sec l))).filter (fun e => e.2 != { sealed := 0, done := 0 })
    else []
  let done (l : Nat) : Nat := (tabGet ({ sealed := 0, done := 0 } : LaneBatch) batches l).done
  let hi (o : Nat) : Nat := if parts = 2 then m.sec s (sec + 1) (o + 8) 4 else 0
  let n := m.num s sec
  let G : Gang := { Gang.blank with
    team := some t, num := n, role, width := if parts = 2 then 64 else if n < T.ngang ∧ m.launch.width = 16 then 16 else 32,
    lanes := Vector.ofFn (fun l => m.lane s sec parts l.val), k := Vector.ofFn (fun i => BitVec.ofNat 64 (m.sec s sec (8 * i.val) 8)),
    a := m.slotAt s t T done sec 0x380 (hi 0x380) 0x3C0, b := m.slotAt s t T done sec 0x3A0 (hi 0x3A0) 0x3D0, stack := m.stack s t T done sec, nextTok := 32,
    age := s.now, stalls := (List.range 16).map (fun i => m.sec s sec (0x300 + 4 * i) 4),
    stalls1 := (List.range 16).map (fun i => if parts = 2 then m.sec s (sec + 1) (0x300 + 4 * i) 4 else 0), batches, co := m.castoff s t T done sec,
    bound := if n < T.ngang then boundOf T.stitches T.grant else T.stitches, govb := backingBase m.launch T.idx ((if T.ngang ≤ n then 1 else m.launch.parts) * n) }
  { G with live := standing G }

/-! ## Recipes -/

/-- The trace at an address is a recipe (21 R370): plain, ended by NEXT, with no word of groups 0x8 to 0xE but LDS, LDC and LD through a valid
slot. -/
def recipeOk (s : State) (L : Launch) (recs : List RecSlot) (va : Nat) : Bool :=
  match (mgmtWords s L.ctx va 1).bind (fun w => headerOf (w.headD 0).toNat) with
  | none => false
  | some h =>
    !h.guarded && !badPlain h &&
    match mgmtWords s L.ctx (va + 8) (h.len + 1) with
    | none => false
    | some ws =>
      opOf ((ws[h.len]?).getD 0).toNat == 0x008
      && (ws.take h.len).all (fun w => wordGroup w.toNat < 8 || (match decodeWord w.toNat 0 with
        | some (.lds _) => true
        | some (.ldc _) => true
        | some (.ld x) => (match recs[x.q]? with | some r => r.valid | none => false)
        | _ => false))

/-- Lanes by position, each once. -/
def mergePositions : List (Nat × Mask) → List (Nat × Mask)
  | [] => []
  | (a, m) :: ps =>
    let gs := mergePositions ps
    match gs.find? (fun g => g.1 == a) with
    | some g => (a, m ||| g.2) :: gs.filter (fun g => g.1 != a)
    | none => (a, m) :: gs

/-- The recipes that a restored gang runs, in ascending ordinal, with their lanes (21 R370). -/
def recipesOf (s : State) (L : Launch) (G : Gang) : List (Nat × Mask) :=
  let ps := (mergePositions (positions G)).filterMap (fun p => match safePoint s L p.1 with
    | some x => x.recipe.map (fun r => (x.ord, r, p.2))
    | none => none)
  ((ps.mergeSort (fun a b => a.1 ≤ b.1)).map (·.2))

/-! ## A team -/

/-- The record slots of an image (06 R138). -/
def Image.recs (m : Image) (s : State) : List RecSlot :=
  (List.range 64).map (fun q => { body := BitVec.ofNat 256 (m.rd s (0x400 + 48 * q) 32), valid := m.rd s (0x400 + 48 * q + 32) 1 == 1, pending := none })

/-- A barrier register from its 16 bytes; in one of a cluster or a grid the bytes are reserved and read zero (13 R274). -/
def Image.bar (m : Image) (s : State) (off : Nat) (bytes : Bool) : Barrier :=
  let a := if bytes then m.rd s off 8 else 0
  let b := m.rd s (off + 8) 8
  { phase := bit b 31, expmem := fld b 12 12, arrmem := fld b 0 12, expbytes := fld a 32 32, arrbytes := fld a 0 32, came := [], next := 0 }

/-- `n` registers of an image; the gangs that have arrived in a phase are those of the registers as they stood (21 R373). -/
def Image.bars (m : Image) (s : State) (off n : Nat) (bytes : Bool) (old : List Barrier) : List Barrier :=
  (List.range n).map (fun i => { m.bar s (off + 16 * i) bytes with came := (old[i]?).elim [] (·.came) })

/-- The bins of an image. -/
def Image.bins (m : Image) (s : State) (t : Nat) : List Bin :=
  ((List.range 16).filter (fun i => m.rd s (0x2000 + 1280 * i + 24) 1 == 1)).map (fun i =>
    let n (o k : Nat) : Nat := m.rd s (0x2000 + 1280 * i + o) k
    { bound := true, team := t, entry := n 0 8, role := match n 8 4 with | 0 => .v | 1 => .m | _ => .c,
      lanes := (List.range (min (n 12 4) 32)).map (fun j => BitVec.ofNat 256 (n (256 + 32 * j) 32)), left := n 16 8, due := n 25 1 == 1 })

/-- Bins put into the free ones of a core. -/
def placeBins : List Bin → List Bin → List Bin
  | b :: bs, x :: xs => if x.bound then x :: placeBins (b :: bs) xs else b :: placeBins bs xs
  | _, xs => xs

/-- The gangs for which a restored team needs slots and granules: the launched ones at the image's grant, then the spawned ones (19 R344, log
30). -/
def Image.needs (m : Image) (s : State) : List (Nat × Nat) :=
  List.replicate m.launch.gangs (m.launch.parts, m.grant s)
    ++ ((m.gangSecs s).filter (fun p => m.launch.gangs ≤ m.num s p.1)).map (fun p => (p.2, fullGrant m.launch.stitch))

/-- The places of gangs of one or two hardware gangs each. -/
def placesOf : List (Nat × Nat) → List (Nat × Nat × Nat) → List Nat
  | p :: ps, r :: rs => r.1 :: placesOf ps ((r :: rs).drop p.1)
  | _, _ => []

/-- The place of the gang of a section. -/
def Image.placeOf (m : Image) (s : State) (places : List Nat) (sec : Nat) : Nat :=
  let n := m.num s sec
  if n < m.launch.gangs then (places[n]?).getD 0
  else
    let sp := ((m.gangSecs s).filter (fun p => m.launch.gangs ≤ m.num s p.1)).map (·.1)
    ((sp.findIdx? (· == sec)).bind (fun i => places[m.launch.gangs + i]?)).getD 0

/-- Overflow rows reached through the backing store (21 R370, 03 R69). -/
def loadOverflow (s : State) (g : Nat) : State :=
  let G := s.gang g
  let ctx := sysCtx (panelCore s (coreOf g)).1
  let rows := (List.range (rowsBelow ((teamOf s g).elim 0 (·.stitches)))).filter (fun n => rowsBelow G.bound ≤ n)
  s.setGang g { G with lanes := mapLanes (maskOf (fun l => l < 32 * members G)) (fun l L => rows.foldl (fun (L : Lane) n =>
    let bs := (List.range 4).map (fun i => sysByte s ctx (govbAddr s g n (l / 32) + 4 * (l % 32) + i))
    let L := L.wr (8 * n) 8 (bytesNat (bs.map (·.1)))
    if bs.any (·.2) then { L with poison := L.poison ||| (1#128 <<< n) } else L) L) G.lanes }

/-- A command reissued from its descriptor (21 R372, 22 R374). A fault of a page that its other granules touch is a storage error of the team. -/
def reissue (m : Image) (t : Nat) (T : Team) (i : Nat) (s : State) : State :=
  let d6 := m.desc s i 48 8
  let d7 := m.desc s i 56 8
  let lane := match m.lanes[i]? with
    | some l => if l % 32 = fld d6 37 5 then l else fld d6 37 5
    | none => fld d6 37 5
  let q : CopyReq := { m.copyReq s i with lane, bar := teamBar t T (fld d6 57 6) }
  let num := fld d6 42 6
  let by_ := (teamGangs s t).find? (fun e => e.2.num == num)
  let gang := by_.elim (T.core * 64 + 62) (·.1)
  let b := laneBatch s gang q.lane
  let n := fld d7 32 32
  let w := m.layout s i
  let idx := readIdx s T.core (T.spadBase * 8192) T.scratch q
  let c : Copy := { id := s.nextCmd, core := T.core, team := t, gangNum := num, gang, req := q, layout := BitVec.ofNat 256 w, idx, pages := [],
                    batch := if by_.isNone then n else if n = 0 then b.sealed + 1 else (batchIndex b n).getD 0, requested := fld d6 23 14, landed := List.range (fld d6 23 14) }
  let es := (((List.range c.blocks.length).drop c.requested).flatMap (fun k => (c.granule k).flatMap (fun x =>
    (byteParts c.bits (x % q.rowBytes c.bits)).map (fun p => x / q.rowBytes c.bits * q.w0 + p.1)))).eraseDups
  match touchElems s T.core (m.launch.ctx, true) q w idx es with
  | (s, .inl _) => { s with copies := s.copies ++ [{ c with req := { q with bar := none } }], nextCmd := s.nextCmd + 1 }.before (.teamEnd t 48 0)
  | (s, .inr pages) => { s with copies := s.copies ++ [{ c with pages }], nextCmd := s.nextCmd + 1 }

/-- A team that is to be restored: its number, what its image does not hold, the image, and whether it was saved out (log 30). -/
structure Restoring where
  team : Nat
  body : Team
  img : Image
  known : Bool
  deriving DecidableEq, Repr

/-- The place in a recall window at resident cycle 0 with which `left` of its cycles are to come at resident cycle `n` (21 R368, R370). -/
def windowOff (window left n : Nat) : Nat := (2 * window - left % window - n % window) % window

/-- Step 1 and the memory state of step 2 (21 R370): the team admitted to a core, whose constant cache then holds nothing from before (06 R133), or none
where it does not fit. A further team has cluster barriers of its own, those of its image (log 30). -/
def restoreTeam (s : State) (v : Restoring) (core : Nat) : Option (State × List Nat) :=
  let m := v.img
  let bins := m.bins s v.team
  if bins.length + ((s.core core).bins.filter (·.bound)).length ≤ 16 then
    (allocWith s core m.launch.scratch (fun _ => m.needs s) [m.grant s]).map (fun a =>
      let places := placesOf (m.needs s) a.runs
      let reg := (m.gangSecs s).find? (fun p => m.sec s p.1 0x3F2 1 == 1)
      let T : Team := { v.body with
        core, pos := freePos s core, grant := a.grant, regRuns := a.runs, spadBase := a.spad, bars := m.bars s 0x100 16 true v.body.bars, recs := m.recs s,
        reg := reg.map (fun p => { gang := m.placeOf s places p.1, entry := m.rd s 0x300 8, bound := m.rd s 0x308 8 }),
        recallsTill := s.nextCmd, seq := s.nextCmd, refusals := m.rd s 0x310 8, resid := m.head s 5,
        winOff := windowOff v.body.eff.window (m.rd s 0x318 8) (m.head s 5), pre := .none, image := none, remap := none }
      let s := (List.range m.launch.scratch).foldl (fun (s : State) o =>
        let x := sysByte s (sysCtx m.panel) (m.addr + imageHead (m.nrows s) + o)
        let k := spadKey core (a.spad * 8192 + o)
        let s := s.put k 0xFF x.1
        if x.2 ∧ !s.poison.contains k then { s with poison := s.poison ++ [k] } else s) s
      let c := s.core core
      let s := (s.setCore core { c with bins := placeBins bins c.bins, cc := [] }).setTeam v.team T
      let s := s.updLaunch T.launch (fun L => { L with
          cbars := if holdsCluster T ∨ !v.known then tabSet L.cbars T.cbar (m.bars s 0x200 8 false (tabGet [] L.cbars T.cbar)) else L.cbars
          gbars := if v.known ∧ T.idx = 0 ∧ L.grid then m.bars s 0x280 4 false L.gbars else L.gbars })
      let s := (m.gangSecs s).foldl (fun (s : State) p => s.setGang (m.placeOf s places p.1) (m.gang s v.team T p.1 p.2)) s
      (acquireAction { s with nextCmd := s.nextCmd + 1, saved := s.saved.filter (fun x => x.team != v.team), reserved := s.reserved.filter (fun r => r.team != v.team) } core,
        places))
  else none

/-- Steps 3 to 5 (21 R370): commands are reissued, overflow rows are reached, and the recipes begin. -/
def resumeTeam (s : State) (v : Restoring) (places : List Nat) : State :=
  match s.team? v.team with
  | none => s
  | some T =>
    let m := v.img
    let s := (List.range (m.ncopies s)).foldl (fun s i => reissue m v.team T i s) s
    (m.gangSecs s).foldl (fun (s : State) p =>
      let g := m.placeOf s places p.1
      let s := loadOverflow s g
      let G := s.gang g
      let todo := if m.sec s p.1 0x3F3 1 = 0 then recipesOf s m.launch G else []
      s.setGang g (if todo.isEmpty then G else nextRecipe { G with rebuild := some { a := G.a, todo } })) s

/-- The recipes that an image's flashback-saved gangs need are sound (21 R370). -/
def recipesOk (s : State) (v : Restoring) : Bool :=
  let m := v.img
  (m.gangSecs s).all (fun p => m.sec s p.1 0x3F3 1 != 0 ||
    (recipesOf s m.launch (m.gang s v.team v.body p.1 p.2)).all (fun r => recipeOk s m.launch (m.recs s) r.1))

/-! ## A unit -/

/-- The teams of one cluster restored on the cores that begin at a panel core: one team, or two on a twin. -/
def restoreAt (s : State) (vs : List Restoring) (c : Nat) : Option State :=
  vs.foldl (fun (a : Option State) v => a.bind (fun s =>
    let pc := if v.body.partner.isSome then c / 2 * 2 + v.body.core % 2 else c
    let m := v.img
    if m.pinned s && m.core s != pc then none
    else (panelCoreAt s m.panel pc).bind (fun x => (restoreTeam s v x).map (fun y => resumeTeam y.1 v y.2)))) (some s)

/-- The clusters of a unit restored one after another, each on the least loaded core or twin that fits it, or on one that is named (19 R341, R344). -/
def restoreClusters (fixed : Option (Nat × Nat)) : List (List Restoring) → State → Option State
  | [], s => some s
  | vs :: rest, s =>
    match vs with
    | [] => restoreClusters fixed rest s
    | v :: _ =>
      let panel := v.img.panel
      let load (c : Nat) : Nat := match panelCoreAt s panel c with | some x => launchLoad s v.body.launch x | none => 0
      let all := match fixed with
        | some f => if vs.any (fun w => w.team == f.1) then [f.2] else List.range (2 * nTwinOf (s.panel panel))
        | none => List.range (2 * nTwinOf (s.panel panel))
      let twin := v.body.partner.isSome
      let ok := all.filter (fun c => !(twin && fixed.isNone && c % 2 == 1) && (restoreAt s vs c).isSome)
      match (leastBy (fun c => if twin then load c + load (c + 1) else load c) ok).bind (restoreAt s vs) with
      | some s => restoreClusters fixed rest s
      | none => none

/-- Teams grouped by their clusters. -/
def byCluster (vs : List Restoring) : List (List Restoring) :=
  ((vs.map (fun v => v.body.cluster)).eraseDups).map (fun c => vs.filter (fun v => v.body.cluster == c))

/-- The saved teams of a saved team's unit (21 R364). -/
def savedUnit (s : State) (v : Saved) : List Saved :=
  match s.launch? v.body.launch with
  | none => [v]
  | some L => s.saved.filter (fun u => u.body.launch == v.body.launch && (L.grid || u.team == v.team || v.body.partner == some u.team))

/-- A saved team with its image at an address. -/
def restoringOf (s : State) (v : Saved) (addr : Nat) : Option Restoring :=
  (s.launch? v.body.launch).map (fun L => { team := v.team, body := v.body, img := { panel := v.panel, addr, launch := L, lanes := v.lanes }, known := true })

/-- The totals of stall reasons of a saved team with the counters of its saved gangs, which its image holds (19 R348, 21 R368). -/
def savedStalls (s : State) (u : Saved) : List Nat :=
  match restoringOf s u u.image with
  | none => u.body.stallTot
  | some v => (List.range (min (v.img.gangs s) 32)).foldl (fun l i =>
      (List.range 16).map (fun n => (l[n]?).getD 0 + v.img.sec s i (0x300 + 4 * n) 4)) u.body.stallTot

/-- The unit of a saved team ends because of one of its teams (21 R363): its teams, with no gangs left, are ended where they stood. -/
def endSaved (s : State) (v : Saved) (team cause detail : Nat) : State :=
  let us := savedUnit s v
  let s := us.foldl (fun (s : State) u => s.setTeam u.team { u.body with regRuns := [], pre := .none, stallTot := savedStalls s u }) s
  endUnit { s with saved := s.saved.filter (fun u => us.all (fun x => x.team != u.team)) } team cause detail

/-- The line of an image that is poisoned where it moves no row and no scratchpad byte (27 R419), by its physical address. -/
def Image.lost (m : Image) (s : State) : Option Nat :=
  if s.poison.isEmpty then none
  else ((List.range 0x27000).findSome? (fun i => (sysKey s (sysCtx m.panel) (m.addr + i)).filter s.poisoned)).map (fun k => keyPa (k / 128 * 128))

/-- The outcome of trying to restore a unit: restored, no room, or the team whose image is bad with the cause and the detail of its report. -/
inductive Tried
  | ok (s : State)
  | room
  | bad (team cause detail : Nat)

/-- A unit restored, or why not (21 R370). -/
def tryRestore (s : State) (fixed : Option (Nat × Nat)) (vs : List Restoring) : Tried :=
  match vs.findSome? (fun v => (v.img.lost s).map (fun k => (v.team, k))) with
  | some x => .bad x.1 48 x.2
  | none =>
    match vs.find? (fun v => !(v.img.ok s && recipesOk s v)) with
    | some v => .bad v.team 52 0
    | none =>
      match restoreClusters fixed (byCluster vs) s with
      | some s => .ok ((vs.head?).elim s (fun v => stir s v.img.panel))
      | none => .room

/-- The unit of a saved team that is not firmware's is restored; one whose image is malformed ends (21 R370). -/
def restoreSaved (s : State) (v : Saved) : State :=
  match tryRestore s none ((savedUnit s v).filterMap (fun u => restoringOf s u u.image)) with
  | .ok s => s
  | .room => s
  | .bad t c d => endSaved s v t c d

/-- Its virtual device's slice is on, and its restore would change something. -/
def restoreDue (s : State) (v : Saved) : Bool :=
  !v.byCtx && (tabFind s.slice v.panel).any (fun (x : Nat × Bool × Nat) => x.1 == v.vd && !x.2.1) &&
  match tryRestore s none ((savedUnit s v).filterMap (fun u => restoringOf s u u.image)) with
  | .ok _ | .bad .. => true
  | .room => false

end Machine
end Sys2Proof
end

