-- ==== Sys2Proof/Machine/System.lean ====
section
/-! DEFINITION. The meanings of the system words of group 0xE but for CTXSV and CTXLD, and of their events (18 R309 to R331, 24 R390 to R392). -/

set_option Elab.async false

namespace Sys2Proof
namespace Machine

/-- What the rules of issue know of a system word: system mode, not in a guarded trace or a cast-off routine (18 R309, R310, 11 R243). -/
def sysInfo (hd : Hd) (dsts : List Opnd) (ok : Bool) : WordInfo :=
  { WordInfo.plain hd 0xE [] dsts ok with noGuard := true, noCast := true }

/-! ## TRAPI, IDLE, ERET -/

/-- The next word is the terminator NEXT or JMP (18 R324, R327). -/
def lastBeforeNext (R : Run) : Bool :=
  R.pos + 1 == R.hdr.len &&
  match R.words[R.pos + 1]? with
  | some w => opOf w.toNat == 0x008 || opOf w.toNat == 0x009
  | none => false

/-- TRAPI (18 R309, R324): its lanes leave the passing lanes at resolution. It is illegal in system mode and elsewhere than before NEXT or JMP. -/
def execTrapi (x : TrapiOp) (s : State) : Host.Outcome State Fault Refusal :=
  bodyWord { sysInfo x.hd [] true with group := 0, noHandler := true } (fun s r R m =>
    if isSvc r.gang || !lastBeforeNext R then .trap 1
    else .done (if m = 0 then s else s.setRun r { R with trapi := some (x.code, m) })) s

/-- IDLE (18 R327). -/
def execIdle (x : NopOp) (s : State) : Host.Outcome State Fault Refusal :=
  bodyWord { sysInfo x.hd [] true with svc := true } (fun s r R m =>
    if !lastBeforeNext R then .trap 1
    else .done (if m = 0 then s else s.setRun r { R with idle := true })) s

/-- ERET (18 R325). -/
def execEret (_ : TermOp) (s : State) : Host.Outcome State Fault Refusal :=
  termWord { TermInfo.plain with noGuard := true, noCast := true, hndOnly := true } (fun s _ => (.eret, s)) s

/-! ## Control registers -/

/-- Gang slots of a core with a stopped slot (24 R390), from the cycle after it stopped on (24 R391). -/
def stoppedBits (s : State) (core : Nat) : Nat :=
  bitsOf (fun i => match gangAt s core i with
    | some g => g == core * 64 + i && [(s.gang g).a, (s.gang g).b].any (fun (X : Slot) => X.mask != 0 && X.wait == .stopped && X.hold.all (fun h => h.1 ≤ s.now))
    | none => false) 48

/-- ctl.status of a slot, which runs in system mode (18 R314). -/
def statusWord (s : State) (r : SlotRef) : Nat :=
  gslotOf r.gang * 2 ^ 8 + b2n (isSvc r.gang) * 2 ^ 2 + b2n (s.slot r).hnd.isSome * 2 + 1

/-- The register of a core, slot or gang as CTLR reads it; those gathered from outside the core have no value here (18 R310 to R318, 24
R390). -/
def ctlValue (s : State) (r : SlotRef) (cr : Cr) : Option Nat :=
  let c := s.core (coreOf r.gang)
  match cr with
  | .status => some (statusWord s r)
  | .tcause => some ((s.slot r).hnd.elim 0 (fun (h : Hnd) => tcauseOf h.trap))
  | .tvec => some c.tvec.toNat
  | .tframe => some c.tframe.toNat
  | .sbase => some c.sbase.toNat
  | .slim => some c.slim.toNat
  | .svec => some c.svec.toNat
  | .svcerr => some c.svcerr.toNat
  | .clock => some c.clock.toNat
  | .timer => some (c.miss * 2 ^ 32 + c.period)
  | .govb => some (s.gang r.gang).govb
  | .rflag => none
  | .ready => none
  | .dbg => some c.dbg.toNat
  | .bp0 => some ((c.bps[0]?).getD 0).toNat
  | .bp1 => some ((c.bps[1]?).getD 0).toNat
  | .bp2 => some ((c.bps[2]?).getD 0).toNat
  | .bp3 => some ((c.bps[3]?).getD 0).toNat
  | .dbgobj => some c.dbgobj.toNat
  | .stopped => some (stoppedBits s (coreOf r.gang))
  | .resume => some 0

/-- ctl.ready as a core reads it (18 R317, 23 R377). -/
def readyWord (s : State) (core : Nat) : Nat :=
  let p := panelCore s core
  let groups := (List.range 12).filter (fun i => bit (fld (descWord (s.panel p.1) 0) 40 12) i)
  b2n s.ready.mgmt + b2n s.ready.cxl * 2 + s.ready.purl.toNat * 2 ^ 2
    + bitsOf (fun n => match groups[n]? with | some i => s.ready.lpg.getLsbD i | none => false) 12 * 2 ^ 14
    + bitsOf (fun i => s.ready.vlayers.getLsbD (4 * (core / 2) + i)) 4 * 2 ^ 26
    + b2n (s.ready.twins.getLsbD (core / 2)) * 2 ^ 30

/-- CTLR (18 R312): a value from outside the core holds the slot until it arrives (27 R422). -/
def execCtlr (x : CtlrOp) (s : State) : Host.Outcome State Fault Refusal :=
  bodyWord (sysInfo x.hd [x.d] (addrW x.d)) (fun s r R m =>
    if m = 0 then .done s
    else
      match ctlValue s r x.cr with
      | some v => .done (fixedEff s r R m (fun _ _ => [wrTo x.d v]))
      | none => .hold (match x.cr with
          | .ready => (returnsBy s r 480).setWait r (.outside (.ready x.d) m)
          | _ => (returnsBy s r (sweepCycles s (coreOf r.gang))).setWait r (.outside (.rflag x.d) m))) s

/-- A register of a core with a value written to its fields; a value that breaks a constraint is none (18 R313, R315, R333, 24 R390). -/
def ctlPut (c : Core) (cr : Cr) (v : Nat) : Option Core :=
  let a := fld v 0 56
  let addr (n : Nat) (f : Word64 → Core) : Option Core := if a % n = 0 then some (f (BitVec.ofNat 64 a)) else none
  let bp (i : Nat) : Option Core := some { c with bps := listSet c.bps i (BitVec.ofNat 64 (fld v 63 1 * 2 ^ 63 + fld v 0 20)) }
  match cr with
  | .tvec => addr 512 (fun a => { c with tvec := a })
  | .tframe => addr 0x10000 (fun a => { c with tframe := a })
  | .sbase => addr 8 (fun a => { c with sbase := a })
  | .slim => addr 8 (fun a => { c with slim := a })
  | .svec => addr 8 (fun a => { c with svec := a })
  | .svcerr => some { c with svcerr := BitVec.ofNat 64 (fld v 37 27 * 2 ^ 37 + fld v 0 6) }
  | .clock => some { c with clock := BitVec.ofNat 64 v }
  | .dbg => some { c with dbg := BitVec.ofNat 64 (fld v 8 5 * 2 ^ 8 + fld v 0 2) }
  | .bp0 => bp 0
  | .bp1 => bp 1
  | .bp2 => bp 2
  | .bp3 => bp 3
  | .dbgobj => some { c with dbgobj := BitVec.ofNat 64 a }
  | .status | .tcause | .timer | .govb | .rflag | .ready | .stopped | .resume => some c

/-- The earlier accesses of a gang performed with respect to its core (18 R313). -/
def flushGang (s : State) (g : Nat) : State := flushReds s (fun d => d.gang == g)

/-- CTLW (18 R313): once for the gang. -/
def execCtlw (x : CtlwOp) (s : State) : Host.Outcome State Fault Refusal :=
  bodyWord (sysInfo x.hd [] true) (fun s r _ m =>
    if m = 0 then .done s
    else
      match ctlPut (s.core (coreOf r.gang)) x.cr (kreg s r x.k) with
      | none => .trap 2
      | some _ =>
        let s := flushGang s r.gang
        .done (match ctlPut (s.core (coreOf r.gang)) x.cr (kreg s r x.k) with
          | some c => s.setCore (coreOf r.gang) c
          | none => s)) s

/-- TIMER_WRITE (18 R316): the down-counter is loaded so that the cycle after the write is the first of PERIOD. -/
def execTimerWrite (x : KOp) (s : State) : Host.Outcome State Fault Refusal :=
  bodyWord (sysInfo x.hd [] true) (fun s r _ m =>
    if m = 0 then .done s
    else
      let s := flushGang s r.gang
      let v := kreg s r x.k
      let p := fld v 0 24
      .done (s.setCore (coreOf r.gang)
        { s.core (coreOf r.gang) with miss := fld v 32 24, period := p, count := if p = 0 then 0 else p + 1 })) s

/-- RFLAG_CLEAR (18 R318): the slot waits until every place has cleared the bits. -/
def execRflagClear (x : KOp) (s : State) : Host.Outcome State Fault Refusal :=
  bodyWord (sysInfo x.hd [] true) (fun s r _ m =>
    if m = 0 then .done s else 
      .hold ((returnsBy (flushGang s r.gang) r (sweepCycles s (coreOf r.gang))).setWait r (.outside (.rclear (kreg s r x.k)) m))) s

/-- A stopped slot released (24 R392). -/
def release1 (X : Slot) : Slot := if X.mask ≠ 0 ∧ X.wait = .stopped then { X with wait := .none, resumed := true } else X

/-- RESUME_WRITE (24 R392). -/
def execResumeWrite (x : KOp) (s : State) : Host.Outcome State Fault Refusal :=
  bodyWord (sysInfo x.hd [] true) (fun s r _ m =>
    if m = 0 then .done s
    else
      let s := flushGang s r.gang
      let v := kreg s r x.k
      let core := coreOf r.gang
      .done { s with gangs := s.gangs.map (fun e =>
        if coreOf e.1 = core ∧ gslotOf e.1 < 48 ∧ bit v (gslotOf e.1) then (e.1, { e.2 with a := release1 e.2.a, b := release1 e.2.b }) else e) }) s

/-! ## Invalidation -/

/-- Virtual devices of the panel of a core (23 R376). -/
def nvdOf (s : State) (core : Nat) : Nat := fld (descWord (s.panel (panelCore s core).1) 0) 32 5

/-- TLBI (18 R329): once for the gang; it does not wait. -/
def execTlbi (x : InvOp) (s : State) : Host.Outcome State Fault Refusal :=
  bodyWord (sysInfo x.hd [] true) (fun s r _ m =>
    if m = 0 then .done s
    else
      let v := kreg s r x.k
      if fld v 56 4 ≠ 0 ∨ (x.all ∧ fld v 0 56 ≠ 0) ∨ nvdOf s (coreOf r.gang) ≤ fld v 60 4 then .trap 2
      else
        let G := s.gang r.gang
        let q : TlbiReq := { panel := (panelCore s (coreOf r.gang)).1, vd := fld v 60 4, va := if x.all then none else some (fld v 0 56), waits := none }
        .done (s.setGang r.gang { G with tlbi := G.tlbi ++ [q] })) s

/-- The numbers of the guarded traces, reductions and copies of a context that are under way (18 R329). -/
def inFlight (s : State) (ctx : Nat) : List Nat :=
  let ofTeam (t : Nat) : Bool := match (s.team? t).bind (fun T => s.launch? T.launch) with
    | some L => ctxId L.panel L.vd == ctx
    | none => false
  (allSlots s).filterMap (fun r => match (s.slot r).run with
    | some R => if R.hdr.guarded ∧ (gangCtx s r).1 = ctx then some R.born else none
    | none => none)
  ++ (s.reds.filter (fun d => d.ctx == ctx)).map (·.id)
  ++ (s.copies.filter (fun c => ofTeam c.team)).map (·.id)

/-- A TLBI goes on (18 R329): its entries are dropped on every core; it is complete once the traces, reductions and copies that may have
used them are done and the stores made through them are at their places. -/
def tlbiStep (s : State) (q : TlbiReq) : State × Option TlbiReq :=
  let ctx := ctxId q.panel q.vd
  let x := match q.waits with
    | some w => (s, w)
    | none => (dropTlb s ctx q.va, inFlight s ctx)
  let w := x.2.filter (fun n => (inFlight x.1 ctx).contains n)
  if w.isEmpty then (performStores x.1 q.panel, none) else (x.1, some { q with waits := some w })

/-- A TLBI of the gang can go on. -/
def tlbiDue (s : State) (g : Nat) : Bool :=
  (s.gang g).tlbi.any (fun (q : TlbiReq) => match q.waits with
    | none => true
    | some w => w.any (fun n => !(inFlight s (ctxId q.panel q.vd)).contains n))

/-- TLBI_COMPLETION (18 R329): TLBSYNCs of the gang are released once none is left. -/
def execTlbiCompletion (gang : Nat) (s : State) : Host.Outcome State Fault Refusal :=
  let x := (s.gang gang).tlbi.foldl (fun (a : State × List TlbiReq) q =>
    let y := tlbiStep a.1 q
    (y.1, a.2 ++ y.2.toList)) (s, [])
  let s := x.1.setGang gang { x.1.gang gang with tlbi := x.2 }
  .next (if x.2.isEmpty then
      [false, true].foldl (fun s b =>
        let r : SlotRef := { gang, b }
        let X := s.slot r
        if X.mask ≠ 0 ∧ X.wait = .tlbsync then pastWord s r else s) s
    else s)

/-- TLBSYNC (18 R329). -/
def execTlbsync (x : NopOp) (s : State) : Host.Outcome State Fault Refusal :=
  bodyWord (sysInfo x.hd [] true) (fun s r _ m =>
    if m = 0 ∨ (s.gang r.gang).tlbi.isEmpty then .done s else .hold (s.setWait r .tlbsync)) s

/-- ICINV (18 R330): a release at .d, then the slot waits until every core has acted. -/
def execIcinv (x : InvOp) (s : State) : Host.Outcome State Fault Refusal :=
  bodyWord (sysInfo x.hd [] true) (fun s r _ m =>
    if m = 0 then .done s
    else
      let v := kreg s r x.k
      if x.all ∧ v ≠ 0 then .trap 2
      else if releaseHeld s r.gang m .d then .wait .unready
      else
        let s := (releaseLanes s r.gang m .d).1
        .hold (s.setWait r (.outside (.icinv (if x.all then none else some (fld v 60 4, fld v 0 56 / 4096))) m))) s

/-- Traces of a panel's trace caches that hold bytes of a page of a virtual device dropped, or all of them (18 R330). -/
def dropTraces (s : State) (panel : Nat) (page : Option (Nat × Nat)) : State :=
  let gone (e : TraceE) : Bool := match page with
    | none => true
    | some (vd, p) => e.ctx == ctxId panel vd && e.va / 4096 ≤ p && p ≤ (e.va + 8 * e.words.length - 1) / 4096
  { s with cores := s.cores.map (fun e =>
      if (panelCore s e.1).1 = panel then (e.1, { e.2 with traces := e.2.traces.filter (fun x => !gone x) }) else e) }

/-! ## Samples, meters, values from outside -/

/-- SAMPLE (18 R328). -/
def execSample (x : DkOp) (s : State) : Host.Outcome State Fault Refusal :=
  bodyWord { sysInfo x.hd [x.d] (wIs 16 x.d) with svc := true } (fun s r R m =>
    if m = 0 then .done s
    else
      let k := kreg s r x.k
      .done (fixedEff s r R m (fun _ _ => [wrTo x.d (if k < 48 then ((s.core (coreOf r.gang)).snap[k]?).getD 0 else 0)]))) s

/-- METERR (18 R331). -/
def execMeterr (x : MeterrOp) (s : State) : Host.Outcome State Fault Refusal :=
  bodyWord (sysInfo x.hd [x.d] (wIs 16 x.d)) (fun s r _ m =>
    if m = 0 then .done s else .hold (s.setWait r (.outside (.meter x.d (kreg s r x.k) x.n) m))) s

/-- Meter `n` of the region control block at an address of a core's panel (18 R331); the spec gives no value for a block whose identity has
been unregistered (log 2). -/
def readMeter (s : State) (core addr n : Nat) : State × Nat :=
  match findRcb s (panelCore s core).1 addr with
  | none => (s, 2 ^ 64 - 1)
  | some b =>
    match tabFind s.meters (effRcb s b).meter with
    | some l => (s, (l[n]?).getD 0)
    | none => ((s.openVal 64).2, (s.openVal 64).1)

/-- OUTSIDE_VALUE_ARRIVAL (18 R310, R312, R332): once its cycle has come, the value is written, or the action is complete, and the slot goes on. -/
def execOutsideValueArrival (r : SlotRef) (s : State) : Host.Outcome State Fault Refusal :=
  match (s.slot r).wait, (s.slot r).run with
  | .outside v m, some R =>
    let core := coreOf r.gang
    let put (s : State) (d : Opnd) (x : Nat) : State := fixedEff s r R m (fun _ _ => [wrTo d x])
    if s.now < R.back then .next s
    else
    let s := match v with
      | .ready d => put s d (readyWord s core)
      | .rflag d => put s d (tabGet 0 s.rflags (gangDom s r.gang)).toNat
      | .rclear x => { s with rflags := tabSet s.rflags (gangDom s r.gang) (tabGet 0 s.rflags (gangDom s r.gang) &&& ~~~(BitVec.ofNat 32 x)) }
      | .meter d addr n => put (readMeter s core addr n).1 d (readMeter s core addr n).2
      | .icinv page => dropTraces s (panelCore s core).1 page
    .next (pastWord s r)
  | .loading ts _ _, _ => .next (if recipesRun s ts then s else loadReply s r 0)
  | _, _ => .next s

/-! ## The timer -/

/-- The ordinal of the header at an entry (18 R328), where one can be fetched. -/
def headerOrd (s : State) (r : SlotRef) (va : Nat) : Nat :=
  match fetchTrace (s.setSlot r { s.slot r with entry := va, run := none }) r with
  | (_, .inr (h, _)) => h.ord
  | (_, .inl _) => noOrd

/-- A service gang's slot goes on after IDLE; at the first time, and after a double trap, its continuation is what ctl.svec holds (18 R323, R326,
R327). -/
def wakeService (s : State) (r : SlotRef) : State :=
  let X := s.slot r
  resume (if X.stamp = 0 then s.setSlot r { X with entry := (s.core (coreOf r.gang)).svec.toNat } else s) r

/-- TIMER_EXPIRY (18 R327): a service gang that waits gets the snapshot of the expiry cycle and starts; one that does not adds to MISS. -/
def execTimerExpiry (core : Nat) (s : State) : Host.Outcome State Fault Refusal :=
  let c := s.core core
  match c.expired with
  | none => .next s
  | some ws =>
    let g := 64 * core + Config.serviceSlot
    let idle (b : Bool) : Bool := ((s.gang g).slot b).mask != 0 && ((s.gang g).slot b).wait == .idle
    if idle false || idle true then
      let snap := ws.map (fun w => w.1 + (match w.2 with | some (r, va) => headerOrd s r va * 2 ^ 30 | none => 0))
      let s := s.setCore core { c with expired := none, snap }
      .next ([false, true].foldl (fun s b => if idle b then wakeService s { gang := g, b } else s) s)
    else .next (s.setCore core { c with expired := none, miss := min (c.miss + 1) (2 ^ 24 - 1) })

/-! ## Traces -/

/-- LONG_LATENCY_LANDING (03 R64). -/
def execLongLatencyLanding (r : SlotRef) (s : State) : Host.Outcome State Fault Refusal := .next (landGroup s r)

/-- TRACE_RESOLUTION (04 R88). -/
def execTraceResolution (r : SlotRef) (s : State) : Host.Outcome State Fault Refusal := .next (resolve s r)

/-- UNDO_PAIR_ACQUIRE (04 R83). -/
def execUndoPairAcquire (r : SlotRef) (s : State) : Host.Outcome State Fault Refusal := .next (acquirePair s r)

/-- TRAP_DELIVERY (18 R319). -/
def execTrapDelivery (r : SlotRef) (s : State) : Host.Outcome State Fault Refusal := .next (deliverTrap s r)

/-- FORCED_QUEUE_JOIN (19 R346). -/
def execForcedQueueJoin (gang : Nat) (s : State) : Host.Outcome State Fault Refusal :=
  let core := coreOf gang
  let c := s.core core
  if Config.starveLimit ≤ (s.gang gang).starve ∧ !c.forced.contains gang then .next (s.setCore core { c with forced := c.forced ++ [gang] })
  else .next s

/-- TRANSLATION_WALK (20 R354, R355): a miss is walked, and the translation cached. -/
def execTranslationWalk (core vd va : Nat) (acc : Acc) (user : Bool) (s : State) : Host.Outcome State Fault Refusal :=
  .next (translate s core (ctxId (panelCore s core).1 vd) va acc user none).1

end Machine
end Sys2Proof
end

