-- ==== Sys2Proof/Machine/Preempt.lean ====
section
/-! DEFINITION. The meanings of CTXSV and CTXLD and of the events of pre-emption, slices and the deadlock walk (18 R332, 21 R364 to R373, 23 R381,
R382). -/

set_option Elab.async false

namespace Sys2Proof
namespace Machine

/-! ## CTXSV and CTXLD -/

/-- The team at a position of a core (18 R332). -/
def teamAt (s : State) (core pos : Nat) : Option Nat :=
  (s.teams.find? (fun e => e.2.core == core && e.2.pos == pos && e.2.ended.isNone)).map (·.1)

/-- The image that CTXSV names for a team of a unit, unless the unit's save has begun to write (18 R332, log 31). -/
def nameImage (s : State) (t a : Nat) : State :=
  match s.team? t with
  | none => s
  | some T =>
    if T.pre = .save ∧ T.remap.isSome then s
    else { s with reserved := s.reserved.filter (fun r => r.team != t) }.setTeam t { T with image := some a }

/-- The operands of CTXSV and CTXLD are legal (18 R332). -/
def ctxOk (a p : Nat) (load : Bool) : Bool :=
  fld a 56 8 == 0 && a % 4096 == 0 && fld p 4 60 == 0 && (!load || p == 0)

/-- CTXSV (18 R332): the save of the unit of the team at a position begins, and the word holds its slot until the team has left. The status is
visible to the next word (03 R63). A unit for whose other teams the save area has no room is not saved, with status 2 (DESIGN CHOICE, log 31: 23 R382
speaks only of saves that CTXSV has not made). -/
def execCtxsv (x : DkOp) (s : State) : Host.Outcome State Fault Refusal :=
  bodyWord { sysInfo x.hd [x.d] (wIs 8 x.d && x.k % 2 == 0) with svc := true } (fun s r R m =>
    if m = 0 then .done s
    else
      let a := kreg s r x.k
      let p := kreg s r (x.k + 1)
      let core := coreOf r.gang
      let ret (v : Nat) : Eff := .done (fixedEff s r R m (fun _ _ => [wrTo x.d v]))
      if !ctxOk a p false then .trap 2
      else
        match teamAt s core p with
        | none => ret 1
        | some t =>
          match s.team? t with
          | none => ret 1
          | some T =>
            if (badPage s (panelCore s core).1 a (largestImage s t T) .write).isSome then ret 4
            else
              let s' := (nameImage s t a).setWait r (.saving t x.d m)
              if T.pre = .save then .hold s'
              else
                match reserveAll (unitOf s' t) s' with
                | none => ret 2
                | some _ => .hold (beginSave s' t)) s

/-- The launch of a panel whose parameter block stands at an address, under way or over. -/
def launchAt (s : State) (panel addr : Nat) : Option (Nat × Launch) :=
  (s.launches ++ s.past).find? (fun e => e.2.panel == panel && e.2.blockAddr == addr)

/-- What CTXLD is to restore from an image: the saved team of the image's launch and index, or a further team of the launch, in a cluster of its own (18 R332, log 30). -/
def loadedTeam (s : State) (panel a core : Nat) : Option Restoring :=
  let d (i : Nat) : Nat := bytesNat ((List.range 8).map (fun k => (sysByte s (sysCtx panel) (a + 8 * i + k)).1))
  let known := s.saved.find? (fun v => v.panel == panel && v.body.idx == d 2 && (s.launch? v.body.launch).any (fun L => L.blockAddr == d 1))
  match known with
  | some v => restoringOf s v a
  | none => do
    let (lid, L) ← launchAt s panel (d 1)
    let b ← findRcb s panel L.rcb
    let T := startTeam s L lid (d 2) core { runs := [], grant := 0, spad := 0 } none (effRcb s b)
    some { team := s.nextTeam, body := { T with idx := d 2, cbar := L.teams + s.nextTeam }, img := { panel, addr := a, launch := L, lanes := [] }, known := false }

/-- The resident teams of a panel. -/
def residents (s : State) (panel : Nat) : List Nat :=
  (s.teams.filter (fun e => (s.launch? e.2.launch).any (fun L => L.panel == panel))).map (·.1)

/-- The virtual device of the resident teams of a panel, which are all of one (23 R381). -/
def residentVd (s : State) (panel : Nat) : Option Nat :=
  ((residents s panel).head?).bind (fun t => (s.team? t).bind (fun T => (s.launch? T.launch).map (·.vd)))

/-- The slice of a panel lets a virtual device have resident teams, or none has begun and no other has any (23 R381). -/
def sliceOpen (s : State) (panel vd : Nat) : Bool :=
  match tabFind s.slice panel with
  | some (v, ended, _) => v == vd && !ended
  | none => (residentVd s panel).all (· == vd)

/-- A team to be loaded, as it is saved. -/
def loadedOf (s : State) (v : Restoring) : Loaded :=
  let u := s.saved.find? (fun u => u.team == v.team)
  { team := v.team, known := v.known, image := u.elim v.img.addr (·.image), byCtx := u.elim true (·.byCtx), lanes := u.elim [] (·.lanes),
    room := (s.reserved.find? (fun x => x.team == v.team)).map (fun x => (x.base, x.len)) }

/-- The launch of a further team is under way again, where it was over (18 R332). -/
def reopen (s : State) (v : Restoring) : State :=
  match s.launch? v.body.launch with
  | some _ => s
  | none => { s.setLaunch v.body.launch v.img.launch with past := tabDel s.past v.body.launch }

/-- The status of a CTXLD, the state, and the teams that are loaded (18 R332, 21 R364): the other saved teams of the unit are restored with the
named one. A team whose virtual device is out of its slice finds no resources (DEDUCED, log 30: 23 R381 lets it have no resident team), and neither does
a team of a twin cluster on a core of the other parity than its own (DESIGN CHOICE, log 30); an image with poison that moves no row and no scratchpad byte
is an image address that faulted (DESIGN CHOICE, log 30: the spec gives no status for either). -/
def loadImage (s : State) (core a : Nat) : State × Nat × List Loaded :=
  let pc := panelCore s core
  if (badPage s pc.1 a 0x27000 .read).isSome then (s, 4, [])
  else
    match loadedTeam s pc.1 a core with
    | none => (s, 3, [])
    | some v =>
      if (badPage s pc.1 a (fld (v.img.head s 0) 0 32) .read).isSome then (s, 4, [])
      else if !sliceOpen s pc.1 v.img.launch.vd then (s, 2, [])
      else if v.body.partner.isSome ∧ v.body.core % 2 ≠ core % 2 then (s, 2, [])
      else
        let others := if v.known then
            ((s.saved.find? (fun u => u.team == v.team)).elim [] (savedUnit s)).filter (fun u => u.team != v.team)
          else []
        let vs := v :: others.filterMap (fun u => restoringOf s u u.image)
        match tryRestore (reopen s v) (some (v.team, pc.2)) vs with
        | .ok s' => (if v.known then s' else { s' with nextTeam := s.nextTeam + 1 }, 0, vs.map (loadedOf s))
        | .room => (s, 2, [])
        | .bad _ c _ => (s, if c = 48 then 4 else 3, [])

/-- CTXLD (18 R332): the word holds its slot until the recipes of the restored gangs have run (21 R370). The status is visible to the next word (03
R63). -/
def execCtxld (x : DkOp) (s : State) : Host.Outcome State Fault Refusal :=
  bodyWord { sysInfo x.hd [x.d] (wIs 8 x.d && x.k % 2 == 0) with svc := true } (fun s r _ m =>
    if m = 0 then .done s
    else
      let a := kreg s r x.k
      if !ctxOk a (kreg s r (x.k + 1)) true then .trap 2
      else
        let y := loadImage s (coreOf r.gang) a
        if recipesRun y.1 y.2.2 then .hold (y.1.setWait r (.loading y.2.2 x.d m))
        else
          match (y.1.slot r).run with
          | some R => .done (fixedEff y.1 r R m (fun _ _ => [wrTo x.d y.2.1]))
          | none => .done y.1) s

/-! ## Requests and methods -/

/-- PREEMPTION_REQUEST (21 R364, R366): the method is chosen once for the unit; CTXSV turns any into a save, and a slice end turns a drain into
one. -/
def execPreemptionRequest (team : Nat) (src : PreSrc) (s : State) : Host.Outcome State Fault Refusal :=
  match s.team? team with
  | none => .next s
  | some T =>
    if T.ended.isSome then .next s
    else
      let unit := unitOf s team
      match T.pre, src with
      | .none, .ctxsv => .next (beginSave s team)
      | .drain _, .ctxsv | .flush, .ctxsv | .noRoom, .ctxsv => .next (beginSave s team)
      | .drain _, .slice => .next (beginSave s team)
      | .none, .slice | .none, .privileged =>
        (match chooseMethod s unit (allowance s T) with
         | .drain => .next (setPre s unit (.drain s.now))
         | .flush => .next (stopUnit s unit .flush)
         | .save => .next (beginSave s team))
      | .drain _, .privileged => .next s
      | .flush, .slice | .flush, .privileged | .noRoom, .slice | .noRoom, .privileged => .next s
      | .save, _ => .next s

/-- The allowance of a drain has passed (21 R366). -/
def drainOver (s : State) (team : Nat) : Bool :=
  match s.team? team with
  | none => false
  | some T => T.ended.isNone && match T.pre with
    | .drain since => decide (allowance s T ≤ s.now - since)
    | .none | .flush | .save | .noRoom => false

/-- DRAIN_ALLOWANCE_EXPIRY (21 R366): a unit that has drained for A cycles is saved. -/
def execDrainAllowanceExpiry (team : Nat) (s : State) : Host.Outcome State Fault Refusal :=
  .next (if drainOver s team then beginSave s team else s)

/-- A unit that is to be flushed has stopped, and its commands have completed (21 R366). -/
def flushDue (s : State) (team : Nat) : Bool :=
  let unit := unitOf s team
  unit.all (fun t => match s.team? t with
    | some T => T.pre == .flush && T.ended.isNone && teamStopped s t
    | none => false)
  && s.copies.all (fun c => !unit.contains c.team) && s.mats.all (fun c => !unit.contains c.team)

/-- A team discarded and its walk position placed back, its launch in its place among those of its queue (21 R366, 19 R337, R339). -/
def discard (s : State) (t : Nat) : State :=
  match s.team? t with
  | none => s
  | some T =>
    match s.launch? T.launch with
    | none => s
    | some L =>
      let s := releaseTiles (revokeLoans (closeMeters (settleQueue s T) t) t) t
      let p := T.cluster * L.twinTeams + (if L.twin then T.core % 2 else 0)
      let s := dropTeam s t
      let s := s.updLaunch T.launch (fun L => { L with
        again := (L.again.filter (· < p)) ++ p :: L.again.filter (p < ·), dispatched := L.dispatched - 1,
        gbars := if L.grid then L.gbars.map (fun b => Barrier.init b.expmem) else L.gbars })
      let s := match findQueue s L.panel L.rcb L.queue with
        | some q => setQueue s { q with launches := q.launches.filter (· < T.launch) ++ T.launch :: q.launches.filter (T.launch < ·) }
        | none => s
      spawnRetry (ctxReply s t 1) T.core

/-- FLUSH_AND_RESTART (21 R366). -/
def execFlushAndRestart (team : Nat) (s : State) : Host.Outcome State Fault Refusal :=
  .next (if flushDue s team then (unitOf s team).foldl discard s else s)

/-- The save of a team's unit can take a step, or room for it has appeared (21 R367, 23 R382). -/
def saveDue (s : State) (team : Nat) : Bool :=
  match s.team? team with
  | none => false
  | some T => T.ended.isNone && match T.pre with
    | .save => (saveStep s (unitOf s team)).isSome
    | .noRoom => (reserveAll (unitOf s team) s).isSome
    | .none | .drain _ | .flush => false

/-- SAVE (21 R367): the next step of the save of a team's unit. -/
def execSave (team : Nat) (s : State) : Host.Outcome State Fault Refusal :=
  match s.team? team with
  | none => .next s
  | some T =>
    match T.pre with
    | .save => .next (saveUnit s team)
    | .noRoom => .next (if (reserveAll (unitOf s team) s).isSome then beginSave s team else s)
    | .none | .drain _ | .flush => .next s

/-- RESTORE (21 R370): the unit of the team whose image stands at an address is restored in its virtual device's slice. -/
def execRestore (image : Nat) (s : State) : Host.Outcome State Fault Refusal :=
  match s.saved.find? (fun v => v.image == image && restoreDue s v) with
  | some v => .next (restoreSaved s v)
  | none => .next s

/-! ## Slices -/

/-- A virtual device of a panel is runnable (23 R379). -/
def runnable (s : State) (panel v : Nat) : Bool :=
  bit (descWord (s.vd panel v) 0) 63 &&
  (s.queues.any (fun q => q.panel == panel && !q.launches.isEmpty && vdOfRcb s panel q.rcb == some v)
   || s.saved.any (fun u => u.panel == panel && u.vd == v))

/-- The runnable virtual device that comes after `v` in ascending order, wrapping round (23 R381). -/
def nextVd (s : State) (panel v : Nat) : Option Nat := ((List.range 16).map (fun i => (v + 1 + i) % 16)).find? (runnable s panel)

/-- SLICE management cycles, each of two core cycles, have passed in a panel's slice (23 R381). -/
def sliceOver (s : State) (panel : Nat) : Bool :=
  match tabFind s.slice panel with
  | some (v, ended, since) =>
    let n := fld (descWord (s.vd panel v) 1) 32 32
    !ended && n != 0 && 2 * n ≤ s.mclock - since
  | none => false

/-- The saved units of a virtual device whose slice begins are restored in it, those too that CTXSV has saved in an earlier one (23 R381; log 31). -/
def sliceBegins (s : State) (panel v : Nat) : State :=
  { s with slice := tabSet s.slice panel (v, false, s.mclock), quiet := tabDel s.quiet panel,
           saved := s.saved.map (fun u => if u.panel = panel ∧ u.vd = v then { u with byCtx := false } else u) }

/-- One team of each resident unit of a panel. -/
def unitLeaders (s : State) (panel : Nat) : List Nat := (residents s panel).filter (fun t => (unitOf s t).all (fun u => t ≤ u))

/-- SLICE_END (23 R381): every resident unit is asked to stop once SLICE has passed; where no other virtual device is runnable the slice begins
again. A slice with nothing resident and nothing runnable is over. -/
def execSliceEnd (panel : Nat) (s : State) : Host.Outcome State Fault Refusal :=
  match tabFind s.slice panel with
  | none => .next s
  | some (v, ended, _) =>
    let other := (List.range 16).any (fun w => w != v && runnable s panel w)
    let idle : Bool := (residents s panel).isEmpty && !runnable s panel v
    if ended || !(sliceOver s panel || idle) then .next s
    else if !(other || idle) then .next (sliceBegins s panel v)
    else
      let s := { s with slice := tabSet s.slice panel (v, true, s.mclock) }
      .next { s with agenda := (unitLeaders s panel).map (fun t => Agendum.event (.preemptionRequest t .slice)) ++ s.agenda }

/-- The slice of a panel can go to a virtual device (23 R381). The first goes to that whose teams CTXLD has made resident before it (DESIGN CHOICE, log
30). -/
def sliceFree (s : State) (panel : Nat) : Option Nat :=
  match tabFind s.slice panel with
  | none => (residentVd s panel).or (nextVd s panel 15)
  | some (v, ended, _) => if ended && (residents s panel).isEmpty then nextVd s panel v else none

/-- SLICE_START (23 R381). -/
def execSliceStart (panel : Nat) (s : State) : Host.Outcome State Fault Refusal :=
  match sliceFree s panel with
  | some v => .next (sliceBegins s panel v)
  | none => .next s

/-- A slice that ends early (23 R381). -/
def sliceIdle (s : State) (panel : Nat) : Bool :=
  match tabFind s.slice panel with
  | some (v, ended, _) => !ended && (residents s panel).isEmpty && !runnable s panel v
  | none => false

/-! ## The deadlock walk -/

/-- Gangs that own a barrier. -/
def barGangs (s : State) (b : BarId) : List Nat :=
  (s.gangs.filter (fun e => match e.2.team.bind s.team?, e.2.team with
    | some T, some t => (match b with
      | .team u _ => t == u
      | .cluster c _ => clusterId T.launch T.cbar == c
      | .grid l _ => T.launch == l)
    | _, _ => false)).map (·.1)

/-- The gangs that could end a slot's wait (21 R373): those of a barrier that have not arrived in its phase, or those of the team that holds a tile; of a
tile whose routine runs, the registrant gang. None where something else can. An entry of CLAIM.nb holds no gang up: its team is in a cycle only where
its gangs are (DEDUCED, log 68). -/
def signallers (s : State) (r : SlotRef) : Option (List Nat) :=
  match (s.slot r).wait with
  | .barrier b ph _ =>
    (match barGet s b with
     | some x => if x.phase != ph || commandsName s b then none
       else some ((barGangs s b).filter (fun g => !x.came.contains (arriver s g)))
     | none => none)
  | .claim t _ _ =>
    (match (s.tile t).holder with
     | none => none
     | some h =>
       if (s.tile t).passing.isSome || (s.team? h).isNone then none
       else if (s.tile t).rcall = .run then (registered s h).map (fun q => [q.gang])
       else if s.copies.any (fun c => c.team == h) || s.mats.any (fun c => c.team == h)
           || s.cores.any (fun e => e.2.bins.any (fun b => b.bound && b.team == h)) then none
       else some ((teamGangs s h).map (·.1)))
  | _ => none

/-- The slots of a gang that wait for others, where every slot that holds lanes does or is parked on a join. -/
def blockedSlots (s : State) (g : Nat) : Option (List SlotRef) :=
  let rs := ([false, true].map (fun b => ({ gang := g, b } : SlotRef))).filter (fun r => (s.slot r).mask != 0)
  let ws := rs.filter (fun r => (s.slot r).wait != .join)
  if ws.isEmpty || ws.any (fun r => (signallers s r).isNone) then none else some ws

/-- Gangs left when those that wait for a gang outside are taken away, and those for which none waits. -/
def stuckLoop (s : State) : Nat → List Nat → List Nat
  | 0, gs => gs
  | n + 1, gs =>
    let ok (g : Nat) : Bool := match blockedSlots s g with
      | some ws => ws.all (fun r => ((signallers s r).getD []).all gs.contains)
          && gs.any (fun h => ((blockedSlots s h).getD []).any (fun r => ((signallers s r).getD []).contains g))
      | none => false
    let gs' := gs.filter ok
    if gs'.length = gs.length then gs else stuckLoop s n gs'

/-- The gangs in cycles of waits among some gangs (21 R373). -/
def stuck (s : State) (gs : List Nat) : List Nat := stuckLoop s gs.length gs

/-- The gangs reached from some by waits. -/
def reach (s : State) : Nat → List Nat → List Nat
  | 0, gs => gs
  | n + 1, gs =>
    let more := (gs.flatMap (fun g => ((blockedSlots s g).getD []).flatMap (fun r => (signallers s r).getD []))).filter (fun g => !gs.contains g)
    if more.isEmpty then gs else reach s n (gs ++ more.eraseDups)

/-- Blocked slots with the order of their last issue. -/
def agentsOf (s : State) (gs : List Nat) : List (SlotRef × Nat) :=
  gs.flatMap (fun g => ((blockedSlots s g).getD []).map (fun r => (r, (s.slot r).stamp)))

/-- The teams of some gangs, each once. -/
def teamsOf (s : State) (gs : List Nat) : List Nat := (gs.filterMap (fun g => (s.gang g).team)).eraseDups

/-- The team that the walker chooses: the lowest priority, and of those the one whose unit was admitted last (21 R373). -/
def victim (s : State) (ts : List Nat) : Option Nat :=
  let last (t : Nat) : Nat := ((unitOf s t).map (fun u => (s.team? u).elim 0 (·.seq))).foldl max 0
  leastBy (fun t => (s.team? t).elim 0 (fun T => T.eff.prio * 2 ^ 64 + (2 ^ 64 - 1 - last t))) ts

/-- DEADLOCK_WALK (21 R373): a cycle that the last walk found too, with no arrival in between, is broken. -/
def execDeadlockWalk (panel : Nat) (s : State) : Host.Outcome State Fault Refusal :=
  let all := (s.gangs.filter (fun e => e.2.team.any (residents s panel).contains)).map (·.1)
  let now := stuck s all
  let before := tabGet [] s.deadPrev panel
  let twice := stuck s (now.filter (fun g => (agentsOf s [g]).all before.contains))
  let s := { s with deadPrev := tabSet s.deadPrev panel (agentsOf s now) }
  match leastBy (fun g => (reach s twice.length [g]).length) twice with
  | none => .next s
  | some g =>
    let ts := teamsOf s (reach s twice.length [g])
    match victim s ts with
    | none => .next s
    | some t =>
      let others := ts.filter (fun u => !(unitOf s t).contains u)
      let s := others.foldl (fun s u => match s.team? u with
        | some T => (match s.launch? T.launch with
          | some L => appendReport s L.panel L.vd (teamReport s u T L 50 0)
          | none => s)
        | none => s) s
      .next (endUnit s t 50 0)

end Machine
end Sys2Proof
end

