-- ==== Sys2Proof/Machine/Panels.lean ====
section
/-! DEFINITION. The meanings of the events of panel firmware and of the management mailbox (19 R427, 23 R376 to R388, 27 R414, R418, R421). Log 36
gives the buffer layouts that the spec leaves open. -/

set_option Elab.async false

namespace Sys2Proof
namespace Machine

/-! ## Descriptors -/

/-- A team of a panel is resident or saved (23 R376). -/
def panelBusy (s : State) (panel : Nat) : Bool := !(residents s panel).isEmpty || s.saved.any (fun v => v.panel == panel)

/-- A descriptor word with the bits of a mask only. -/
def maskWords (ms : List Nat) (d : List Word64) : List Word64 := mapFrom (fun i m => BitVec.ofNat 64 (descWord d i &&& m)) 0 ms

/-- Bits `lo` to `hi` of a word. -/
def ones (hi lo : Nat) : Nat := (2 ^ (hi + 1 - lo) - 1) * 2 ^ lo

/-- Reserved bits of a panel descriptor read as zero (23 R376). -/
def panelMasks : List Nat :=
  [ones 63 27, ones 63 0, ones 31 0, ones 59 0, ones 63 0 - (ones 55 55 + ones 39 39 + ones 23 23 + ones 7 7), 0, ones 63 0, ones 63 0]

/-- Reserved bits of a virtual-device descriptor read as zero (23 R379). -/
def vdMasks : List Nat := [ones 63 59 + ones 55 0, ones 63 0, ones 55 0, ones 31 0, ones 55 0, ones 4 0, ones 63 0, ones 63 0]

/-- The physical twins that a panel holds: those of its panel twins, spares counted in (23 R377). -/
def heldTwins (d : List Word64) : List Nat :=
  ((List.range 96).filter (fun i => bit (twinBits d) i)) ++ (List.range 4).filterMap (fun i =>
    if bit (descWord d 4) (16 * i + 15) then some (fld (descWord d 4) (16 * i) 7) else none)

/-- An enabled descriptor is sound, and meets no other enabled panel's (23 R376, R377). -/
def panelOk (s : State) (panel : Nat) (d : List Word64) : Bool :=
  !bit (descWord d 0) 63 ||
  (fld (descWord d 0) 59 4 == panel && 1 ≤ nTwinOf d && fld (descWord d 0) 40 12 != 0 && fld (descWord d 0) 37 3 ≤ 4
   && 1 ≤ fld (descWord d 0) 32 5 && fld (descWord d 0) 32 5 ≤ 16 && 1 ≤ fld (descWord d 0) 27 5 && fld (descWord d 0) 27 5 ≤ 16
   && ((List.range 96).filter (fun i => bit (twinBits d) i)).length == nTwinOf d
   && decide ((heldTwins d).Nodup)
   && s.panels.all (fun e => e.1 == panel || !bit (descWord e.2 0) 63
        || ((heldTwins e.2).all (fun t => !(heldTwins d).contains t) && fld (descWord e.2 0) 40 12 &&& fld (descWord d 0) 40 12 == 0)))

/-- A key lies in the vault of a physical twin. -/
def inVault (twin key : Nat) : Bool := keyRegion key == 1 && keyAddr key / 2 ^ 28 == twin

/-- The contents of a vault copied into another, with their poison, after what the cores hold of it has been written back (23 R377). -/
def copyVault (s : State) (old new : Nat) : State :=
  let held := s.cores.flatMap (fun e => (e.2.l1.filter (fun l => inVault old (l.line * 128) || inVault new (l.line * 128))).map (fun l => (e.1, l.line)))
  let s := held.foldl (fun s x => evictLine s x.1 x.2) s
  let there (k : Nat) : Nat := memKey 1 (new * 2 ^ 28 + keyAddr k % 2 ^ 28)
  { s with mem := (s.mem.filter (fun c => inVault old c.1)).foldl (fun m c => m.write (there c.1) c.2) (s.mem.filter (fun c => !inVault new c.1)),
           poison := (s.poison.filter (fun k => !inVault new k)) ++ (s.poison.filter (inVault old)).map there }

/-- The physical twins that a descriptor puts in the place of others by its valid spares (23 R377). -/
def newSpares (s : State) (panel : Nat) (d : List Word64) : List (Nat × Nat) :=
  if !bit (descWord d 0) 63 then []
  else
    (List.range (nTwinOf d)).filterMap (fun t => match physTwin (s.panel panel) t, physTwin d t with
      | some old, some new =>
        if old ≠ new ∧ (List.range 4).any (fun i => bit (descWord d 4) (16 * i + 15) && fld (descWord d 4) (16 * i + 8) 7 == t) then some (old, new) else none
      | _, _ => none)

/-- PANEL_DESCRIPTOR_WRITE (23 R376, R377): refused while the panel has a team, or where the descriptors would not hold together. Before a spare stands in
for a twin it gets what the twin's vault holds. The home caches of the panel's vaults are then empty (06 R424). -/
def execPanelDescriptorWrite (panel : Nat) (d : List (BitVec 64)) (s : State) : Host.Outcome State Fault Refusal :=
  let d := maskWords panelMasks d
  if panel < 16 && !panelBusy s panel && panelOk s panel d then
    let twins := heldTwins (s.panel panel) ++ heldTwins d
    let s := (newSpares s panel d).foldl (fun s x => copyVault s x.1 x.2) s
    .next { s with panels := tabSet s.panels panel d, home := s.home.filter (fun e => !twins.contains (e.1 / 2 ^ 20)) }
  else .next s

/-- VIRTUAL_DEVICE_DESCRIPTOR_WRITE (23 R379). -/
def execVirtualDeviceDescriptorWrite (panel vd : Nat) (d : List (BitVec 64)) (s : State) : Host.Outcome State Fault Refusal :=
  if panel < 16 ∧ vd < 16 then .next { s with vds := tabSet s.vds (panel * 16 + vd) (maskWords vdMasks d) } else .next s

/-! ## Meters -/

/-- METER_IDENTITY_REGISTER (23 R384): a new identity has every meter at zero. -/
def execMeterIdentityRegister (ident : Nat) (on : Bool) (s : State) : Host.Outcome State Fault Refusal :=
  .next (if on then (if (tabFind s.meters ident).isSome then s else { s with meters := tabSet s.meters ident (List.replicate 9 0) })
    else { s with meters := tabDel s.meters ident, used := tabDel s.used ident })

/-- METER_ACCRUAL (23 R384, R385): of what has occurred to a team, resident or saved out, or to another of its identity, an amount at most is added to a
meter of the identity, which saturates. -/
def execMeterAccrual (team meter amount : Nat) (s : State) : Host.Outcome State Fault Refusal :=
  match s.teamBody team with
  | none => .next s
  | some T => .next (moveUsed (accrueHeld s team) T.eff.meter meter amount)

/-! ## The mailbox -/

/-- `n` bytes of host memory. -/
def hostRd (s : State) (a n : Nat) : Nat := s.mem.readN (memKey 4 a) n

/-- A reply written to the buffer. -/
def hostWr (s : State) (a : Nat) (bs : List Byte) : State :=
  (mapFrom (fun i b => (i, b)) 0 bs).foldl (fun s e => s.put (memKey 4 (a + e.1)) 0xFF e.2) s

/-- The host flushes a line of its memory: no core caches it any more (27 R413). -/
def hostFlush (s : State) (line : Nat) : State :=
  if keyRegion (line * 128) = 4 then s.cores.foldl (fun s e => evictLine s e.1 line) s else s

/-- A command ends with a result (27 R414). -/
def mailEnd (s : State) (cmd buf result : Nat) : State :=
  { s with mailbox := { cmd := BitVec.ofNat 64 cmd, buf, busy := false, result, panel := 0, waits := [] } }

/-- A command that can run: the management core and the host's link are ready, the mailbox is not busy and its buffer lies at a multiple of 4 KiB; one
ignored or refused otherwise (27 R414, R421). -/
def mailCmd (s : State) (cmd buf : Nat) (k : State) : Host.Outcome State Fault Refusal :=
  if s.mailbox.busy || !s.ready.mgmt || !s.ready.cxl then .next s
  else if buf % 4096 ≠ 0 ∨ 2 ^ 56 ≤ buf then .next (mailEnd s cmd buf 1)
  else .next k

/-- The meter identities that the registered blocks of a panel name, of those that are registered still (23 R384). -/
def panelIdents (s : State) (panel : Nat) : List Nat :=
  inOrder id ((((s.rcbs.filter (fun (b : Rcb) => b.panel == panel)).map (fun b => (effRcb s b).meter)).filter (fun i => (tabFind s.meters i).isSome)).eraseDups)

/-- The report without its signature (23 R386). -/
def reportBody (s : State) (panel : Nat) (nonce : List Byte) (ids : List Nat) : List Byte :=
  natBytes 4 1 ++ natBytes 4 ids.length ++ natBytes 8 (s.report + 1) ++ (List.range 32).map Config.deviceIdByte ++ nonce ++ natBytes 4 panel
    ++ natBytes 4 s.epoch ++ natBytes 8 (s.mclock / 2) ++ natBytes 32 0
    ++ ids.flatMap (fun i => natBytes 8 i ++ (List.range 9).flatMap (fun n => natBytes 8 (((tabGet [] s.meters i)[n]?).getD 0)))

/-- Bytes of a signature (23 R386). -/
def signatureBytes : Nat := 29792

/-- Reports between two writes of the high-water mark (23 R387). -/
def markStep : Nat := 2 ^ 16

/-- USAGE_REPORT (23 R386, R387): a snapshot of the named meters is signed, numbered and written to the buffer; it is refused where the panel is
not enabled, there are more than 256 identities, or one is not registered. -/
def execUsageReport (buf : Nat) (s : State) : Host.Outcome State Fault Refusal :=
  let panel := hostRd s buf 4
  let n := hostRd s (buf + 4) 4
  let nonce := s.mem.readBytes (memKey 4 (buf + 8)) 32
  let all : Bool := n == 2 ^ 32 - 1
  let ids := if all then panelIdents s panel else inOrder id (((List.range (min n 256)).map (fun i => hostRd s (buf + 64 + 8 * i) 8)).eraseDups)
  mailCmd s 1 buf (
    if !bit (descWord (s.panel panel) 0) 63 || (!all && 256 < n) || 256 < ids.length || ids.any (fun i => (tabFind s.meters i).isNone) then mailEnd s 1 buf 1
    else
      let body := reportBody s panel nonce ids
      let s := hostWr s buf (body ++ (List.range signatureBytes).map (Config.signatureByte body))
      let seq := s.report + 1
      mailEnd { s with report := seq, highWater := if seq % markStep = 0 then seq else s.highWater } 1 buf 0)

/-- ERROR_COUNTERS (27 R418): the counts of the units are returned and cleared. -/
def execErrorCounters (buf : Nat) (s : State) : Host.Outcome State Fault Refusal :=
  mailCmd s 2 buf
    (mailEnd { hostWr s buf (natBytes 8 s.errors.length ++ s.errors.flatMap (fun e => natBytes 8 e.1 ++ natBytes 8 e.2)) with errors := [] } 2 buf 0)

/-- The physical readiness map (27 R414). -/
def readyMap (r : Ready) : Nat :=
  b2n r.mgmt + 2 * b2n r.cxl + 2 ^ 2 * r.purl.toNat + 2 ^ 14 * r.lpg.toNat + 2 ^ 26 * r.twins.toNat + 2 ^ 122 * r.vlayers.toNat

/-- The reply to the readiness command: the map, and then the T_L of each channel group, zero where none is measured (27 R421, R422; the layout of the
latter is a DESIGN CHOICE, log 67). -/
def readyReply (s : State) : List Byte := natBytes 64 (readyMap s.ready) ++ (List.range 12).flatMap (fun g => natBytes 8 (tabGet 0 s.train g))

/-- READINESS (27 R421, R422). -/
def execReadiness (buf : Nat) (s : State) : Host.Outcome State Fault Refusal :=
  mailCmd s 3 buf (mailEnd (hostWr s buf (readyReply s)) 3 buf 0)

/-! ## Second-stage invalidation -/

/-- Translations of a panel dropped on every core: those whose second-stage page covers an intermediate address, or all; those of space 1 are
kept while a team of their device is resident (23 R383, 20 R359). The walkers drop the second-stage entries that they hold for it. -/
def dropStage2 (s : State) (panel : Nat) (ipa : Option Nat) : State :=
  let gone (e : TlbE) : Bool := e.ctx / 17 == panel && !(e.space == 1 && ctxResident s e.ctx) && (match ipa with
    | some a => a / e.size2 == e.ipa / e.size2
    | none => true)
  let stale (e : TableE) : Bool := e.stage2 && e.ctx / 17 == panel && (match ipa with | some a => e.base ≤ a && a < e.base + e.size | none => true)
  { s with cores := s.cores.map (fun e => (e.1, { e.2 with tlb := e.2.tlb.filter (fun x => !gone x) })),
           tables := s.tables.filter (fun e => !stale e) }

/-- What was under way in the contexts of a panel when its translations were removed, and still is (18 R329, 23 R383). -/
def stillUnder (s : State) (ws : List (Nat × Nat)) : List (Nat × Nat) := ws.filter (fun w => (inFlight s w.1).contains w.2)

def panelUnder (s : State) (panel : Nat) : List (Nat × Nat) :=
  (List.range 17).flatMap (fun v => (inFlight s (ctxId panel v)).map (fun n => (ctxId panel v, n)))

/-- An invalidation is under way and can end. -/
def stage2Due (s : State) : Bool := s.mailbox.busy && s.mailbox.cmd == 4 && (stillUnder s s.mailbox.waits).isEmpty

/-- An invalidation ends: by then the stores that a core of the panel holds have reached their places (18 R329, 20 R358). -/
def stage2Ends (s : State) (panel buf : Nat) : State := mailEnd (performStores s panel) 4 buf 0

/-- SECOND_STAGE_INVALIDATION (23 R383): the translations are removed, and the busy bit clears once nothing that may have used them is under way. -/
def execSecondStageInvalidation (buf : Nat) (s : State) : Host.Outcome State Fault Refusal :=
  if s.mailbox.busy then (if stage2Due s then .next (stage2Ends s s.mailbox.panel s.mailbox.buf) else .next s)
  else
    let panel := hostRd s buf 4
    let all := hostRd s (buf + 4) 4
    let a := hostRd s (buf + 8) 8
    mailCmd s 4 buf (
      if !bit (descWord (s.panel panel) 0) 63 || 2 ≤ all || hostRd s (buf + 16) 16 != 0 || a % 4096 != 0 || (all == 1 && a != 0) then mailEnd s 4 buf 1
      else
        let s := dropStage2 s panel (if all = 1 then none else some a)
        let ws := panelUnder s panel
        if ws.isEmpty then stage2Ends s panel buf else { s with mailbox := { cmd := 4, buf, busy := true, result := 0, panel, waits := ws } })

/-! ## Registration -/

/-- A block as its 64 bytes give it (19 R334). -/
def Rcb.ofWords (panel addr : Nat) (d : List Word64) : Rcb :=
  let f (i lo n : Nat) : Nat := fld (descWord d i) lo n
  { panel, addr, leaf := f 0 63 1 == 1, nq := f 0 56 2, parent := f 0 0 56, quantum := f 1 32 32, prio := f 1 24 8, fdom := f 1 16 8, refb := f 1 8 8,
    window := f 2 32 32, cobnd := f 2 16 16, limq := f 3 48 16, limx := f 3 32 16, emax := f 3 0 32, meter := f 4 0 64, ovr := f 5 0 10 }

/-- No reserved bit is set, every field lies in its range, and a root overrides all ten (19 R334, R335, R427). -/
def rcbSound (d : List Word64) (b : Rcb) : Bool :=
  let z (i lo n : Nat) : Bool := fld (descWord d i) lo n == 0
  z 0 58 5 && z 1 0 8 && z 2 0 16 && z 5 10 54 && z 6 0 64 && z 7 0 64 && (b.leaf || b.nq == 0)
  && b.quantum != 0 && b.window != 0 && b.cobnd != 0 && b.emax != 0
  && (b.parent != 0 || b.ovr == 0x3FF)

/-- The address is the ROOT of an enabled virtual device of the panel (23 R379). -/
def isRoot (s : State) (panel addr : Nat) : Bool :=
  (List.range 16).any (fun v => bit (descWord (s.vd panel v) 0) 63 && fld (descWord (s.vd panel v) 0) 0 56 == addr)

/-- The result of a registration, and the block where it is 0 (19 R427). Of several results that hold, the least is reported (DESIGN CHOICE, log 70: 19
R427 gives no order). -/
def checkRcb (s : State) (panel addr : Nat) : Nat ⊕ Rcb :=
  if addr % 64 ≠ 0 ∨ 2 ^ 56 ≤ addr then .inl 1
  else
    match mgmtWords s (sysCtx panel) addr 8 with
    | none => .inl 1
    | some d =>
      let b := Rcb.ofWords panel addr d
      if !rcbSound d b then .inl 2
      else if (if b.parent = 0 then !isRoot s panel addr else (findRcb s panel b.parent).isNone) then .inl 3
      else if (findRcb s panel addr).any (fun (o : Rcb) => o.parent != b.parent || o.leaf != b.leaf || o.nq != b.nq) then .inl 3
      else if (tabFind s.meters b.meter).isNone then .inl 4
      else .inr b

/-- A block registered, and its queues where it is a new leaf (19 R334, R339, R427). -/
def register (s : State) (b : Rcb) : State :=
  let new := (findRcb s b.panel b.addr).isNone
  let s := { s with rcbs := if new then s.rcbs ++ [b] else s.rcbs.map (fun (o : Rcb) => if o.panel = b.panel ∧ o.addr = b.addr then b else o) }
  if new && b.leaf then
    { s with queues := s.queues ++ (List.range (b.nq + 1)).map (fun q =>
        ({ panel := b.panel, rcb := b.addr, q, launches := [], deficit := 0, idle := true } : Queue)) }
  else s

/-- REGISTRATION (19 R427). -/
def execRegistration (buf : Nat) (s : State) : Host.Outcome State Fault Refusal :=
  let panel := hostRd s buf 4
  mailCmd s 5 buf (match checkRcb s panel (hostRd s (buf + 8) 8) with
    | .inl r => mailEnd s 5 buf r
    | .inr b => mailEnd (register s b) 5 buf 0)

end Machine
end Sys2Proof
end

