-- ==== Sys2Proof/Machine/Outside.lean ====
section
/-! DEFINITION. The meanings of the events that come from outside the module and of bring-up (27 R413 to R423). Log 38 gives the address of a peer's
request and the number of its flags' domain. -/

set_option Elab.async false

namespace Sys2Proof
namespace Machine

/-! ## Accesses from outside -/

/-- The reduction flags of a peer's contributions (10 R228, log 38). -/
def peerDom (src : Nat) : Nat := 2 ^ 40 + src

/-- Bytes of an access. -/
def extBytes : ExtReq → Nat
  | .read _ n => n
  | .write _ bs => bs.length
  | .atomic _ ty _ _ _ => ty.bits / 8
  | .red _ ty _ _ => ty.bits / 8

def extAddr : ExtReq → Nat
  | .read a _ => a
  | .write a _ => a
  | .atomic _ _ a _ _ => a
  | .red _ _ a _ => a

/-- The lines that hold `n` bytes from a key. -/
def linesOf (key n : Nat) : List Nat := if n = 0 then [] else (List.range (lineOf (key + (n - 1)) + 1 - lineOf key)).map (lineOf key + ·)

/-- An access performed at its place, which reaches the lines' home banks (06 R424, 27 R413, R416): a write clears the poison that it wholly overwrites, and an atomic that would read poison is not
performed (27 R419). -/
def extPerform (s : State) (key dom : Nat) : ExtReq → State
  | .read _ n => (linesOf key n).foldl (fun s l => useHome s (l * 128)) s
  | .write _ bs =>
    let cover := (List.range bs.length).map (key + ·)
    let lost := cover.filter (s.loses cover)
    (mapFrom (fun i b => (i, b)) 0 bs).foldl (fun s e => if lost.contains (key + e.1) then s else s.put (key + e.1) 0xFF e.2) s
  | .atomic aop ty _ x cmp =>
    if s.poisonedIn key (ty.bits / 8) then s
    else
      let n := ty.bits / 8
      (mapFrom (fun i b => (i, b)) 0 (natBytes n (atomOp aop ty (s.mem.readN key n) x cmp).v)).foldl (fun s e => s.put (key + e.1) 0xFF e.2) s
  | .red aop ty _ x => if s.poisonedIn key (ty.bits / 8) then s else applyAtPlace s [] key aop ty x dom

/-- The place in device memory of an access through a virtual function: in the enabled panel that the function presents, where the panel's decoder
covers it; none where every decoder is missed (27 R411). -/
def hdmKey (s : State) (vf a n : Nat) : Option Nat :=
  (s.panels.find? (fun e => bit (descWord e.2 0) 63 && fld (descWord e.2 0) 27 5 == vf)).bind (fun e =>
    match tabFind s.hdm e.1 with
    | some (base, len) => if base ≤ a ∧ a + n ≤ base + len then some (devKey e.1 (a - base)) else none
    | none => none)

/-- What the host receives of an access to a place: the bytes as they stand before it, or poison; a write gives nothing back (27 R411, R419). -/
def hostReply (s : State) (key : Nat) : ExtReq → Reply
  | .write .. => .none
  | q => if s.poisonedIn key (extBytes q) then .poison else .data (s.mem.readBytes key (extBytes q))

/-- The functions that an access from outside needs at its place are ready (27 R421): a vault's layers, or a line's home bank and channel group. -/
def extReady (s : State) (key n : Nat) : Bool := (linesOf key n).all (fun l => placeReady s Config.nCores (l * 128))

/-- Two accesses from outside come from one source, whose accesses are performed in their order. -/
def sameSource : Instr → Instr → Bool
  | .hostCxlMemAccess _ _, .hostCxlMemAccess _ _ => true
  | .peerRequest a _, .peerRequest b _ => a == b
  | _, _ => false

/-- An access from outside waits until a function that it needs is ready, behind those of its source that wait already (27 R421). -/
def extWaits (s : State) (i : Instr) (key n : Nat) : Bool := !extReady s key n || s.waiting.any (sameSource i)

/-- What waits for a function that was not ready looks again (27 R421). -/
def lookAgain (s : State) : State :=
  { s.wakeAll .unready with waiting := [], agenda := s.waiting.map Agendum.event ++ s.agenda }

/-- HOST_CXL_MEM_ACCESS (20 R358, 27 R411, R413, R419): an access of the host to the memory of the panel that a virtual function presents, served at the
lines' homes. One that misses every decoder reads as all ones, with an error. The lines of a read are then lines that the host holds. -/
def execHostCxlMemAccess (vf : Nat) (q : ExtReq) (s : State) : Host.Outcome State Fault Refusal :=
  if !s.ready.cxl then .next s
  else
    match hdmKey s vf (extAddr q) (extBytes q) with
    | none => .next { s with reply := .unsupported }
    | some key =>
      if extWaits s (.hostCxlMemAccess vf q) key (extBytes q) then .next { s with waiting := s.waiting ++ [.hostCxlMemAccess vf q] }
      else
      let r := hostReply s key q
      let s := extPerform s key 0 q
      .next (match q with
        | .read _ n => { s with reply := r, hostLines := s.hostLines ++ (linesOf key n).filter (fun l => !s.hostLines.contains l) }
        | .write .. | .atomic .. | .red .. => { s with reply := r })

/-- The key of the address of a peer's request: device memory of the panel that the source's window opens, or a vault where bit 43 is set (log 38). -/
def peerKey (src a : Nat) : Nat := if bit a 43 then memKey 1 (fld a 0 43) else devKey (Config.peerPanel src % 16) (fld a 0 43)

/-- The access lies in the window of its source (27 R415). -/
def inWindow (s : State) (src : Nat) (q : ExtReq) : Bool := match tabFind s.windows src with
  | some (lo, hi) => lo ≤ extAddr q && extAddr q + extBytes q ≤ hi
  | none => false

/-- A request performed in the window of its source, and not performed outside (27 R416, R417); one that needs a function which is not ready waits (27
R421). -/
def peerPerform (s : State) (src : Nat) (q : ExtReq) : State :=
  if inWindow s src q ∧ extWaits s (.peerRequest src q) (peerKey src (extAddr q)) (extBytes q) then { s with waiting := s.waiting ++ [.peerRequest src q] }
  else if inWindow s src q then extPerform s (peerKey src (extAddr q)) (peerDom src) q else s

/-- PEER_REQUEST (27 R416, R417). -/
def execPeerRequest (src : Nat) (q : ExtReq) (s : State) : Host.Outcome State Fault Refusal := .next (peerPerform s src q)

/-- PURL_FLIT_RECEIVE (27 R415): a sound flit that is next in sequence is delivered; any other is replayed by its sender. -/
def execPurlFlitReceive (link seq : Nat) (crcOk : Bool) (src : Nat) (q : ExtReq) (s : State) : Host.Outcome State Fault Refusal :=
  let l := s.link link
  if l.up && crcOk && seq == l.seq then .next (peerPerform { s with links := tabSet s.links link { l with seq := l.seq + 1 } } src q)
  else .next s

/-- A contribution that travels on a link. -/
def onLink (link : Nat) (d : Redn) : Bool := d.link == some link

/-- What is lost on a link ends who sent it, each for the line of the first that is lost (27 R417, 21 R363). -/
def loseAll (s : State) (ds : List Redn) : State :=
  ds.foldl (fun s d => storageError s d.owner (keyPa (d.key / 128 * 128))) s

/-- LINK_DOWN (27 R417): what the link carries is lost; the teams that sent it are ended, and the other flows move to other links. -/
def execLinkDown (link : Nat) (s : State) : Host.Outcome State Fault Refusal :=
  let l := s.link link
  if !l.up then .next s
  else
    let gone := s.reds.filter (onLink link)
    let ts := (gone.filterMap (fun (d : Redn) => d.team)).eraseDups
    let s := { s with reds := s.reds.filter (fun d => !(gone.map (fun (x : Redn) => x.id)).contains d.id),
                      links := tabSet s.links link { l with up := false, lost := ts },
                      ready := { s.ready with purl := s.ready.purl &&& ~~~(1#12 <<< link) } }
    .next (loseAll s gone)

/-! ## Errors -/

/-- A correctable error of a unit that has been corrected is counted (27 R418). -/
def countError (s : State) (unit n : Nat) : State := { s with errors := tabSet s.errors unit (tabGet 0 s.errors unit + n) }

/-- An error in 8 bytes of an L1 (27 R418): they are fetched again where the line is clean, and are poisoned in it where it is dirty (log 39). -/
def lineError (s : State) (core key : Nat) : State :=
  match findLine (s.core core) (lineOf key) with
  | none => s
  | some l =>
    let unit : BitVec 128 := BitVec.ofNat 128 (0xFF * 2 ^ (key / 8 * 8 % 128))
    s.setCore core (setLine (s.core core) (if l.dirty = 0 then { l with valid := l.valid &&& ~~~unit } else { l with bad := l.bad ||| (unit &&& l.valid) }))

/-- An error of storage comes up (27 R418). -/
def storageFails (s : State) : ErrSite → State
  | .row g l n =>
    let G := s.gang g
    s.setGang g { G with lanes := mapLanes (BitVec.ofNat 64 (2 ^ l)) (fun _ L => { L with poison := L.poison ||| BitVec.ofNat 128 (2 ^ n) }) G.lanes }
  | .bytes key =>
    let u := poisonUnit key
    { s with poison := s.poison ++ ((List.range u).map (key / u * u + ·)).filter (fun k => !s.poison.contains k) }
  | .line core key => lineError s core key
  | .fixed unit => countError s unit 1
  | .latent vault => { s with latent := tabSet s.latent vault (tabGet 0 s.latent vault + 1) }

/-- PATROL_SCRUB (27 R418): every line of a vault is read, and the correctable errors that lie in it are corrected and counted. -/
def execPatrolScrub (vault : Nat) (s : State) : Host.Outcome State Fault Refusal :=
  .next (match tabFind s.latent vault with
    | some n => { countError s vault n with latent := tabDel s.latent vault }
    | none => s)

/-! ## Bring-up, power -/

/-- What firmware or a neighbour sets up (27 R411, R415, R417, R422); words that wait for what was not ready look again (27 R421). -/
def setUp (s : State) (x : Setup) : State :=
  let s := match x with
    | .window src lo hi => { s with windows := tabSet s.windows src (lo, hi) }
    | .route peer links => { s with routes := tabSet s.routes peer links }
    | .refused lo hi => { s with refused := s.refused ++ [(lo, hi)] }
    | .hdm panel base len => { s with hdm := tabSet s.hdm panel (base, len) }
    | .train group cycles => { s with train := tabSet s.train group cycles }
  lookAgain s

/-- The service gang of a core as its twin's readiness starts it: all lanes wait as after IDLE, at the entry of ctl.svec (18 R326). -/
def startService (s : State) (core : Nat) : State :=
  let c := s.core core
  let m := startMask 32
  let G : Gang := { Gang.blank with a := { Slot.free with mask := m, entry := c.svec.toNat, wait := .idle }, live := m, bound := 32 }
  (s.setCore core { c with clock := 0 }).setGang (core * 64 + Config.serviceSlot) G

/-- A function brought up sets its bit; a twin's service gangs start, and the distributor visits again (DESIGN CHOICE, log 70). Nothing is brought up before MGMT (27 R421). -/
def bringUp (s : State) (f : Fn) : State :=
  let r := s.ready
  match f with
  | .mgmt => { s with ready := { r with mgmt := true } }
  | .cxl => if r.mgmt then { s with ready := { r with cxl := true } } else s
  | .purl n =>
    if r.mgmt && n < 12 then { s with ready := { r with purl := r.purl ||| (1#12 <<< n) }, links := tabSet s.links n { up := true, seq := 0, lost := [] } } else s
  | .lpgroup n => if r.mgmt && n < 12 then { s with ready := { r with lpg := r.lpg ||| (1#12 <<< n) } } else s
  | .twin n =>
    if r.mgmt && n < 96 && !r.twins.getLsbD n then
      startService (startService { s with quiet := [], ready := { r with twins := r.twins ||| (1#96 <<< n) } } (2 * n)) (2 * n + 1)
    else s
  | .vlayer t n => if r.mgmt && t < 96 && n < 4 then { s with ready := { r with vlayers := r.vlayers ||| (1#384 <<< (4 * t + n)) } } else s

/-- FUNCTION_READY (27 R421): a function is brought up, and what waits for one looks again. -/
def execFunctionReady (f : Fn) (s : State) : Host.Outcome State Fault Refusal := .next (lookAgain (bringUp s f))

/-- THROTTLE_START (27 R423). -/
def execThrottleStart (s : State) : Host.Outcome State Fault Refusal := .next { s with throttled := true }
/-- THROTTLE_STOP (27 R423). -/
def execThrottleStop (s : State) : Host.Outcome State Fault Refusal := .next { s with throttled := false }

/-- COLD_RESET (27 R421, 23 R384, R387): the module as after reset, with the next boot epoch and the next numbers of reports; the memory of the
host and of the peers is not its own. -/
def execColdReset (s : State) : Host.Outcome State Fault Refusal :=
  let outer (k : Nat) : Bool := keyRegion k == 3 || keyRegion k == 4
  .next { State.reset with
    agenda := s.agenda, fresh := s.fresh, mem := s.mem.filter (fun c => outer c.1), poison := s.poison.filter outer, epoch := s.epoch + 1, refused := s.refused,
    highWater := s.highWater, report := (s.highWater / markStep + 1) * markStep - 1 }

end Machine
end Sys2Proof
end

