-- ==== Sys2Proof/Machine/Predicate.lean ====
section
/-! DEFINITION. The meanings of the predicate and cross-lane words of group 0x3 (08 R179 to R183). -/

set_option Elab.async false

namespace Sys2Proof
namespace Machine

/-- A word that writes a predicate from two predicate sources (08 R179). -/
def predRow (x : PLogicOp) (f : Bool → Bool → Bool) (s : State) : Host.Outcome State Fault Refusal :=
  bodyWord { WordInfo.plain x.hd 3 [] [] true with pf := true } (fun s r R m =>
    .done (fixedEff s r R m (fun _ L => [.pr x.p (f (L.psrc x.a) (L.psrc x.b))]))) s

/-- PAND. -/
def execPand (x : PLogicOp) (s : State) : Host.Outcome State Fault Refusal := predRow x and s
/-- POR. -/
def execPor (x : PLogicOp) (s : State) : Host.Outcome State Fault Refusal := predRow x or s
/-- PXOR. -/
def execPxor (x : PLogicOp) (s : State) : Host.Outcome State Fault Refusal := predRow x xor s

/-- PNOT. -/
def execPnot (x : PNotOp) (s : State) : Host.Outcome State Fault Refusal :=
  bodyWord { WordInfo.plain x.hd 3 [] [] true with pf := true } (fun s r R m =>
    .done (fixedEff s r R m (fun _ L => [.pr x.p (!L.psrc x.a)]))) s

/-- 1 to 8 stitches (08 R179). -/
def narrow (o : Opnd) : Bool := o.w.stitches ≤ 8

/-- PSET (08 R179): the predicates p1 to p31 whose bit of M is set. -/
def execPset (x : PSetOp) (s : State) : Host.Outcome State Fault Refusal :=
  bodyWord { WordInfo.plain x.hd 3 [x.a, x.m] [] (narrow x.a && narrow x.m) with pf := true } (fun s r R m =>
    .done (fixedEff s r R m (fun _ L =>
      ((List.range 32).filter (fun i => i != 0 && bit (L.rd x.m) i)).map (fun i => LW.pr i (bit (L.rd x.a) i))))) s

/-- PGET (08 R179). -/
def execPget (x : PGetOp) (s : State) : Host.Outcome State Fault Refusal :=
  bodyWord (WordInfo.plain x.hd 3 [] [x.d] (wIs 8 x.d)) (fun s r R m =>
    .done (fixedEff s r R m (fun _ L => [wrTo x.d (bitsOf L.pred 32)]))) s

/-- VOTE (08 R180): over the participating lanes; .ballot of a width-64 gang has 64 bits (26 R408). -/
def execVote (x : VoteOp) (s : State) : Host.Outcome State Fault Refusal :=
  let wide : Bool := (s.gang s.cur.gang).width == 64
  let info := match x.form with
    | .ballot d => WordInfo.plain x.hd 3 [] [d] (wIs (if wide then 16 else 8) d)
    | .all _ | .any _ | .uni _ => { WordInfo.plain x.hd 3 [] [] true with pf := true }
  bodyWord info (fun s r R m =>
    let G := s.gang r.gang
    let yes := maskOf (fun l => Mask.has m l && (G.lane l).psrc x.a)
    let w : LW := match x.form with
      | .all p => .pr p (yes == m)
      | .any p => .pr p (yes != 0)
      | .uni p => .pr p (yes == m || yes == 0)
      | .ballot d => wrTo d yes.toNat
    .done (fixedEff s r R m (fun _ _ => [w]))) s

/-- The source lane of a shuffle (08 R181). -/
def shflLane (f : ShflForm) (l n : Nat) : Int :=
  match f with
  | .idx => n
  | .up => (l : Int) - n
  | .down => (l : Int) + n
  | .xor => ((l ^^^ n : Nat) : Int)

/-- SHFL (08 R181): a source lane of the slot, or the lane itself. -/
def execShfl (x : ShflOp) (s : State) : Host.Outcome State Fault Refusal :=
  bodyWord (WordInfo.plain x.hd 3 [x.a, x.b] [x.d] (x.d.w == x.a.w && narrow x.b)) (fun s r R m =>
    let G := s.gang r.gang
    let M := (s.slot r).mask
    let src (l : Nat) (L : Lane) : Lane :=
      let k := shflLane x.form l (L.rd x.b)
      if 0 ≤ k ∧ k < 64 ∧ Mask.has M k.toNat then G.lane k.toNat else L
    -- a lane that does not take part may lend a poisoned row (03 R57)
    if (Mask.lanes m).any (fun l => (rowsOf x.a).any (src l (G.lane l)).poison.getLsbD) then .poison
    else .done (fixedEff s r R m (fun l L => [wrTo x.d ((src l L).rd x.a)]))) s

/-- ELECT (08 R182). -/
def execElect (x : ElectOp) (s : State) : Host.Outcome State Fault Refusal :=
  bodyWord { WordInfo.plain x.hd 3 [] [] true with pf := true } (fun s r R m =>
    let G := s.gang r.gang
    let who := Mask.lowest (maskOf (fun l => Mask.has m l && (G.lane l).psrc x.a))
    .done (fixedEff s r R m (fun l _ => [.pr x.p (who == some l)]))) s

/-- MOVS (08 R183): a special register, %fpsr cleared by .clr as it is read. -/
def execMovs (x : MovsOp) (s : State) : Host.Outcome State Fault Refusal :=
  bodyWord { WordInfo.plain x.hd 3 [] [x.d] (intW x.d && (!x.clr || x.sr == 14)) with pf := x.clr } (fun s r R m =>
    .done (fixedEff s r R m (fun l _ =>
      wrTo x.d (special s r l x.sr % 2 ^ x.d.w.bits) :: (if x.clr then [LW.clr] else [])))) s

end Machine
end Sys2Proof
end

