-- ==== Sys2Proof/Machine/Tiles.lean ====
section
/-! DEFINITION. The meanings of the tile words, the cast-off terminators and the events of tiles (11 R233 to R250). -/

set_option Elab.async false

namespace Sys2Proof
namespace Machine

/-- What the rules of issue know of a tile word: no memory access, not in a guarded trace (04 R87, 11 R233). -/
def tileInfo (hd : Hd) (dsts : List Opnd) (ok : Bool) : WordInfo := { WordInfo.plain hd 0xD [] dsts ok with noGuard := true, pf := true }

/-! ## CLAIM -/

/-- What becomes of a claim (11 R234): ended with a status, granted at once, waiting for its grant, or queued with a status. -/
inductive ClaimFate
  | ended (st : Nat)
  | granted
  | waits
  | queued (st : Nat)
  deriving DecidableEq, Repr

/-- A team's entry for a tile, which arrives now. -/
def claimReq (s : State) (team va : Nat) (T : Team) (cls : Cls) (nb : Bool) : TileReq :=
  { team, cls, prio := T.eff.prio, arr := s.nextCmd, nb, va }

/-- A claim of a tile by a resident team, by the rows of 11 R234 in their order. A tile on its way from its holder counts as held until it has
passed, by its class. -/
def claimTile (s : State) (team : Nat) (T : Team) (t va : Nat) (cls : Cls) (nb : Bool) : State × ClaimFate :=
  let x := s.tile t
  let req := claimReq s team va T cls nb
  let s1 := { s with nextCmd := s.nextCmd + 1 }
  let late (f : Nat) : ClaimFate := if nb then .queued f else .waits
  let mine : Bool := (x.next.toList ++ x.queue ++ x.waiting).any (fun e => e.team == team)
  if x.holder = some team ∧ x.passing ≠ some .release then (s, .ended 1)
  else if tileOver s T t then (s, .ended 6)
  else if cls = .neg ∧ T.reg.isNone then (s, .ended 8)
  else
    match x.holder with
    | none =>
      if (nextGrant s t).isNone then (grantTile s1 t req none false, .granted)
      else if mine then (s, .waits)
      else (s1.setTile t { x with waiting := x.waiting ++ [req] }, .waits)
    | some _ =>
      if x.cls == .loan then
        if mine then (s, .waits)
        else if x.next.isNone then (s1.setTile t { x with next := some req, passing := some (x.passing.getD .revoke) }, .waits)
        else (s1.setTile t { x with waiting := x.waiting ++ [req] }, .waits)
      else if x.queue.any (fun e => e.team == team) then (s, late 2)
      else if x.waiting.any (fun e => e.team == team) then (s, late (if x.cls == .neg then 4 else 3))
      else if x.cls == .neg then
        if x.queue.length < queueMax then (pumpTile (s1.setTile t { x with queue := enqueue x.queue req }) t, late 2)
        else if nb then (s, .ended 4)
        else (s1.setTile t { x with waiting := x.waiting ++ [req] }, .waits)
      else if nb then (s, .ended 3)
      else (s1.setTile t { x with waiting := x.waiting ++ [req] }, .waits)

/-- The results of a blocking CLAIM, visible to the next word (11 R234, R235). -/
def claimNow (s : State) (r : SlotRef) (m : Mask) (x : ClaimOp) (st sum : Nat) : State :=
  match (s.slot r).run with
  | none => s
  | some R =>
    let s := fixedEff s r R m (fun _ _ => [wrTo x.d st, .pr x.p (claimOk st)])
    match (s.slot r).run with
    | some R => uniEff s r R x.ksum sum
    | none => s

/-- The results of a CLAIM.nb, pending until its group ends (11 R234, R235). -/
def claimPends (s : State) (r : SlotRef) (m : Mask) (x : ClaimOp) (v : PVal) (p : PVal) (k : PVal) (lates : List Late) : State :=
  match (s.slot r).run with
  | none => s
  | some R =>
    let old := cancelUni (cancelAll R.pends m (fun _ => [wrTo x.d 0, .pr x.p false])) x.ksum
    s.setRun r { R with
      pends := old ++ (Mask.lanes m).flatMap (fun l => [.st l x.d.start (stitchMask x.d.start x.d.w.stitches) v, .pr l x.p p]) ++ [.uni x.ksum k]
      lates := R.lates ++ lates }

/-- CLAIM.nb whose status is known (11 R235). -/
def claimKnown (s : State) (r : SlotRef) (m : Mask) (x : ClaimOp) (st sum : Nat) : State :=
  claimPends s r m x (.now st) (.now (b2n (claimOk st))) (.now sum) []

/-- A claim without a team: the spec gives the service gang's claim no status (log 23). -/
def claimTeamless (s : State) (r : SlotRef) (m : Mask) (x : ClaimOp) : State :=
  let a := s.openVal 32
  let b := a.2.openVal 64
  if x.nb then claimKnown b.2 r m x a.1 b.1 else claimNow b.2 r m x a.1 b.1

/-- Cycles until a tile word returns its results (03 R425, 27 R422): those of an array quarter, or of an extent's vault. -/
def tileCycles (core : Nat) : Option Nat → Nat
  | some t => if isExtent t then vaultCycles (core / 2) (extentPa t / 2 ^ 28) else 8
  | none => 8

/-- CLAIM (11 R234, R235). -/
def execClaim (x : ClaimOp) (s : State) : Host.Outcome State Fault Refusal :=
  bodyWord { tileInfo x.hd [x.d] (wIs 8 x.d) with noHandler := true, noCast := true } (fun s r _ m =>
    if m = 0 then .done s
    else
      let done (s : State) (st : Nat) : Eff := .done (if x.nb then claimKnown s r m x st 0 else claimNow s r m x st 0)
      match (s.gang r.gang).team.bind (fun t => (s.team? t).map (fun T => (t, T))) with
      | none => .done (claimTeamless s r m x)
      | some (team, T) =>
        match tileOf s r (kreg s r x.ktile) with
        | (s, none) => done (if x.nb then returnsBy s r (tileCycles (coreOf r.gang) none) else s) 7
        | (s, some (t, va)) =>
          let s := if x.nb then returnsBy s r (tileCycles (coreOf r.gang) (some t)) else s
          match claimTile s team T t va x.cls x.nb with
          | (s, .ended st) => done s st
          | (s, .granted) => done s 0
          | (s, .queued st) => done s st
          | (s, .waits) =>
            if x.nb then
              .done (claimPends { s with nextCmd := s.nextCmd + 1 } r m x (.late s.nextCmd) (.late s.nextCmd) (.late s.nextCmd)
                [{ id := s.nextCmd, kind := .claim t, val := none }])
            else .hold (s.setWait r (.claim t x m))) s

/-- CLAIM_GRANT (11 R236). -/
def execClaimGrant (tile : Nat) (s : State) : Host.Outcome State Fault Refusal := .next (grantNext s tile)

/-! ## RELEASE, COREG, TILEQ -/

/-- RELEASE of a tile by a team (11 R238): the claim on it withdrawn, the tile on its way. -/
def releaseTile (s : State) (team t : Nat) : State :=
  let x := s.tile t
  let mine (e : TileReq) : Bool := e.team == team
  let had : Bool := x.queue.any mine || x.waiting.any mine || x.next.any mine
  let s := s.setTile t { x with queue := x.queue.filter (fun e => !mine e), waiting := x.waiting.filter (fun e => !mine e),
                                next := x.next.filter (fun e => !mine e) }
  let s := if had then endClaims s team t 10 0 else s
  let x := s.tile t
  let s := if x.holder = some team ∧ x.passing.isNone then (meterTile s t).setTile t { (meterTile s t).tile t with passing := some .release } else s
  pumpTile s t

/-- RELEASE (11 R238); of the tile whose routine the gang runs, an illegal instruction. -/
def execRelease (x : KOp) (s : State) : Host.Outcome State Fault Refusal :=
  bodyWord (tileInfo x.hd [] true) (fun s r _ m =>
    if m = 0 then .done s
    else
      match (s.gang r.gang).team with
      | none => .done s
      | some team =>
        match tileOf s r (kreg s r x.k) with
        | (s, none) => .done s
        | (s, some (t, _)) =>
          if (s.gang r.gang).co.any (fun (c : Castoff) => c.tile == t) then .trap 1
          else
            let y := s.tile t
            if y.holder = some team ∨ y.queue.any (fun e => e.team == team) ∨ y.waiting.any (fun e => e.team == team)
                ∨ y.next.any (fun e => e.team == team) then
              if releaseHeld s r.gang m .d then .wait .unready
              else (match releaseLanes s r.gang m .d with
                | (s, true) => .done (releaseTile s team t)
                | (s, false) => .done s)
            else .done s) s

/-- COREG (11 R240). -/
def execCoreg (x : CoregOp) (s : State) : Host.Outcome State Fault Refusal :=
  bodyWord { tileInfo x.hd [] true with noHandler := true, noCast := true } (fun s r _ m =>
    if m = 0 then .done s
    else
      let entry := kreg s r x.kentry
      let b := kreg s r x.kbound
      let g := codeRegion s r
      if entry % 8 ≠ 0 ∨ entry < g.1 ∨ g.2 < entry + 8 ∨ fld b 16 48 ≠ 0 then .trap 2
      else
        match (s.gang r.gang).team with
        | none => .done s
        | some team => .done (s.updTeam team (fun T =>
            { T with reg := if b = 0 then none else some { gang := r.gang, entry, bound := Nat.min b T.eff.cobnd } }))) s

/-- The status word of TILEQ for a team, which may be none (11 R250). A tile that its team has released while its matrix commands are in flight still
shows that team and its class (DESIGN CHOICE, log 70: the spec does not say what it shows). -/
def tileqWord (s : State) (team : Option Nat) (t : Nat) : Nat :=
  let x := s.tile t
  let H := x.holder.bind s.teamBody
  let me (e : TileReq) : Bool := some e.team == team
  let holder := match x.holder with
    | none => 0
    | some h =>
      if some h = team then 1
      else if ((team.bind s.team?).bind (·.partner)) = some h then 2
      else 3
  holder
    + 2 ^ 4 * b2n (x.reports.any (fun p => some p.1 == team))
    + 2 ^ 8 * (match x.queue.findIdx? me with | some i => i + 1 | none => 0)
    + 2 ^ 16 * (match x.holder, x.cls with | none, _ => 3 | some _, .fix => 0 | some _, .neg => 1 | some _, .loan => 2)
    + 2 ^ 18 * b2n (x.rcall != .none)
    + 2 ^ 19 * b2n (x.stripped.any (fun p => some p.1 == team))
    + 2 ^ 20 * x.queue.length
    + 2 ^ 24 * Nat.min 15 (H.elim 0 refusalsLeft)

/-- The status word of TILEQ for what is not claimable (11 R250). -/
def tileqNone : Nat := 4 + 2 ^ 16 * 3

/-- TILEQ (11 R250). -/
def execTileq (x : TileqOp) (s : State) : Host.Outcome State Fault Refusal :=
  bodyWord (tileInfo x.hd [x.d] (wIs 8 x.d)) (fun s r _ m =>
    if m = 0 then .done s
    else
      let team := (s.gang r.gang).team
      let y := tileOf s r (kreg s r x.ktile)
      let w := match y.2 with | some (t, _) => tileqWord y.1 team t | none => tileqNone
      let rep := y.2.bind (fun z => (y.1.tile z.1).reports.find? (fun p => some p.1 == team))
      let s := match y.2, rep with
        | some (t, _), some _ =>
          let q := y.1.tile t
          acquireScope (y.1.setTile t { q with reports := q.reports.filter (fun p => some p.1 != team) }) (coreOf r.gang) .d
        | _, _ => y.1
      let s := returnsBy s r (tileCycles (coreOf r.gang) (y.2.map (·.1)))
      match (s.slot r).run with
      | none => .done s
      | some R =>
        let s := longEff s r { R with pends := cancelUni R.pends x.ksum } m (fun _ => [wrTo x.d w])
        (match (s.slot r).run with
         | none => .done s
         | some R => .done (s.setRun r { R with pends := R.pends ++ [.uni x.ksum (.now (rep.elim 0 (·.2)))] }))) s

/-- TILE_PASS (11 R238, R245). -/
def execTilePass (tile : Nat) (s : State) : Host.Outcome State Fault Refusal := .next (tilePasses s tile)

/-! ## Recalls and routines -/

/-- RECALL_DELIVERY (11 R241, R242): the routine starts once the registrant stands at its entries; without a registration the recall is a
forced strip. -/
def execRecallDelivery (tile : Nat) (s : State) : Host.Outcome State Fault Refusal :=
  match recallAt s tile with
  | some (g, q) => .next (startCastoff s tile (s.gang g) g q)
  | none =>
    let x := s.tile tile
    match x.holder, x.rcall with
    | some h, .due _ =>
      if (registered s h).isNone && !savedTeam s h && x.passing.isNone then .next (s.setTile tile { x with passing := some (.strip .noReg) })
      else .next s
    | _, _ => .next s

/-- The next word of a slot of a routine would make its count exceed its bound (11 R244). -/
def boundMet (G : Gang) : Bool :=
  overBound G 1 || (overBound G 2 && [G.a, G.b].any (fun (X : Slot) => X.mask != 0 && (match X.run with
    | some R => isJsel ((R.words[R.pos]?).getD 0)
    | none => false)))

/-- A slot of the gang has trapped. -/
def anyTrapped (G : Gang) : Bool :=
  [G.a, G.b].any (fun (X : Slot) => X.mask != 0 && (match X.wait with | .trapped _ => true | _ => false))

/-- A slot of the gang waits to end its routine. -/
def anyOverrun (G : Gang) : Bool :=
  [G.a, G.b].any (fun (X : Slot) => X.mask != 0 && (match X.wait with | .overrun => true | _ => false))

/-- CASTOFF_BOUND_OVERRUN (11 R244): the routine of a gang whose count meets its bound, or that traps, ends as an overrun, once its results have
returned (03 R67). -/
def execCastoffBoundOverrun (gang : Nat) (s : State) : Host.Outcome State Fault Refusal :=
  let G := s.gang gang
  if anyTrapped G || anyOverrun G || boundMet G then
    if gangReturned s gang then .next (settle (abortCastoff s gang (if anyTrapped G then .trap else .overrun)) gang)
    else .next (stopRoutine s gang)
  else .next s

/-- A cast-off terminator (11 R243, R245). -/
def castoffTerm (t : Term) (s : State) : Host.Outcome State Fault Refusal :=
  termWord { TermInfo.plain with noGuard := true, castOnly := true } (fun s _ => (t, s)) s

/-- CODONE (11 R245). -/
def execCodone (_ : TermOp) (s : State) : Host.Outcome State Fault Refusal := castoffTerm .codone s
/-- COSUMM (11 R245). -/
def execCosumm (x : CosummOp) (s : State) : Host.Outcome State Fault Refusal := castoffTerm (.cosumm x.k) s
/-- COREFUSE (11 R245). -/
def execCorefuse (_ : TermOp) (s : State) : Host.Outcome State Fault Refusal := castoffTerm .corefuse s

/-! ## Strips and revocations -/

/-- FORCED_STRIP (11 R246, R247): the tile is marked to be stripped, and stripped once its matrix commands have retired. -/
def execForcedStrip (tile : Nat) (why : StripWhy) (s : State) : Host.Outcome State Fault Refusal :=
  let x := s.tile tile
  match x.holder with
  | none => .next s
  | some _ =>
    match x.passing with
    | some (.strip w) => .next (if tileBusy s tile then s else stripNow s tile (stripCause w))
    | some _ => .next s
    | none =>
      let s := s.setTile tile { x with passing := some (.strip why) }
      .next (if tileBusy s tile then s else stripNow s tile (stripCause why))

/-- LOAN_REVOCATION (11 R248). -/
def execLoanRevocation (tile : Nat) (s : State) : Host.Outcome State Fault Refusal :=
  let x := s.tile tile
  match x.holder with
  | none => .next s
  | some _ =>
    match x.passing with
    | some .revoke => .next (if tileBusy s tile then s else stripNow s tile 19)
    | some _ => .next s
    | none =>
      if x.cls == .loan then
        let s := s.setTile tile { x with passing := some .revoke }
        .next (if tileBusy s tile then s else stripNow s tile 19)
      else .next s

/-- REFUSAL_WINDOW_EXPIRY (11 R246). -/
def execRefusalWindowExpiry (team : Nat) (s : State) : Host.Outcome State Fault Refusal :=
  .next (s.updTeam team (fun T => { T with refusals := 0 }))

end Machine
end Sys2Proof
end

