-- ==== Sys2Proof/Machine/Uniform.lean ====
section
/-! DEFINITION. The meanings of the uniform words of group 0x4 (08 R184 to R186). -/

set_option Elab.async false

namespace Sys2Proof
namespace Machine

/-- The head of a word whose PG is zero. -/
def openHd (sw : Bool) : Hd := { sw, neg := false, pg := 0 }

/-- The 64-bit pattern of a second operand (08 R185, R186). -/
def kOperand (s : State) (r : SlotRef) : KSrc → Nat
  | .reg k => kreg s r k
  | .imm v => pat v 64

/-- The value of a second operand at a type (08 R184, R185): a register is truncated to it; an immediate is what it is. -/
def kSecond (s : State) (r : SlotRef) (t : Ty) : KSrc → Int
  | .reg k => kSrc t (kreg s r k)
  | .imm v => v

/-- A result of a type written to all 64 bits of a uniform register (08 R184). -/
def kResult (t : Ty) (sat : Bool) (v : Int) : Nat := pat (toType t sat v) 64

/-- KADD to KSHR (08 R184, R185): `v` of the sources at the type and of the second one's 64-bit pattern. -/
def kRow (x : KBinOp) (sat : Bool) (v : Int → Int → Nat → Int) (s : State) : Host.Outcome State Fault Refusal :=
  bodyWord (WordInfo.plain (openHd x.sw) 4 [] [] true) (fun s r R _ =>
    .done (uniEff s r R x.kd (kResult x.ty (sat && x.sat)
      (v (kSrc x.ty (kreg s r x.ka)) (kSecond s r x.ty x.x) (kOperand s r x.x))))) s

/-- KADD. -/
def execKadd (x : KBinOp) (s : State) : Host.Outcome State Fault Refusal := kRow x true (fun a b _ => a + b) s
/-- KSUB. -/
def execKsub (x : KBinOp) (s : State) : Host.Outcome State Fault Refusal := kRow x true (fun a b _ => a - b) s
/-- KMUL. -/
def execKmul (x : KBinOp) (s : State) : Host.Outcome State Fault Refusal := kRow x true (fun a b _ => a * b) s
/-- KAND. -/
def execKand (x : KBinOp) (s : State) : Host.Outcome State Fault Refusal :=
  kRow x false (fun a b _ => patVal x.ty (pat a x.ty.bits &&& pat b x.ty.bits)) s
/-- KOR. -/
def execKor (x : KBinOp) (s : State) : Host.Outcome State Fault Refusal :=
  kRow x false (fun a b _ => patVal x.ty (pat a x.ty.bits ||| pat b x.ty.bits)) s
/-- KSHL: the count is the whole 64-bit pattern. -/
def execKshl (x : KBinOp) (s : State) : Host.Outcome State Fault Refusal := kRow x true (fun a _ c => shlVal x.ty.bits a c) s
/-- KSHR: arithmetic for a signed type, logical for an unsigned one. -/
def execKshr (x : KBinOp) (s : State) : Host.Outcome State Fault Refusal :=
  kRow x false (fun a _ c =>
    if x.ty.signed then shraVal x.ty.bits (pat a x.ty.bits) c else patVal x.ty (shrVal x.ty.bits (pat a x.ty.bits) c)) s

/-- KMOVI (08 R185). -/
def execKmovi (x : KMovOp) (s : State) : Host.Outcome State Fault Refusal :=
  bodyWord (WordInfo.plain (openHd x.sw) 4 [] [] true) (fun s r R _ =>
    .done (uniEff s r R x.kd (kResult x.ty false (if x.ty.signed then extS x.imm 21 else extZ x.imm 21)))) s

/-- KMOVHI (08 R185). -/
def execKmovhi (x : KMovOp) (s : State) : Host.Outcome State Fault Refusal :=
  bodyWord (WordInfo.plain (openHd x.sw) 4 [] [] true) (fun s r R _ =>
    .done (uniEff s r R x.kd (kResult x.ty false (readInt x.ty (x.imm % 2 ^ 20 * 2 ^ 12))))) s

/-- KFROM (08 R186): the lowest participating lane's value; with none the register stays. -/
def execKfrom (x : KFromOp) (s : State) : Host.Outcome State Fault Refusal :=
  bodyWord { WordInfo.plain x.hd 4 [x.a] [] (intW x.a) with lowest := true } (fun s r R m =>
    match Mask.lowest m with
    | some l => .done (uniEff s r R x.kd (kResult x.ty false (((s.gang r.gang).lane l).src x.ty x.a)))
    | none => .done s) s

/-- KTO (08 R186): the register at the type, in every participating lane. -/
def execKto (x : KToOp) (s : State) : Host.Outcome State Fault Refusal :=
  bodyWord (WordInfo.plain x.hd 4 [] [x.d] (intW x.d)) (fun s r R m =>
    let v := kSrc x.ty (kreg s r x.ka)
    .done (fixedEff s r R m (fun _ _ => [wrInt x.d x.ty x.sat v]))) s

/-- KCMP (08 R186): evaluated once. -/
def execKcmp (x : KCmpOp) (s : State) : Host.Outcome State Fault Refusal :=
  bodyWord { WordInfo.plain x.hd 4 [] [] true with pf := true } (fun s r R m =>
    let b := cndHolds x.cnd (kSrc x.ty (kreg s r x.ka)) (kSrc x.ty (kOperand s r x.x))
    .done (fixedEff s r R m (fun _ _ => [.pr x.p b]))) s

end Machine
end Sys2Proof
end

