-- ==== Sys2Proof/Machine/Dispatch.lean ====
section
/-! DEFINITION. Dispatch: one meaning per constructor of Instr. -/

namespace Sys2Proof
namespace Machine

/-- The effect of a row of the table on the machine. -/
def exec (i : Instr) (s : State) : Host.Outcome State Fault Refusal :=
  match i with
  | .trace x => Sys2Proof.Machine.execTrace x s
  | .grd x => Sys2Proof.Machine.execGrd x s
  | .nop x => Sys2Proof.Machine.execNop x s
  | .next x => Sys2Proof.Machine.execNext x s
  | .jmp x => Sys2Proof.Machine.execJmp x s
  | .jsel x => Sys2Proof.Machine.execJsel x s
  | .jtab x => Sys2Proof.Machine.execJtab x s
  | .call x => Sys2Proof.Machine.execCall x s
  | .callt x => Sys2Proof.Machine.execCallt x s
  | .ret x => Sys2Proof.Machine.execRet x s
  | .loop x => Sys2Proof.Machine.execLoop x s
  | .exit x => Sys2Proof.Machine.execExit x s
  | .yield x => Sys2Proof.Machine.execYield x s
  | .barw x => Sys2Proof.Machine.execBarw x s
  | .add x => Sys2Proof.Machine.execAdd x s
  | .sub x => Sys2Proof.Machine.execSub x s
  | .addc x => Sys2Proof.Machine.execAddc x s
  | .subb x => Sys2Proof.Machine.execSubb x s
  | .neg x => Sys2Proof.Machine.execNeg x s
  | .abs x => Sys2Proof.Machine.execAbs x s
  | .min x => Sys2Proof.Machine.execMin x s
  | .max x => Sys2Proof.Machine.execMax x s
  | .clamp x => Sys2Proof.Machine.execClamp x s
  | .mul x => Sys2Proof.Machine.execMul x s
  | .mulhi x => Sys2Proof.Machine.execMulhi x s
  | .mad x => Sys2Proof.Machine.execMad x s
  | .sad x => Sys2Proof.Machine.execSad x s
  | .and x => Sys2Proof.Machine.execAnd x s
  | .or x => Sys2Proof.Machine.execOr x s
  | .xor x => Sys2Proof.Machine.execXor x s
  | .andn x => Sys2Proof.Machine.execAndn x s
  | .orn x => Sys2Proof.Machine.execOrn x s
  | .shl x => Sys2Proof.Machine.execShl x s
  | .shr x => Sys2Proof.Machine.execShr x s
  | .shra x => Sys2Proof.Machine.execShra x s
  | .rotl x => Sys2Proof.Machine.execRotl x s
  | .fshl x => Sys2Proof.Machine.execFshl x s
  | .popc x => Sys2Proof.Machine.execPopc x s
  | .clz x => Sys2Proof.Machine.execClz x s
  | .ctz x => Sys2Proof.Machine.execCtz x s
  | .brev x => Sys2Proof.Machine.execBrev x s
  | .bfx x => Sys2Proof.Machine.execBfx x s
  | .bfi x => Sys2Proof.Machine.execBfi x s
  | .mov x => Sys2Proof.Machine.execMov x s
  | .sel x => Sys2Proof.Machine.execSel x s
  | .xt x => Sys2Proof.Machine.execXt x s
  | .cmp x => Sys2Proof.Machine.execCmp x s
  | .addi x => Sys2Proof.Machine.execAddi x s
  | .andi x => Sys2Proof.Machine.execAndi x s
  | .ori x => Sys2Proof.Machine.execOri x s
  | .xori x => Sys2Proof.Machine.execXori x s
  | .shli x => Sys2Proof.Machine.execShli x s
  | .shri x => Sys2Proof.Machine.execShri x s
  | .shrai x => Sys2Proof.Machine.execShrai x s
  | .cmpi x => Sys2Proof.Machine.execCmpi x s
  | .movi x => Sys2Proof.Machine.execMovi x s
  | .movhi x => Sys2Proof.Machine.execMovhi x s
  | .muli x => Sys2Proof.Machine.execMuli x s
  | .pand x => Sys2Proof.Machine.execPand x s
  | .por x => Sys2Proof.Machine.execPor x s
  | .pxor x => Sys2Proof.Machine.execPxor x s
  | .pnot x => Sys2Proof.Machine.execPnot x s
  | .pset x => Sys2Proof.Machine.execPset x s
  | .pget x => Sys2Proof.Machine.execPget x s
  | .vote x => Sys2Proof.Machine.execVote x s
  | .shfl x => Sys2Proof.Machine.execShfl x s
  | .elect x => Sys2Proof.Machine.execElect x s
  | .movs x => Sys2Proof.Machine.execMovs x s
  | .kadd x => Sys2Proof.Machine.execKadd x s
  | .ksub x => Sys2Proof.Machine.execKsub x s
  | .kmul x => Sys2Proof.Machine.execKmul x s
  | .kand x => Sys2Proof.Machine.execKand x s
  | .kor x => Sys2Proof.Machine.execKor x s
  | .kshl x => Sys2Proof.Machine.execKshl x s
  | .kshr x => Sys2Proof.Machine.execKshr x s
  | .kmovi x => Sys2Proof.Machine.execKmovi x s
  | .kmovhi x => Sys2Proof.Machine.execKmovhi x s
  | .kfrom x => Sys2Proof.Machine.execKfrom x s
  | .kto x => Sys2Proof.Machine.execKto x s
  | .kcmp x => Sys2Proof.Machine.execKcmp x s
  | .fadd x => Sys2Proof.Machine.execFadd x s
  | .fsub x => Sys2Proof.Machine.execFsub x s
  | .fmul x => Sys2Proof.Machine.execFmul x s
  | .ffma x => Sys2Proof.Machine.execFfma x s
  | .fmin x => Sys2Proof.Machine.execFmin x s
  | .fmax x => Sys2Proof.Machine.execFmax x s
  | .fcmp x => Sys2Proof.Machine.execFcmp x s
  | .frnd x => Sys2Proof.Machine.execFrnd x s
  | .fclass x => Sys2Proof.Machine.execFclass x s
  | .fadd2 x => Sys2Proof.Machine.execFadd2 x s
  | .fmul2 x => Sys2Proof.Machine.execFmul2 x s
  | .ffma2 x => Sys2Proof.Machine.execFfma2 x s
  | .fdot4 x => Sys2Proof.Machine.execFdot4 x s
  | .frcp x => Sys2Proof.Machine.execFrcp x s
  | .frsq x => Sys2Proof.Machine.execFrsq x s
  | .fsqrt x => Sys2Proof.Machine.execFsqrt x s
  | .fdiv x => Sys2Proof.Machine.execFdiv x s
  | .fexp2 x => Sys2Proof.Machine.execFexp2 x s
  | .flog2 x => Sys2Proof.Machine.execFlog2 x s
  | .fsin x => Sys2Proof.Machine.execFsin x s
  | .fcos x => Sys2Proof.Machine.execFcos x s
  | .cvt x => Sys2Proof.Machine.execCvt x s
  | .cvti x => Sys2Proof.Machine.execCvti x s
  | .fscale x => Sys2Proof.Machine.execFscale x s
  | .qblk x => Sys2Proof.Machine.execQblk x s
  | .dqblk x => Sys2Proof.Machine.execDqblk x s
  | .req x => Sys2Proof.Machine.execReq x s
  | .had x => Sys2Proof.Machine.execHad x s
  | .ld x => Sys2Proof.Machine.execLd x s
  | .st x => Sys2Proof.Machine.execSt x s
  | .ldx x => Sys2Proof.Machine.execLdx x s
  | .stx x => Sys2Proof.Machine.execStx x s
  | .lda x => Sys2Proof.Machine.execLda x s
  | .ldaRmt x => Sys2Proof.Machine.execLdaRmt x s
  | .stl x => Sys2Proof.Machine.execStl x s
  | .recld x => Sys2Proof.Machine.execRecld x s
  | .recordLanding team q => Sys2Proof.Machine.execRecordLanding team q s
  | .recinv x => Sys2Proof.Machine.execRecinv x s
  | .pref x => Sys2Proof.Machine.execPref x s
  | .cwb x => Sys2Proof.Machine.execCwb x s
  | .lds x => Sys2Proof.Machine.execLds x s
  | .sts x => Sys2Proof.Machine.execSts x s
  | .ldv x => Sys2Proof.Machine.execLdv x s
  | .stv x => Sys2Proof.Machine.execStv x s
  | .ldg x => Sys2Proof.Machine.execLdg x s
  | .stg x => Sys2Proof.Machine.execStg x s
  | .ldp x => Sys2Proof.Machine.execLdp x s
  | .stp x => Sys2Proof.Machine.execStp x s
  | .ldh x => Sys2Proof.Machine.execLdh x s
  | .sth x => Sys2Proof.Machine.execSth x s
  | .ldc x => Sys2Proof.Machine.execLdc x s
  | .atom x => Sys2Proof.Machine.execAtom x s
  | .red x => Sys2Proof.Machine.execRed x s
  | .atoms x => Sys2Proof.Machine.execAtoms x s
  | .reds x => Sys2Proof.Machine.execReds x s
  | .fence x => Sys2Proof.Machine.execFence x s
  | .reductionApply t => Sys2Proof.Machine.execReductionApply t s
  | .charge x => Sys2Proof.Machine.execCharge x s
  | .mma x => Sys2Proof.Machine.execMma x s
  | .accz x => Sys2Proof.Machine.execAccz x s
  | .accld x => Sys2Proof.Machine.execAccld x s
  | .accst x => Sys2Proof.Machine.execAccst x s
  | .accq x => Sys2Proof.Machine.execAccq x s
  | .msync x => Sys2Proof.Machine.execMsync x s
  | .matrixCommandStart cmd => Sys2Proof.Machine.execMatrixCommandStart cmd s
  | .operandsConsumed cmd => Sys2Proof.Machine.execOperandsConsumed cmd s
  | .matrixCommandRetire cmd => Sys2Proof.Machine.execMatrixCommandRetire cmd s
  | .cpy x => Sys2Proof.Machine.execCpy x s
  | .cpyg x => Sys2Proof.Machine.execCpyg x s
  | .cpyrd x => Sys2Proof.Machine.execCpyrd x s
  | .copyAccept r => Sys2Proof.Machine.execCopyAccept r s
  | .granuleRequest core => Sys2Proof.Machine.execGranuleRequest core s
  | .granuleLand copy granule => Sys2Proof.Machine.execGranuleLand copy granule s
  | .copyCompletion copy => Sys2Proof.Machine.execCopyCompletion copy s
  | .batchCompletion gang lane => Sys2Proof.Machine.execBatchCompletion gang lane s
  | .cpyx x => Sys2Proof.Machine.execCpyx x s
  | .bseal x => Sys2Proof.Machine.execBseal x s
  | .bwait x => Sys2Proof.Machine.execBwait x s
  | .btest x => Sys2Proof.Machine.execBtest x s
  | .barinit x => Sys2Proof.Machine.execBarinit x s
  | .bararv x => Sys2Proof.Machine.execBararv x s
  | .barexp x => Sys2Proof.Machine.execBarexp x s
  | .bartst x => Sys2Proof.Machine.execBartst x s
  | .cbar x => Sys2Proof.Machine.execCbar x s
  | .gbar x => Sys2Proof.Machine.execGbar x s
  | .gsync x => Sys2Proof.Machine.execGsync x s
  | .barrierCompletion b => Sys2Proof.Machine.execBarrierCompletion b s
  | .waitm x => Sys2Proof.Machine.execWaitm x s
  | .waitmWake r spurious => Sys2Proof.Machine.execWaitmWake r spurious s
  | .drain x => Sys2Proof.Machine.execDrain x s
  | .drainSweep launch => Sys2Proof.Machine.execDrainSweep launch s
  | .lnch x => Sys2Proof.Machine.execLnch x s
  | .spawn x => Sys2Proof.Machine.execSpawn x s
  | .spawnBinTimerExpiry core bin => Sys2Proof.Machine.execSpawnBinTimerExpiry core bin s
  | .spawnedGangForms core bin => Sys2Proof.Machine.execSpawnedGangForms core bin s
  | .claim x => Sys2Proof.Machine.execClaim x s
  | .claimGrant tile => Sys2Proof.Machine.execClaimGrant tile s
  | .release x => Sys2Proof.Machine.execRelease x s
  | .tilePass tile => Sys2Proof.Machine.execTilePass tile s
  | .coreg x => Sys2Proof.Machine.execCoreg x s
  | .tileq x => Sys2Proof.Machine.execTileq x s
  | .recallDelivery tile => Sys2Proof.Machine.execRecallDelivery tile s
  | .castoffBoundOverrun gang => Sys2Proof.Machine.execCastoffBoundOverrun gang s
  | .codone x => Sys2Proof.Machine.execCodone x s
  | .cosumm x => Sys2Proof.Machine.execCosumm x s
  | .corefuse x => Sys2Proof.Machine.execCorefuse x s
  | .forcedStrip tile why => Sys2Proof.Machine.execForcedStrip tile why s
  | .loanRevocation tile => Sys2Proof.Machine.execLoanRevocation tile s
  | .refusalWindowExpiry team => Sys2Proof.Machine.execRefusalWindowExpiry team s
  | .trapi x => Sys2Proof.Machine.execTrapi x s
  | .eret x => Sys2Proof.Machine.execEret x s
  | .ctlr x => Sys2Proof.Machine.execCtlr x s
  | .ctlw x => Sys2Proof.Machine.execCtlw x s
  | .timerWrite x => Sys2Proof.Machine.execTimerWrite x s
  | .rflagClear x => Sys2Proof.Machine.execRflagClear x s
  | .resumeWrite x => Sys2Proof.Machine.execResumeWrite x s
  | .tlbi x => Sys2Proof.Machine.execTlbi x s
  | .tlbiCompletion gang => Sys2Proof.Machine.execTlbiCompletion gang s
  | .tlbsync x => Sys2Proof.Machine.execTlbsync x s
  | .icinv x => Sys2Proof.Machine.execIcinv x s
  | .sample x => Sys2Proof.Machine.execSample x s
  | .meterr x => Sys2Proof.Machine.execMeterr x s
  | .ctxsv x => Sys2Proof.Machine.execCtxsv x s
  | .ctxld x => Sys2Proof.Machine.execCtxld x s
  | .idle x => Sys2Proof.Machine.execIdle x s
  | .timerExpiry core => Sys2Proof.Machine.execTimerExpiry core s
  | .longLatencyLanding r => Sys2Proof.Machine.execLongLatencyLanding r s
  | .traceResolution r => Sys2Proof.Machine.execTraceResolution r s
  | .undoPairAcquire r => Sys2Proof.Machine.execUndoPairAcquire r s
  | .overflowRowFill gang row => Sys2Proof.Machine.execOverflowRowFill gang row s
  | .forcedQueueJoin gang => Sys2Proof.Machine.execForcedQueueJoin gang s
  | .trapDelivery r => Sys2Proof.Machine.execTrapDelivery r s
  | .translationWalk core vd va acc user => Sys2Proof.Machine.execTranslationWalk core vd va acc user s
  | .dispatchVisit panel => Sys2Proof.Machine.execDispatchVisit panel s
  | .teamRetirement team => Sys2Proof.Machine.execTeamRetirement team s
  | .teamEnd team cause detail => Sys2Proof.Machine.execTeamEnd team cause detail s
  | .preemptionRequest team src => Sys2Proof.Machine.execPreemptionRequest team src s
  | .drainAllowanceExpiry team => Sys2Proof.Machine.execDrainAllowanceExpiry team s
  | .flushAndRestart team => Sys2Proof.Machine.execFlushAndRestart team s
  | .save team => Sys2Proof.Machine.execSave team s
  | .restore image => Sys2Proof.Machine.execRestore image s
  | .sliceEnd panel => Sys2Proof.Machine.execSliceEnd panel s
  | .sliceStart panel => Sys2Proof.Machine.execSliceStart panel s
  | .deadlockWalk panel => Sys2Proof.Machine.execDeadlockWalk panel s
  | .meterAccrual team meter amount => Sys2Proof.Machine.execMeterAccrual team meter amount s
  | .usageReport buf => Sys2Proof.Machine.execUsageReport buf s
  | .errorCounters buf => Sys2Proof.Machine.execErrorCounters buf s
  | .readiness buf => Sys2Proof.Machine.execReadiness buf s
  | .secondStageInvalidation buf => Sys2Proof.Machine.execSecondStageInvalidation buf s
  | .registration buf => Sys2Proof.Machine.execRegistration buf s
  | .doorbell handle value => Sys2Proof.Machine.execDoorbell handle value s
  | .panelDescriptorWrite panel d => Sys2Proof.Machine.execPanelDescriptorWrite panel d s
  | .meterIdentityRegister ident on => Sys2Proof.Machine.execMeterIdentityRegister ident on s
  | .hostCxlMemAccess vf q => Sys2Proof.Machine.execHostCxlMemAccess vf q s
  | .purlFlitReceive link seq crcOk src q => Sys2Proof.Machine.execPurlFlitReceive link seq crcOk src q s
  | .peerRequest src q => Sys2Proof.Machine.execPeerRequest src q s
  | .linkDown link => Sys2Proof.Machine.execLinkDown link s
  | .poisonConsumed team detail => Sys2Proof.Machine.execPoisonConsumed team detail s
  | .patrolScrub vault => Sys2Proof.Machine.execPatrolScrub vault s
  | .functionReady f => Sys2Proof.Machine.execFunctionReady f s
  | .virtualDeviceDescriptorWrite panel vd d => Sys2Proof.Machine.execVirtualDeviceDescriptorWrite panel vd d s
  | .hostQueueHandleBind panel handle leaf => Sys2Proof.Machine.execHostQueueHandleBind panel handle leaf s
  | .outsideValueArrival r => Sys2Proof.Machine.execOutsideValueArrival r s
  | .throttleStop => Sys2Proof.Machine.execThrottleStop s
  | .coldReset => Sys2Proof.Machine.execColdReset s
  | .throttleStart => Sys2Proof.Machine.execThrottleStart s

end Machine
end Sys2Proof
end

