-- ==== Sys2Proof/Machine/Sched.lean ====
section
/-! DEFINITION. What happens next (log 1): the agenda's first entry, or else the first event that is due of itself, the next word that a
scheduler selects (19 R345, 04 R93), or a cycle in which nothing issues. -/

set_option Elab.async false

namespace Sys2Proof
namespace Machine

/-- What a step does: a row of the table takes place in a state, or the state is as given. -/
inductive Todo
  | run (i : Instr) (s : State)
  | done (s : State)

/-- The word that a slot issues: its header at an entry, once it can be fetched, or the next word of its trace, whose position and encoding are
checked first (04 R79, 07 R159). -/
def issueAt (s : State) (r : SlotRef) : Todo :=
  let s := { s with cur := r }
  match (s.slot r).run with
  | none =>
    if fetchUnready s r then .done (s.setWait r .unready)
    else
      match fetchTrace s r with
      | (s, .inl (c, d)) => .done (entryTrap s r c noOrd d)
      | (s, .inr (h, ws)) =>
        match cachedTrace s (coreOf r.gang) (gangCtx s r).1 (s.slot r).entry with
        | some e => if s.now < e.ready then .done (s.setSlot r ((s.slot r).heldTill e.ready 9)) else .run (.trace h) s
        | none => .done (missTrace s r h ws)
  | some R =>
    let w := ((R.words[R.pos]?).getD 0).toNat
    let w2 := ((R.words[R.pos + 1]?).getD 0).toNat
    let op := opOf w
    let misplaced : Bool := if R.pos < R.hdr.len then opIsHeader op || opIsTerm op else !opIsTerm op
    if misplaced then .done (atIssue s r R 3)
    else
      match decodeWord w w2 with
      | some i => .run i s
      | none =>
        -- a JSEL whose first word is sound is at fault in its second (07 R151, R159)
        if isJsel (BitVec.ofNat 64 w) && (decodeWord w (0x03E * 2 ^ 53)).isSome then .done (atIssueAt s r R 1 (R.pos + 2))
        else .done (atIssue s r R 1)

/-- The slot whose word a scheduler selects. -/
def selectSlot (s : State) (core sched : Nat) : Option SlotRef :=
  (selectGang s core sched).bind (fun g => (nextSlot s g).map (fun b => { gang := g, b }))

/-- The first word of what a slot issues next. -/
def nextWord (s : State) (r : SlotRef) : Option Word64 := (s.slot r).run.bind (fun R => R.words[R.pos]?)

/-- The place of a slot among those of a twin that issue in one cycle: the CTLWs of a core in the order of its schedulers (18 R313), and then the even
core's words first, by the number of their gang (01 R19, 12 R260). Of equal numbers the gang at the lower place goes first, and CTLWs go before
other words (DESIGN CHOICE, log 70). -/
def turnOf (s : State) (r : SlotRef) : Nat :=
  let parity := coreOf r.gang % 2
  if (nextWord s r).any (fun w => opOf w.toNat == 0x383) then 2 ^ 8 * parity + schedOf r.gang
  else 2 ^ 20 + 2 ^ 16 * parity + 2 ^ 8 * ((s.gang r.gang).num % 2 ^ 8) + gslotOf r.gang

/-- The slots that the free schedulers of a twin select. -/
def twinSlots (s : State) (twin : Nat) : List SlotRef :=
  (List.range 8).filterMap (fun i => if schedTaken (s.core (2 * twin + i / 4)) (i % 4) then none else selectSlot s (2 * twin + i / 4) (i % 4))

/-- The slot of a twin that issues next in this cycle. -/
def twinIssue (s : State) (twin : Nat) : Option SlotRef :=
  (twinSlots s twin).foldl (fun (best : Option SlotRef) r => match best with
    | some b => if turnOf s r < turnOf s b then some r else some b
    | none => some r) none

/-- Core cycles within which every event is added to its meter: 4,096 of the management core's (23 R385). -/
def accrualCycles : Nat := 8192

/-- Core cycles between two walks of the wait-for table: 65,536 of the management core's (21 R373). -/
def walkCycles : Nat := 131072

/-- The walks of the wait-for table that come next, one for each enabled panel (21 R373). -/
def walksDue (s : State) : State :=
  { s with agenda := (s.panels.filter (fun e => bit (descWord e.2 0) 63)).map (fun e => Agendum.event (.deadlockWalk e.1)) ++ s.agenda }

/-- A cycle ends on every core that has gangs or counts cycles: it is counted (19 R346, R347), lines for which there is no room are replaced (06 R132,
R133), stores for which there was no room in the queue look again (25 R397), and the next cycle begins. -/
def cyclePassed (s : State) : State :=
  let cores := s.cores.map (·.1)
  let s := cores.foldl trimCaches (cores.foldl tickCore s)
  { s.wakeAll .queue with mclock := s.mclock + 1 }

/-- A cycle passes. Submissions whose reading ends with it are queued (27 R412), the meters are brought up to date in time (23 R385), and the wait-for
tables are walked (21 R373). -/
def cycleAll (s : State) : State :=
  let s := finishDoorbells (cyclePassed s)
  let s := if s.mclock % accrualCycles = 0 then accrueAll s else s
  if s.mclock % walkCycles = 0 then walksDue s else s

/-- A word selected by a scheduler of a core, which selects one in a cycle at most (19 R345), where it is that word's turn in its twin. -/
def issueFrom (s : State) (core sched : Nat) : Todo :=
  match twinIssue s (core / 2) with
  | some r => if coreOf r.gang = core ∧ schedOf r.gang = sched then issueAt s r else .done s
  | none => .done s

/-- The event that a slot's wait makes due (03 R64, 04 R83, R88, 13 R275, R286, R288, 18 R319). -/
def slotDue (s : State) (r : SlotRef) : Option Instr :=
  let X := s.slot r
  if X.mask = 0 then none
  else
    match X.wait with
    | .landing | .trapping .. => if X.run.any (returned s) then some (.longLatencyLanding r) else none
    | .resolving => if X.run.any (fun R => R.landable && returned s R) then some (.traceResolution r) else none
    | .fill n => some (.overflowRowFill r.gang n)
    | .undo => if (s.core (coreOf r.gang)).undoWait.head? = some r ∧ pairFree s (coreOf r.gang) then some (.undoPairAcquire r) else none
    | .trapped _ =>
      if (s.gang r.gang).co.isSome then some (.castoffBoundOverrun r.gang)
      else if X.hnd.isNone && !((s.gang r.gang).slot (!r.b)).hnd.isSome && !isSvc r.gang && deliveryReady s r then some (.trapDelivery r) else none
    | .barrier b ph _ => if (barGet s b).any (fun (x : Barrier) => x.phase != ph) then some (.barrierCompletion b) else none
    | .batch l n => if n ≤ (laneBatch s r.gang l).done then some (.batchCompletion r.gang l) else none
    | .bwait l n => if n ≤ (laneBatch s r.gang l).done then some (.batchCompletion r.gang l) else none
    | .watch _ _ => if watchDue s r then some (.waitmWake r false) else none
    | .copy q => if copyRecReady s r q then some (.copyAccept r) else none
    | .outside _ _ => if X.run.any (fun (R : Run) => R.back ≤ s.now) then some (.outsideValueArrival r) else none
    | .loading ts _ _ => if recipesRun s ts then none else some (.outsideValueArrival r)
    | .overrun => if gangReturned s r.gang then some (.castoffBoundOverrun r.gang) else none
    | .none | .record _ | .seal _ | .unready | .queue | .join | .claim .. | .spawn .. | .tlbsync | .stopped | .idle | .saving .. => none

/-- Records under way in a team. -/
def recDue (s : State) : Option Instr :=
  s.teams.findSome? (fun e => (firstBelow e.2.recs.length (fun q => ((e.2.recs[q]?).bind (·.pending)).any (fun p =>
    p.back ≤ s.now))).map (fun q => Instr.recordLanding e.1 q))

/-- The oldest contribution on its way, applied alone (10 R227). -/
def redDue (s : State) : Option Instr := s.reds.head?.map (fun d => .reductionApply (.leaf d.id))

/-- A bin whose gang can form (01 R19). -/
def binDue (s : State) : Option Instr :=
  s.cores.findSome? (fun e => (firstBelow e.2.bins.length (fun i => (formable s e.1 i).isSome)).map (fun i => Instr.spawnedGangForms e.1 i))

/-- A pair of sweeps of a launch's counters that will find them equal (13 R291). -/
def sweepDue (s : State) : Option Instr :=
  (s.launches.find? (fun e => e.2.sweep.isSome && e.2.sent == e.2.recv && !copyChecked s e.1)).map (fun e => .drainSweep e.1)

/-- What is due of a team: its retirement, or a step of its pre-emption (01 R20, 21 R366, R367). -/
def teamDue (s : State) (t : Nat) : Option Instr :=
  if teamQuiet s t then some (.teamRetirement t)
  else if drainOver s t then some (.drainAllowanceExpiry t)
  else if flushDue s t then some (.flushAndRestart t)
  else if saveDue s t then some (.save t)
  else none

/-- What is due of a panel: a slice, a restore or a visit (23 R381, 21 R370, 19 R339). -/
def panelDue (s : State) (panel : Nat) (d : List Word64) : Option Instr :=
  if !bit (descWord d 0) 63 then none
  else if sliceIdle s panel || sliceOver s panel then some (.sliceEnd panel)
  else if (sliceFree s panel).isSome then some (.sliceStart panel)
  else
    match s.saved.find? (fun v => v.panel == panel && restoreDue s v) with
    | some v => some (.restore v.image)
    | none => if visitDue s panel then some (.dispatchVisit panel) else none

/-- The first of some events. -/
def firstDue : List (Unit → Option Instr) → Option Instr
  | [] => none
  | f :: fs => match f () with
    | some e => some e
    | none => firstDue fs

/-- The event takes place in a cycle that the spec fixes, so that no later one passes before it: the landing of results, the end of a trace, a value's
arrival, the end of a barrier's phase or of a cast-off routine (03 R64, 04 R88, 13 R275, 18 R312, 27 R422). -/
def timedEvent : Instr → Bool
  | .longLatencyLanding _ | .traceResolution _ | .outsideValueArrival _ | .barrierCompletion _ | .castoffBoundOverrun _ => true
  | _ => false

/-- An event that is due before the cycle ends. -/
def timedDue (s : State) : Option Instr :=
  firstDue [
    fun _ => (allSlots s).findSome? (fun r => (slotDue s r).filter timedEvent),
    fun _ => (barDue s).map Instr.barrierCompletion,
    fun _ => recDue s,
    fun _ => matDue s]

/-- The first event that is due of itself. -/
def nextEvent (s : State) : Option Instr :=
  firstDue [
    fun _ => (allSlots s).findSome? (slotDue s),
    fun _ => (barDue s).map Instr.barrierCompletion,
    fun _ => s.tiles.findSome? (fun e => tileDue s e.1 e.2),
    fun _ => recDue s,
    fun _ => matDue s,
    fun _ => copyDue s,
    fun _ => redDue s,
    fun _ => (s.gangs.find? (fun e => tlbiDue s e.1)).map (fun e => Instr.tlbiCompletion e.1),
    fun _ => if stage2Due s then some (.secondStageInvalidation s.mailbox.buf) else none,
    fun _ => binDue s,
    fun _ => sweepDue s,
    fun _ => s.teams.findSome? (fun e => teamDue s e.1),
    fun _ => s.panels.findSome? (fun e => panelDue s e.1 e.2)]

/-- The next word that some scheduler selects, of the first twin that has one (log 1). -/
def nextIssue (s : State) : Option SlotRef := s.gangs.findSome? (fun e => twinIssue s (coreOf e.1 / 2))

/-- A scheduler's issue in this cycle withheld, while the module throttles (27 R423), where it would issue. -/
def withholdIssue (s : State) (core sched : Nat) : State :=
  let c := s.core core
  if s.throttled && !schedTaken c sched then s.setCore core { c with withheld := c.withheld ++ [sched] } else s

/-- What happens next (log 1). -/
def nextTodo (s : State) : Todo :=
  match s.agenda with
  | .issue core sched :: rest => issueFrom { s with agenda := rest } core sched
  | .event i :: rest => .run i { s with agenda := rest }
  | .cycle :: rest => match timedDue s with
    | some i => .run i s
    | none => .done (cycleAll { s with agenda := rest })
  | .evict core line :: rest =>
    let s := evictLine { s with agenda := rest } core line
    .done (s.setCore core { s.core core with cc := (s.core core).cc.filter (fun l => l.line != line) })
  | .dropTrace core va :: rest =>
    let c := s.core core
    .done ({ s with agenda := rest }.setCore core { c with traces := c.traces.filter (fun e => e.va != va) })
  | .keepTables die ctx va :: rest => .done (keepTables { s with agenda := rest } die ctx va)
  | .dropTable die key :: rest => .done { s with agenda := rest, tables := s.tables.filter (fun e => !(e.die == die && e.key == key)) }
  | .error e :: rest => .done (storageFails { s with agenda := rest } e)
  | .setup x :: rest => .done (setUp { s with agenda := rest } x)
  | .withhold core sched :: rest => .done (withholdIssue { s with agenda := rest } core sched)
  | .doorbellRead h :: rest => .done (doorbellRead { s with agenda := rest } h)
  | .hostStore a bs :: rest => .done (hostWr { s with agenda := rest } a bs)
  | .hostFlush line :: rest => .done (hostFlush { s with agenda := rest } line)
  | [] =>
    match nextEvent s with
    | some i => .run i s
    | none =>
      match nextIssue s with
      | some r => issueAt s r
      | none => .done (cycleAll s)

end Machine
end Sys2Proof
end

