-- ==== Sys2Proof/Machine/Place.lean ====
section
/-! DEFINITION. A word placed where a step takes its next instruction from (log 11): a gang resident on core 0 that issues it next, in the role
and the context in which the word acts. -/

set_option Elab.async false

namespace Sys2Proof
namespace Machine

/-- Values of a region control block for a team that stands for a placed program. -/
def Rcb.blank : Rcb :=
  { panel := 0, addr := 0, leaf := true, nq := 0, parent := 0, quantum := 1, prio := 0, fdom := 0, refb := 0, window := 1, cobnd := 65535,
    limq := 0xFFFF, limx := 0xFFFF, emax := 1, meter := 0, ovr := 0x3FF }

/-- A launch with an empty parameter block whose code region is all the addresses below 2^56 - 8. -/
def Launch.placed : Launch :=
  { panel := 0, vd := 0, rcb := 0, queue := 0, block := List.replicate 16 0, blockAddr := 0,
    desc := [0, 0, BitVec.ofNat 64 (2 ^ 56 - 8), 0, 0, 0, 0, 0], walk := 1, dispatched := 1, again := [], retired := 0, dropped := false,
    gbars := List.replicate 4 (Barrier.init 1), cbars := [(0, List.replicate 8 (Barrier.init 1))], sent := 0, recv := 0, sweep := none }

/-- A team of one gang with every stitch and a scratchpad of 8 KiB. -/
def Team.placed : Team :=
  { launch := 1, eff := Rcb.blank, idx := 0, core := 0, pos := 0, cluster := 0, cbar := 0, partner := none, ngang := 1, stitches := 1024, grant := 16,
    regRuns := [(0, 0, 16)], gmarks := [], spadBase := 0, scratch := 8192, bars := List.replicate 16 (Barrier.init 1),
    recs := List.replicate 64 RecSlot.init, reg := none, recallsTill := 0, refusals := 0, admitted := 0, seq := 0, resid := 0, winOff := 0, metered := 0,
    saves := 0, spawned := 0,
    stallTot := List.replicate 16 0, pre := .none, ended := none, image := none, remap := none }

/-- The role in which a word of an opcode acts (01 R17). -/
def placeRole (op : Nat) (w : Nat) : Role :=
  if op / 64 = 0xB then .m
  else if 0x300 ≤ op ∧ op ≤ 0x306 then .c
  else if op = 0x011 ∧ !bit w 21 then .c
  else .v

/-- The words open only to the service gang (18 R327, R328, R332). -/
def svcOp (op : Nat) : Bool := op == 0x387 || op == 0x389 || op == 0x38A || op == 0x38B

/-- A trap status for a placed handler. -/
def TrapInfo.placed : TrapInfo := { cause := 20, ord := 0, off := 0, kept := true, code := 0, detail := 0, resume := 0x1000 }

/-- The slot that issues a placed word: at the entry that holds a header, or in a trace at the word. -/
def placeSlot (op w0 w1 : Nat) : Slot :=
  let X : Slot := { Slot.free with mask := 0xFFFFFFFF, entry := 0x1000 }
  let X : Slot := if 0x380 < op ∧ op ≤ 0x388 ∧ op ≠ 0x387 then
      { X with hnd := some { trap := TrapInfo.placed, mask := 0xFFFFFFFF, tok := none, depth := 0 } }
    else X
  let h : Header := { guarded := op == 0x002, len := if opIsTerm op then 0 else 1, stop := false, ord := 0, grdn := b2n (op == 0x002), bufn := 0,
                      wset := 0, join := false, anch := false }
  if opIsHeader op then X
  else
    { X with pair := op == 0x002, run := some (Run.start h (BitVec.ofNat 64 w0 :: (if opIsTerm op then [BitVec.ofNat 64 w1]
        else [0x8100000000000000#64])) 0) }

/-- The translation through which a placed header is fetched: the first page of device memory, at its own address. -/
def placeTlb : TlbE :=
  { ctx := 0, va := 0, size := 0x10000, va1 := 0, size1 := 0x10000, ipa := 0, size2 := 0x10000, key := devKey 0 0, space := 2, r1 := true, w1 := true, x1 := true, u1 := true, r2 := true,
    w2 := true, x2 := true, dt := false, d := false, dkey := 0 }

/-- The trace of a placed header in the trace cache. -/
def placeTrace (w0 w1 : Nat) : TraceE :=
  { ctx := 0, va := 0x1000, words := BitVec.ofNat 64 w0 :: BitVec.ofNat 64 w1 :: List.replicate 128 0, ready := 0 }

/-- Every function of the module ready (27 R421). -/
def Ready.placed : Ready := { mgmt := true, cxl := true, purl := BitVec.allOnes 12, lpg := BitVec.allOnes 12, twins := BitVec.allOnes 96, vlayers := BitVec.allOnes 384 }

/-- The state with a word placed where the next step takes it. -/
def placeWord (s : State) (w : Nat) : State :=
  let w0 := w % 2 ^ 64
  let w1 := w / 2 ^ 64 % 2 ^ 64
  let op := opOf w0
  let g := if svcOp op then Config.serviceSlot else 0
  let co : Option Castoff := if 0x348 ≤ op ∧ op ≤ 0x34A then
      some { tile := 0, a := Slot.free, b := Slot.free, preds := [], fpsr := [], count := 0, bound := 65535, depth := 0 }
    else none
  let G : Gang := { Gang.blank with
    team := if svcOp op then none else some 1, role := placeRole op w0, a := placeSlot op w0 w1, live := 0xFFFFFFFF, bound := 1024, co }
  let s := s.setGang g G
  let s : State := if svcOp op then s else
    { (s.setTeam 1 Team.placed).setLaunch 1 Launch.placed with nextTeam := max s.nextTeam 2, nextLaunch := max s.nextLaunch 2 }
  let s := { s with ready := Ready.placed }
  let s := if opIsHeader op then
      let c := s.core 0
      { s.setCore 0 { c with tlb := placeTlb :: c.tlb, traces := placeTrace w0 w1 :: c.traces } with
        mem := (s.mem.writeN (devKey 0 0x1000) 8 w0).writeN (devKey 0 0x1008) 8 w1 }
    else s
  { s with agenda := [.issue 0 0] }

end Machine
end Sys2Proof
end

