-- ==== Sys2Proof/Machine/Step.lean ====
section
/-! DEFINITION. One step of the machine: what happens next (log 1) takes place. -/

set_option Elab.async false

namespace Sys2Proof
namespace Machine

/-- A step: the row of the table that happens next takes place, or what happens next is no row of it (log 1). -/
def step (s : State) : Host.Outcome State Fault Refusal :=
  match nextTodo s with
  | .run i s' => exec i s'
  | .done s' => .next s'

/-- The state with an instruction's words placed where the next step takes them (log 11). -/
def State.withFetchWord (s : State) (_nbits w : Nat) : State := placeWord s w

end Machine
end Sys2Proof
end

