-- ==== Sys2Proof/Safety.lean ====
section
/-! DEFINITION. What claims mean by a safe run, and the terms in which they speak of a word that issues: the conditions under which it has its own
effect (07 R159), what stands beside it untouched, and what it leaves in its gang. -/

set_option Elab.async false

namespace Sys2Proof
namespace Machine

/-- The memory of a state has its canonical form (log 3). -/
def State.memOk (s : State) : Prop := s.mem.wf = true

/-- A run of `n` steps, each of which answers a next state. -/
def State.runs : Nat → State → Option State
  | 0, s => some s
  | n + 1, s =>
    match step s with
    | .next s' => State.runs n s'
    | .fault _ => none
    | .refused _ => none

/-- The machine goes on for `n` steps from a state. -/
def State.safeFor (n : Nat) (s : State) : Prop := (s.runs n).isSome = true

/-! ## What the issue of a word counts -/

/-- A core but for what its schedulers issue in the cycle, its forced queue and its queue of held stores. -/
def Core.still (c : Core) : Core := { c with forced := [], busy := [], held := [] }

/-- A slot but for its place in the alternation of its gang's slots. -/
def Slot.still (X : Slot) : Slot := { X with stamp := 0 }

/-- A gang but for its starvation counter, the times of its accesses, its slots' places in their alternation and the count of its cast-off
routine. -/
def Gang.still (G : Gang) : Gang :=
  { G with starve := 0, loads := [], stores := [], fence := [], acq := [], a := G.a.still, b := G.b.still, co := G.co.map (fun (c : Castoff) => { c with count := 0 }) }

/-- Everything that is not a core, a gang or what the home caches hold: memory and its poison, teams, launches, tiles, quarters, commands under way, region control blocks,
queues, panels, meters, the mailbox, what is to happen next, and the rest of the module. -/
def State.rest (s : State) : State := { s with cores := [], gangs := [], home := [] }

/-- `t` agrees with `s` on all but its gangs, but for what an issue counts in a core: memory and the rest of the module, every core's clock, control
registers and caches, every team's barriers, records and registration. -/
structure Beside (s t : State) : Prop where
  rest : t.rest = s.rest
  cores : ∀ c, (t.core c).still = (s.core c).still

/-- `t` is `s` after an issue has been counted and nothing else. -/
structure Aside (s t : State) : Prop extends Beside s t where
  gangs : ∀ g, (t.gang g).still = (s.gang g).still

/-! ## A body word -/

/-- The slot at the cursor runs trace `R`, and a body word of which the shared rules know `w` passes every check of 07 R159 there: the
cast-off bound (11 R244), role, privilege and context (01 R17, 11 R243, 18 R309, R322), the words that a guarded trace forbids (04 R87),
illegal operands (03 R56), the header's counts (04 R79); its overflow rows are in the window (03 R70) and it reads no poisoned row (03 R57). -/
structure Issues (w : WordInfo) (s : State) (R : Run) : Prop where
  runs : liveRun s s.cur = some R
  bound : overBound (s.gang s.cur.gang) 1 = false
  allowed : w.allowed s s.cur = true
  guard : (R.hdr.guarded && w.noGuard) = false
  operands : (w.ok && (w.srcs ++ w.dsts).all (opndOk (stitchLimit s s.cur))) = true
  counts : w.within R = true
  window : missingRow s s.cur.gang (w.srcs ++ w.dsts) = none
  clean : readsPoison (s.gang s.cur.gang) (w.readers (participants s s.cur R w.hd w.memory)) w.srcs = false

/-- A trace but for its position, its pending results and the times of their return, its undo copies and its counts. -/
def Run.view (R : Run) : Run := { R with pos := 0, pends := [], back := 0, behind := 0, rows := [], undoRows := [], undoPF := [], nGrd := 0, nBuf := 0 }

/-- A slot but for its trace, its wait and its place in the alternation: lanes, entry, token, handler, resumption and undo pair. -/
def Slot.view (X : Slot) : Slot := { X with run := none, wait := .none, stamp := 0 }

/-- A gang but for its lanes, its uniform registers, the recency of its overflow window and the slot `b`. -/
def Gang.view (G : Gang) (b : Bool) : Gang :=
  { (G.setSlot b Slot.free).still with lanes := Vector.replicate 64 Lane.reset, k := Vector.replicate 64 0, window := [] }

/-- A body word of the slot at the cursor has issued and been passed: the gang's lanes are `lanes`, its uniform registers `k`, the pending
results `pends`; the slot stands at the next word, parked where the word ends a switch group with results pending (03 R64). -/
structure Goes (s t : State) (R : Run) (sw : Bool) (lanes : Nat → Lane) (k : Nat → Nat) (pends : List Pend) : Prop where
  lane : ∀ l, l < 64 → (t.gang s.cur.gang).lane l = lanes l
  uniform : ∀ i, i < 64 → kreg t s.cur i = k i
  run : ∃ R', (t.slot s.cur).run = some R' ∧ R'.pos = R.pos + 1 ∧ R'.pends = pends ∧ R'.view = R.view
  wait : (t.slot s.cur).wait = if sw && !pends.isEmpty then .landing else .none
  slot : (t.slot s.cur).view = (s.slot s.cur).view

/-- Such a word has changed nothing else of its gang, and no other gang; beside the gangs it has made `u`. -/
structure PassesTo (s u t : State) (R : Run) (sw : Bool) (lanes : Nat → Lane) (k : Nat → Nat) (pends : List Pend) : Prop
    extends Goes s t R sw lanes k pends where
  gang : (t.gang s.cur.gang).view s.cur.b = (s.gang s.cur.gang).view s.cur.b
  others : ∀ g, g ≠ s.cur.gang → (t.gang g).still = (s.gang g).still
  beside : Beside u t

/-- Such a word has changed nothing beside its gang. -/
abbrev Passes (s t : State) (R : Run) (sw : Bool) (lanes : Nat → Lane) (k : Nat → Nat) (pends : List Pend) : Prop :=
  PassesTo s s t R sw lanes k pends

/-- Lane `l` of the gang at the cursor. -/
def State.here (s : State) (l : Nat) : Lane := (s.gang s.cur.gang).lane l

/-- A fixed-latency word has issued (03 R63): in each participating lane the effects that `f` gives, and pending results of the same locations
are cancelled (03 R66). -/
def Writes (s t : State) (R : Run) (hd : Hd) (f : Nat → Lane → List LW) : Prop :=
  Passes s t R hd.sw
    (fun l => if Mask.has (participants s s.cur R hd false) l then (f l (s.here l)).foldl Lane.apply (s.here l) else s.here l)
    (kreg s s.cur) (cancelAll R.pends (participants s s.cur R hd false) (fun l => f l (s.here l)))

/-- A long-latency word has issued (03 R64 to R66): the effects that `f` gives each participating lane are pending. -/
def WritesLate (s t : State) (R : Run) (hd : Hd) (f : Nat → Lane → List LW) : Prop :=
  Passes s t R hd.sw s.here (kreg s s.cur)
    (cancelAll R.pends (participants s s.cur R hd false) (fun l => f l (s.here l))
      ++ (Mask.lanes (participants s s.cur R hd false)).flatMap (fun l => (f l (s.here l)).flatMap (pendOf l)))

/-- A uniform word has issued (03 R73): register `k` holds `v`. -/
def WritesUniform (s t : State) (R : Run) (sw : Bool) (k v : Nat) : Prop :=
  Passes s t R sw s.here (fun i => if i = k then v % 2 ^ 64 else kreg s s.cur i) (cancelUni R.pends k)

/-! ## A terminator -/

/-- The slot at the cursor runs trace `R`, and a terminator of which the shared rules know `w` passes every check of 07 R159 there; the first of two words
has issued (04 R100), before which the bound of a routine was checked for both. -/
structure TermIssues (w : TermInfo) (s : State) (R : Run) : Prop where
  runs : liveRun s s.cur = some R
  bound : (!R.half && overBound (s.gang s.cur.gang) w.words) = false
  allowed : w.allowed s s.cur = true
  watch : (!w.withWatch && R.hasWaitm) = false
  guard : (R.hdr.guarded && w.noGuard) = false
  operands : (w.ok && (w.srcs ++ w.dsts).all (opndOk (stitchLimit s s.cur))) = true
  counts : (R.hdr.guarded && decide (R.hdr.wset / 2 < (rowsAfter R w.dsts).length)) = false
  window : missingRow s s.cur.gang (w.srcs ++ w.dsts) = none
  whole : w.words = 2 → R.half = true

/-- A terminator of the slot at the cursor has issued (04 R88): the slot waits to resolve with it, at its offset in the trace; the gang's uniform
registers are `k` and the trace's pending results `pends`; no lane has changed, nothing else of the gang, no other gang, and nothing
beside. -/
structure Terminates (s t : State) (R : Run) (x : Term) (k : Nat → Nat) (pends : List Pend) : Prop where
  slot : t.slot s.cur = { s.slot s.cur with run := some { R with term := some (x, R.pos + 1), pends }, wait := .resolving,
                                            stamp := (t.slot s.cur).stamp }
  lane : ∀ l, l < 64 → (t.gang s.cur.gang).lane l = s.here l
  uniform : ∀ i, i < 64 → kreg t s.cur i = k i
  gang : (t.gang s.cur.gang).view s.cur.b = (s.gang s.cur.gang).view s.cur.b
  others : ∀ g, g ≠ s.cur.gang → (t.gang g).still = (s.gang g).still
  beside : Beside s t

/-! ## Memory as a slot sees it -/

/-- The key of a byte of a space as an access of a slot reaches it: in the scratchpad, absent beyond the allocation (06 R128); elsewhere through
a translation that the core has cached and that allows the access. `none` where the access would fault or walk, wait for a function that is not
ready (27 R421), or be turned away by a peer (27 R417). -/
def byteKey (s : State) (r : SlotRef) (space va : Nat) (a : Acc) : Option (Option Nat) :=
  if space = 0 then some (gangSpadKey s r.gang va)
  else if space = 5 ∧ accWrites a then none
  else
    let cx := gangCtx s r
    match (s.core (coreOf r.gang)).tlb.find? (fun e => e.covers cx.1 (va % 2 ^ 56) && !(accWrites a && e.dt && !e.d)) with
    | some e => (match e.check (va % 2 ^ 56) a cx.2 (some space) with
      | .ok _ k => if placeReady s (coreOf r.gang) k && !peerRefuses s k then some (some k) else none
      | .fault _ => none)
    | none => none

/-- The keys of a run of bytes. -/
def byteKeys (s : State) (r : SlotRef) (space va n : Nat) (a : Acc) : Option (List (Option Nat)) :=
  (List.range n).mapM (fun i => byteKey s r space (va + i) a)

/-- The byte that a load sees at a key: zero beyond an allocation (06 R128); the scratchpad's own; constant memory's through the constant cache (06
R133); elsewhere the core's view, in which a bypassing load uses no clean copy (10 R217). -/
def seenByte (s : State) (r : SlotRef) (space pol : Nat) : Option Nat → Byte
  | none => 0
  | some k =>
    if space = 0 then s.mem.read k
    else if space = 5 then (constLoad s (coreOf r.gang) k).2
    else if pol = 2 then dirtyByte s (coreOf r.gang) k
    else coreByte s (coreOf r.gang) k

/-- Lane `l` alone participates in a memory word, nothing that its core may read is poisoned and no write was lost, and no reduction is under way. -/
structure Alone (s : State) (R : Run) (hd : Hd) (l : Nat) : Prop where
  lane : l < 64
  only : participants s s.cur R hd true = 1#64 <<< l
  clean : unspoilt s (coreOf s.cur.gang) = true
  sound : ∀ u, doomed s u = false
  quiet : s.reds = []

/-- A store of lane `l` of trace `R` need not wait: it is buffered (04 R85), or the queue of held stores has room (25 R397) and what it writes back,
where it releases beyond the L1, can be sent (27 R421). -/
def storesNow (s : State) (R : Run) (l : Nat) (wide : Bool) : Prop :=
  R.hdr.guarded = true ∨
    (queueFull s s.cur.gang (1#64 <<< l) = false ∧ (wide = true → linesSent s (coreOf s.cur.gang) = true))

/-- The record slot `q` of the gang at the cursor holds a valid record `w` of format `f`. -/
def holdsRecord (s : State) (q w : Nat) (f : EFmt) : Prop :=
  ∃ b : BitVec 256, recSlot s s.cur.gang q = some { body := b, valid := true, pending := none } ∧ b.toNat = w ∧ efmtOf (recFmt w) = some f

/-- Index `i` of a record is element `j` under its bounds mode (06 R137), whose bytes lie at `keys` for an access of the slot at the cursor (06
R136). -/
def elemKeys (s : State) (w : Nat) (f : EFmt) (i : Int) (a : Acc) (j : Int) (keys : List (Option Nat)) : Prop :=
  boundsMode w i = .index j ∧
    byteKeys s s.cur (recSpace w) (elemBit w f j / 8) ((elemBit w f j % 8 + f.bits + 7) / 8) a = some keys

/-- A word that accesses elements by a record: what the rules of issue know of it, its record slot, its index with the immediate, how many elements
it accesses and how, the formats that it takes, whether it releases, and what it delivers of elements out of bounds in zero mode (06 R137). -/
structure RecWord where
  i : Instr
  info : WordInfo
  q : Nat
  x : Opnd
  imm : Int
  count : Nat
  acc : Acc
  fits : EFmt → Bool
  rel : Bool
  zero : EFmt → List LW

/-- The words that load by a record (10 R211, R219, R223). -/
def recLoads (x : LdOp) (y : ScMemOp) (z : AtomOp) : List RecWord :=
  let load (i : Instr) (ok : Bool) (c : Nat) : RecWord :=
    { i, info := memInfo x.hd 8 [x.x] [x.v] (addrW x.x && ok), q := x.q, x := x.x, imm := x.imm, count := c, acc := .read,
      fits := fun f => convOk f x.ty false, rel := false, zero := fun f => loadWrites x.v x.ty (List.replicate c (convLoad f x.ty 0)) }
  let acquire (i : Instr) : RecWord :=
    { i, info := plainInfo y.hd 8 [y.x] [y.v] (addrW y.x && y.v.w.stitches == y.ty.stitches), q := y.q, x := y.x, imm := y.imm, count := 1,
      acc := .read, fits := fun f => exactFmt f y.ty, rel := false, zero := fun f => loadWrites y.v y.ty [convLoad f y.ty 0] }
  [load (.ld x) (scalarV x.v x.ty) 1, load (.ldx x) (vecCount x.v x.ty != 0) (vecCount x.v x.ty), acquire (.lda y), acquire (.ldaRmt y),
   { i := .atom z, info := plainInfo z.hd 0xA [z.x, z.v] [atomDst z.v z.aop z.ty] (addrW z.x && atomV z.v z.aop z.ty), q := z.q, x := z.x,
     imm := 0, count := 1, acc := .readWrite, fits := fun f => f == .ty z.ty,
     rel := match z.ord with | .rel | .ar => true | .acq | .none => false, zero := fun _ => [.st z.v.start z.ty.stitches 0] }]

/-- The words that store or reduce by a record (10 R211, R219, R223). -/
def recStores (x : StOp) (y : ScMemOp) (z : RedOp) : List RecWord :=
  let releases : Bool := match x.mode with | .plain _ => false | .rel _ => true
  let store (i : Instr) (ok : Bool) (c : Nat) : RecWord :=
    { i, info := bufInfo x.hd 8 [x.x, x.v] (addrW x.x && ok), q := x.q, x := x.x, imm := x.imm, count := c, acc := .write,
      fits := fun f => convOk f x.ty true, rel := releases, zero := fun _ => [] }
  [store (.st x) (scalarV x.v x.ty) 1, store (.stx x) (vecCount x.v x.ty != 0) (vecCount x.v x.ty),
   { i := .stl y, info := plainInfo y.hd 8 [y.x, y.v] [] (addrW y.x && y.v.w.stitches == y.ty.stitches), q := y.q, x := y.x, imm := y.imm,
     count := 1, acc := .write, fits := fun f => exactFmt f y.ty, rel := true, zero := fun _ => [] },
   { i := .red z, info := { bufInfo z.hd 0xA [z.x, z.v] (addrW z.x && atomV z.v z.aop z.ty) with pf := false }, q := z.q, x := z.x, imm := 0,
     count := 1, acc := .write, fits := fun f => f == .ty z.ty, rel := z.rel, zero := fun _ => [] }]

/-- Element `j` of a word is out of bounds under a record, and those before it are not (06 R137). -/
def firstBeyond (s : State) (p : RecWord) (w : Nat) (f : EFmt) (l j : Nat) : Prop :=
  boundsMode w (elemIndex (s.here l) p.x p.imm + j) = .fault ∧
    ∀ i, i < j → ∃ e ks, elemKeys s w f (elemIndex (s.here l) p.x p.imm + i) p.acc e ks

/-- Lane `l` has taken a deferred bounds fault at the word for its element `j` (04 R95, 06 R137): nothing is delivered, stored or held, and no lane
has changed. -/
def FaultsBeyond (s t : State) (R : Run) (p : RecWord) (w : Nat) (f : EFmt) (l j : Nat) : Prop :=
  t.mem = s.mem ∧ (∀ i, i < 64 → (t.gang s.cur.gang).lane i = s.here i) ∧
  ∃ R', (t.slot s.cur).run = some R' ∧ R'.pos = R.pos + 1 ∧ R'.pends = R.pends ∧ R'.store = R.store ∧
    tabFind R'.faults l = some (FaultRec.mk 12 (R.pos + 1)
      (if recSpace w = 0 then 0 else elemBit w f (elemIndex (s.here l) p.x p.imm + j) / 8))

/-- No key stands twice among the bytes of `c` elements. -/
def apartKeys (ks : Nat → List (Option Nat)) (c : Nat) : Prop :=
  ∀ (i j a b k : Nat), i < c → j < c → (ks i)[a]? = some (some k) → (ks j)[b]? = some (some k) → i = j ∧ a = b

/-- No byte of `c` elements lies at a key. -/
def awayFrom (ks : Nat → List (Option Nat)) (c k : Nat) : Prop := ∀ i, i < c → some k ∉ ks i

/-- A core's L1 holds each line once, and only lines that it may hold (06 R132); a dirty byte is one of the bytes that it holds. -/
def tidyL1 (s : State) (core : Nat) : Prop :=
  ((s.core core).l1.map (·.line)).Nodup ∧
  ∀ l ∈ (s.core core).l1, l.dirty &&& ~~~l.valid = 0 ∧ ∀ i, i < 128 → cacheable core (l.line * 128 + i) = true

/-- A core holds no dirty byte at a key. -/
def cleanAt (s : State) (core k : Nat) : Prop :=
  ∀ l, findLine (s.core core) (lineOf k) = some l → l.dirty.getLsbD (k % 128) = false

/-- A memory word of the slot at the cursor has left the results `out` of lane `l` pending, and changed no lane and no uniform register. -/
structure Loads (s t : State) (R : Run) (hd : Hd) (l : Nat) (out : List LW) : Prop where
  run : ∃ R', (t.slot s.cur).run = some R' ∧ R'.pos = R.pos + 1 ∧ R'.faults = R.faults ∧
    R'.pends = cancelAll R.pends (1#64 <<< l) (fun _ => out) ++ out.flatMap (pendOf l)
  lane : ∀ i, i < 64 → (t.gang s.cur.gang).lane i = s.here i
  uniform : ∀ i, i < 64 → kreg t s.cur i = kreg s s.cur i

/-- A storing word of the slot at the cursor has been passed, and raised the flags `fl` in lane `l`: no other lane and no uniform register has
changed, and no result is pending that was not. -/
structure Stores (s t : State) (R : Run) (l : Nat) (fl : List Nat) : Prop where
  run : ∃ R', (t.slot s.cur).run = some R' ∧ R'.pos = R.pos + 1 ∧ R'.faults = R.faults ∧ R'.pends = R.pends
  lane : ∀ i, i < 64 → (t.gang s.cur.gang).lane i = if i = l then fl.foldl Lane.raise (s.here i) else s.here i
  uniform : ∀ i, i < 64 → kreg t s.cur i = kreg s s.cur i

/-- A word of the slot at the cursor has issued and waits, not yet passed: the slot stands at it with the wait `w`; no lane, no uniform register,
no other gang and nothing beside has changed. -/
structure Held (s t : State) (R : Run) (w : Wait) : Prop where
  wait : (t.slot s.cur).wait = w
  run : ∃ R', (t.slot s.cur).run = some R' ∧ R'.pos = R.pos ∧ R'.pends = R.pends ∧ R'.view = R.view
  lane : ∀ i, i < 64 → (t.gang s.cur.gang).lane i = s.here i
  uniform : ∀ i, i < 64 → kreg t s.cur i = kreg s s.cur i
  slot : (t.slot s.cur).view = (s.slot s.cur).view
  gang : (t.gang s.cur.gang).view s.cur.b = (s.gang s.cur.gang).view s.cur.b
  others : ∀ g, g ≠ s.cur.gang → (t.gang g).still = (s.gang g).still
  beside : Beside s t

/-- Stitch `n` of a lane (03 R55, R59). -/
def Lane.stitch (L : Lane) (n : Nat) : Nat := (L.st.extractLsb' (4 * n) 4).toNat

/-- A trace has run to its end in slot `r` (04 R88): its terminator is `x` at offset `off`, nothing of it is pending, buffered or fetched, no lane
of it has failed, faulted or trapped, and it stands in no routine and no recipe. -/
structure Ends (s : State) (r : SlotRef) (R : Run) (x : Term) (off : Nat) : Prop where
  mask : (s.slot r).mask ≠ 0
  wait : (s.slot r).wait = .resolving
  run : (s.slot r).run = some R
  term : R.term = some (x, off)
  landed : R.pends = [] ∧ R.lates = [] ∧ R.recld = []
  quiet : R.watch = none ∧ R.idle = false ∧ R.store = []
  sound : R.failed = 0 ∧ R.alts = [] ∧ R.faults = [] ∧ R.trapi = none
  free : (s.gang r.gang).co = none ∧ (s.gang r.gang).rebuild = none

/-- The other slot of a slot's gang. -/
def otherSlot (r : SlotRef) : SlotRef := { r with b := !r.b }

/-- A write of a word's participating lanes `m`: `f` gives the effects in each. -/
def State.written (s : State) (m : Mask) (f : Nat → List LW) (l : Nat) : Lane :=
  if Mask.has m l then (f l).foldl Lane.apply (s.here l) else s.here l

/-- Nothing that the core of the slot at the cursor may read is poisoned, no reduction is under way, no write was lost, and the core's L1 is tidy. -/
structure Quiet (s : State) : Prop where
  clean : unspoilt s (coreOf s.cur.gang) = true
  settled : s.reds = []
  sound : ∀ u, doomed s u = false
  tidy : tidyL1 s (coreOf s.cur.gang)

/-- A barrier register at which a gang, by its number there, has arrived as one member (13 R274, 21 R373). -/
def Barrier.arrived (y : Barrier) (a : Nat) : Barrier :=
  { y with arrmem := min (y.arrmem + 1) 4095, came := if y.came.contains a then y.came else y.came ++ [a] }

/-- The state with a barrier register changed; one that completes in this cycle does so next (13 R275). -/
def State.withBar (s : State) (b : BarId) (y : Barrier) : State :=
  if y.completes s.now then (barSet s b y).before (.barrierCompletion b) else barSet s b y

end Machine
end Sys2Proof
end

