-- ==== Sys2Proof/Certificates/Slice0/Obligations.lean ====
section
/-! DEFINITION. The statements about the model. -/

set_option Elab.async false

open Sys2Proof Sys2Proof.Machine

/-! ## Integer, predicate and uniform words -/

/-- 08 R171, R172, R174, R175; 03 R59, R60, R63. Every row of three operands that does not read D, on every state in which it passes the checks of
issue, answers a next state in which each participating lane holds in D the row's value at its type, written by R60, and nothing else
has changed but the turn of the slot and what an issue counts. -/
def Obligations.IntegerRowsOfTwoSources : Prop :=
  ∀ (x : IntOp) (s : State) (R : Run),
    Issues (WordInfo.plain x.hd 1 [x.a, x.b] [x.d] (intW x.a && intW x.b && intW x.d)) s R →
    ∀ p ∈ ([
        (Instr.add x, fun (L : Lane) => toType x.ty x.sat (L.src x.ty x.a + L.src x.ty x.b)),
        (Instr.sub x, fun L => toType x.ty x.sat (L.src x.ty x.a - L.src x.ty x.b)),
        (Instr.mul x, fun L => toType x.ty x.sat (L.src x.ty x.a * L.src x.ty x.b)),
        (Instr.mulhi x, fun L => toType x.ty false (L.src x.ty x.a * L.src x.ty x.b / 2 ^ x.ty.bits)),
        (Instr.min x, fun L => toType x.ty false (min (L.src x.ty x.a) (L.src x.ty x.b))),
        (Instr.max x, fun L => toType x.ty false (max (L.src x.ty x.a) (L.src x.ty x.b))),
        (Instr.and x, fun L => readInt x.ty (L.srcP x.ty x.a &&& L.srcP x.ty x.b)),
        (Instr.or x, fun L => readInt x.ty (L.srcP x.ty x.a ||| L.srcP x.ty x.b)),
        (Instr.xor x, fun L => readInt x.ty (L.srcP x.ty x.a ^^^ L.srcP x.ty x.b)),
        (Instr.andn x, fun L => readInt x.ty (L.srcP x.ty x.a &&& (2 ^ x.ty.bits - 1 - L.srcP x.ty x.b))),
        (Instr.orn x, fun L => readInt x.ty (L.srcP x.ty x.a ||| (2 ^ x.ty.bits - 1 - L.srcP x.ty x.b)))]
        : List (Instr × (Lane → Int))),
      ∃ t, exec p.1 s = .next t ∧ Writes s t R x.hd (fun _ L => [wrInt x.d x.ty x.sat (p.2 L)])

/-- 08 R172, R174, R175. The same of the shifts (their counts read unsigned at the operand's width, a count of the type's width or more moving every
bit out), of the bit fields, and of the rows that read D as a source. -/
def Obligations.IntegerShiftsFieldsAndAccumulations : Prop :=
  ∀ (x : IntOp) (s : State) (R : Run),
    (Issues (WordInfo.plain x.hd 1 [x.a, x.b] [x.d] (intW x.a && intW x.b && intW x.d)) s R →
      ∀ p ∈ ([
          (Instr.shl x, fun (L : Lane) => toType x.ty x.sat (L.src x.ty x.a * 2 ^ min (L.rd x.b) x.ty.bits)),
          (Instr.shr x, fun L => readInt x.ty (L.srcP x.ty x.a / 2 ^ min (L.rd x.b) x.ty.bits)),
          (Instr.shra x, fun L => toType x.ty false (extS (L.srcP x.ty x.a) x.ty.bits / 2 ^ min (L.rd x.b) x.ty.bits)),
          (Instr.rotl x, fun L => readInt x.ty (rotlVal x.ty.bits (L.srcP x.ty x.a) (L.rd x.b)))] : List (Instr × (Lane → Int))),
        ∃ t, exec p.1 s = .next t ∧ Writes s t R x.hd (fun _ L => [wrInt x.d x.ty x.sat (p.2 L)])) ∧
    (Issues (WordInfo.plain x.hd 1 [x.a, x.b] [x.d] (decide (4 ≤ x.b.w.stitches) && intW x.a && intW x.b && intW x.d)) s R →
      ∃ t, exec (.bfx x) s = .next t ∧
        Writes s t R x.hd (fun _ L => [wrInt x.d x.ty x.sat (toType x.ty false (bfxVal x.ty (L.srcP x.ty x.a) (L.rd x.b)))])) ∧
    (Issues (WordInfo.plain x.hd 1 [x.a, x.b, x.d] [x.d] (decide (4 ≤ x.b.w.stitches) && intW x.a && intW x.b && intW x.d)) s R →
      ∃ t, exec (.bfi x) s = .next t ∧
        Writes s t R x.hd (fun _ L =>
          [wrInt x.d x.ty x.sat (readInt x.ty (bfiVal x.ty.bits (L.srcP x.ty x.d) (L.srcP x.ty x.a) (L.rd x.b)))])) ∧
    (Issues (WordInfo.plain x.hd 1 [x.a, x.b, x.d] [x.d] (intW x.a && intW x.b && intW x.d)) s R →
      ∀ p ∈ ([
          (Instr.clamp x, fun (L : Lane) => toType x.ty false
            (if L.src x.ty x.b < L.src x.ty x.a then L.src x.ty x.b else min (max (L.src x.ty x.d) (L.src x.ty x.a)) (L.src x.ty x.b))),
          (Instr.mad x, fun L => toType x.ty x.sat (L.src x.ty x.a * L.src x.ty x.b + L.src x.ty x.d)),
          (Instr.sad x, fun L => toType x.ty x.sat (((L.src x.ty x.a - L.src x.ty x.b).natAbs : Int) + L.src x.ty x.d)),
          (Instr.fshl x, fun L => readInt x.ty (fshlVal x.ty.bits (L.srcP x.ty x.d) (L.srcP x.ty x.a) (L.rd x.b))),
          (Instr.sel x, fun L => toType x.ty false (if L.rd x.d = 0 then L.src x.ty x.b else L.src x.ty x.a))] : List (Instr × (Lane → Int))),
        ∃ t, exec p.1 s = .next t ∧ Writes s t R x.hd (fun _ L => [wrInt x.d x.ty x.sat (p.2 L)]))

/-- 08 R172, R175. The rows of one source; XT reads A at its own width.
08 R173. ADDC adds the carry predicate p(28 + c) and writes it with the unsigned carry; SUBB subtracts it and writes it with the unsigned
borrow. -/
def Obligations.IntegerRowsOfOneSourceAndCarries : Prop :=
  (∀ (x : IntUn) (s : State) (R : Run),
    Issues (WordInfo.plain x.hd 1 [x.a] [x.d] (intW x.a && intW x.d)) s R →
    (∀ p ∈ ([
        (Instr.neg x, fun (L : Lane) => toType x.ty x.sat (-(L.src x.ty x.a))),
        (Instr.abs x, fun L => toType x.ty x.sat ((L.src x.ty x.a).natAbs : Int)),
        (Instr.popc x, fun L => toType x.ty false (((List.range x.ty.bits).filter (bit (L.srcP x.ty x.a))).length : Int)),
        (Instr.clz x, fun L => toType x.ty false (clzVal x.ty.bits (L.srcP x.ty x.a) : Int)),
        (Instr.ctz x, fun L => toType x.ty false (ctzVal x.ty.bits (L.srcP x.ty x.a) : Int)),
        (Instr.brev x, fun L => readInt x.ty (brevVal x.ty.bits (L.srcP x.ty x.a)))] : List (Instr × (Lane → Int))),
      ∃ t, exec p.1 s = .next t ∧ Writes s t R x.hd (fun _ L => [wrInt x.d x.ty x.sat (p.2 L)])) ∧
    ∃ t, exec (.xt x) s = .next t ∧ Writes s t R x.hd (fun _ L =>
      let v : Int := if x.ty.signed then extS (L.rd x.a) x.a.w.bits else extZ (L.rd x.a) x.a.w.bits
      [wrTo x.d (pat (if x.sat then (if x.ty.signed then satS v x.d.w.bits else satN v x.d.w.bits) else v) x.d.w.bits)])) ∧
  ∀ (x : CarryOp) (s : State) (R : Run),
    Issues { WordInfo.plain x.hd 1 [x.a, x.b] [x.d] (intW x.a && intW x.b && intW x.d) with pf := true } s R →
    (∃ t, exec (.addc x) s = .next t ∧ Writes s t R x.hd (fun _ L =>
      let u := L.srcP x.ty x.a + L.srcP x.ty x.b + b2n (L.pred (28 + x.c))
      [wrInt x.d x.ty false (readInt x.ty (u % 2 ^ x.ty.bits)), .pr (28 + x.c) (decide (2 ^ x.ty.bits ≤ u))])) ∧
    ∃ t, exec (.subb x) s = .next t ∧ Writes s t R x.hd (fun _ L =>
      let u : Int := (L.srcP x.ty x.a : Int) - L.srcP x.ty x.b - b2n (L.pred (28 + x.c))
      [wrInt x.d x.ty false (readInt x.ty (pat u x.ty.bits)), .pr (28 + x.c) (decide (u < 0))])

/-- 08 R175, R178. MOV copies a stitch operand or a special register, as bits without a type; MOVI and MOVHI write an immediate.
08 R177. The rows of a 12-bit immediate; a logical row takes it modulo 2^w. -/
def Obligations.MovesAndImmediateRows : Prop :=
  (∀ (s : State) (R : Run),
    (∀ x : MovOp, ∀ a, x.src = .stitch a → Issues (WordInfo.plain x.hd 1 [a] [x.d] (x.ty == .none || (intW x.d && intW a))) s R →
      ∃ t, exec (.mov x) s = .next t ∧ Writes s t R x.hd (fun _ L =>
        [if x.ty = .none then wrTo x.d (L.rd a % 2 ^ x.d.w.bits) else wrInt x.d x.ty x.sat (srcInt x.ty (L.rd a) a.w.bits)])) ∧
    (∀ x : MovOp, ∀ n, x.src = .special n → Issues (WordInfo.plain x.hd 1 [] [x.d] (x.ty == .none || intW x.d)) s R →
      ∃ t, exec (.mov x) s = .next t ∧ Writes s t R x.hd (fun l _ =>
        [if x.ty = .none then wrTo x.d (special s s.cur l n % 2 ^ x.d.w.bits)
         else wrInt x.d x.ty x.sat (srcInt x.ty (special s s.cur l n) (if n = 12 then 64 else 32))])) ∧
    ∀ x : MovIOp, Issues (WordInfo.plain x.hd 2 [] [x.d] (intW x.d)) s R →
      (∃ t, exec (.movi x) s = .next t ∧ Writes s t R x.hd (fun _ _ =>
        [wrInt x.d x.ty x.sat (toType x.ty false (if x.ty.signed then extS x.imm 20 else extZ x.imm 20))])) ∧
      ∃ t, exec (.movhi x) s = .next t ∧ Writes s t R x.hd (fun _ _ => [wrInt x.d x.ty x.sat (readInt x.ty (x.imm * 2 ^ 12))])) ∧
  ∀ (x : ImmOp) (s : State) (R : Run),
    Issues (WordInfo.plain x.hd 2 [x.a] [x.d] (intW x.a && intW x.d)) s R →
    ∀ p ∈ ([
        (Instr.addi x, fun (L : Lane) => toType x.ty x.sat (L.src x.ty x.a + x.imm)),
        (Instr.muli x, fun L => toType x.ty x.sat (L.src x.ty x.a * x.imm)),
        (Instr.andi x, fun L => readInt x.ty (L.srcP x.ty x.a &&& pat x.imm x.ty.bits)),
        (Instr.ori x, fun L => readInt x.ty (L.srcP x.ty x.a ||| pat x.imm x.ty.bits)),
        (Instr.xori x, fun L => readInt x.ty (L.srcP x.ty x.a ^^^ pat x.imm x.ty.bits)),
        (Instr.shli x, fun L => toType x.ty x.sat (L.src x.ty x.a * 2 ^ min x.imm.toNat x.ty.bits)),
        (Instr.shri x, fun L => readInt x.ty (L.srcP x.ty x.a / 2 ^ min x.imm.toNat x.ty.bits)),
        (Instr.shrai x, fun L => toType x.ty false (extS (L.srcP x.ty x.a) x.ty.bits / 2 ^ min x.imm.toNat x.ty.bits))]
        : List (Instr × (Lane → Int))),
      ∃ t, exec p.1 s = .next t ∧ Writes s t R x.hd (fun _ L => [wrInt x.d x.ty x.sat (p.2 L)])

/-- 08 R176, R186. CMP and CMPI compare in each participating lane at the type, KCMP once for the gang; each writes a predicate and nothing
else. -/
def Obligations.IntegerComparisons : Prop :=
  ∀ (s : State) (R : Run),
    (∀ x : CmpOp, Issues { WordInfo.plain x.hd 1 [x.a, x.b] [] (intW x.a && intW x.b) with pf := true } s R →
      ∃ t, exec (.cmp x) s = .next t ∧ Writes s t R x.hd (fun _ L => [.pr x.p (cndHolds x.cnd (L.src x.ty x.a) (L.src x.ty x.b))])) ∧
    (∀ x : CmpIOp, Issues { WordInfo.plain x.hd 2 [x.a] [] (intW x.a) with pf := true } s R →
      ∃ t, exec (.cmpi x) s = .next t ∧ Writes s t R x.hd (fun _ L =>
        [.pr x.p (cndHolds x.cnd (L.src x.ty x.a) (readInt x.ty (pat x.imm x.ty.bits)))])) ∧
    ∀ x : KCmpOp, Issues { WordInfo.plain x.hd 4 [] [] true with pf := true } s R →
      ∃ t, exec (.kcmp x) s = .next t ∧ Writes s t R x.hd (fun _ _ =>
        [.pr x.p (cndHolds x.cnd (readInt x.ty (kreg s s.cur x.ka))
          (readInt x.ty (match x.x with | .reg k => kreg s s.cur k | .imm v => pat v 64)))])

/-- 08 R179. The predicate words: PAND, POR, PXOR and PNOT of predicate sources; PSET writes the predicates p1 to p31 whose bit of M is set; PGET
reads all 32, of which p0 is true. -/
def Obligations.PredicateWords : Prop :=
  ∀ (s : State) (R : Run),
    (∀ x : PLogicOp, Issues { WordInfo.plain x.hd 3 [] [] true with pf := true } s R →
      ∀ p ∈ ([(Instr.pand x, fun (L : Lane) => L.psrc x.a && L.psrc x.b), (Instr.por x, fun L => L.psrc x.a || L.psrc x.b),
              (Instr.pxor x, fun L => L.psrc x.a != L.psrc x.b)] : List (Instr × (Lane → Bool))),
        ∃ t, exec p.1 s = .next t ∧ Writes s t R x.hd (fun _ L => [.pr x.p (p.2 L)])) ∧
    (∀ x : PNotOp, Issues { WordInfo.plain x.hd 3 [] [] true with pf := true } s R →
      ∃ t, exec (.pnot x) s = .next t ∧ Writes s t R x.hd (fun _ L => [.pr x.p (!L.psrc x.a)])) ∧
    (∀ x : PSetOp, Issues { WordInfo.plain x.hd 3 [x.a, x.m] [] (decide (x.a.w.stitches ≤ 8) && decide (x.m.w.stitches ≤ 8)) with pf := true } s R →
      ∃ t, exec (.pset x) s = .next t ∧ Writes s t R x.hd (fun _ L =>
        ((List.range 32).filter (fun i => i != 0 && bit (L.rd x.m) i)).map (fun i => LW.pr i (bit (L.rd x.a) i)))) ∧
    ∀ x : PGetOp, Issues (WordInfo.plain x.hd 3 [] [x.d] (wIs 8 x.d)) s R →
      ∃ t, exec (.pget x) s = .next t ∧ Writes s t R x.hd (fun _ L => [wrTo x.d (bitsOf L.pred 32)])

/-- 08 R180 to R183. VOTE over the participating lanes, SHFL between the lanes of the slot, ELECT of the lowest participating lane whose
predicate holds, and MOVS with the clearing of %fpsr [5:0]. 03 R57: a poisoned row of a lane from which SHFL would take its value is not delivered. -/
def Obligations.CrossLaneWords : Prop :=
  ∀ (s : State) (R : Run),
    (∀ x : VoteOp, ∀ p, Issues { WordInfo.plain x.hd 3 [] [] true with pf := true } s R →
      let m := participants s s.cur R x.hd false
      (x.form = .all p → ∃ t, exec (.vote x) s = .next t ∧
        Writes s t R x.hd (fun _ _ => [.pr p ((Mask.lanes m).all (fun l => (s.here l).psrc x.a))])) ∧
      (x.form = .any p → ∃ t, exec (.vote x) s = .next t ∧
        Writes s t R x.hd (fun _ _ => [.pr p ((Mask.lanes m).any (fun l => (s.here l).psrc x.a))])) ∧
      (x.form = .uni p → ∃ t, exec (.vote x) s = .next t ∧
        Writes s t R x.hd (fun _ _ => [.pr p ((Mask.lanes m).all (fun l => (s.here l).psrc x.a)
          || (Mask.lanes m).all (fun l => !(s.here l).psrc x.a))]))) ∧
    (∀ x : VoteOp, ∀ d, x.form = .ballot d →
      Issues (WordInfo.plain x.hd 3 [] [d] (wIs (if (s.gang s.cur.gang).width = 64 then 16 else 8) d)) s R →
      ∃ t, exec (.vote x) s = .next t ∧ Writes s t R x.hd (fun _ _ =>
        [wrTo d (bitsOf (fun l => Mask.has (participants s s.cur R x.hd false) l && (s.here l).psrc x.a) 64)])) ∧
    (∀ x : ShflOp, Issues (WordInfo.plain x.hd 3 [x.a, x.b] [x.d] (x.d.w == x.a.w && decide (x.b.w.stitches ≤ 8))) s R →
      let from_ := fun (l : Nat) (L : Lane) =>
        let k : Int := match x.form with
          | .idx => L.rd x.b
          | .up => (l : Int) - L.rd x.b
          | .down => (l : Int) + L.rd x.b
          | .xor => ((l ^^^ L.rd x.b : Nat) : Int)
        if 0 ≤ k ∧ k < 64 ∧ Mask.has (s.slot s.cur).mask k.toNat then s.here k.toNat else L
      let bad := fun l => (rowsOf x.a).any (from_ l (s.here l)).poison.getLsbD
      let m := participants s s.cur R x.hd false
      ((∀ l, Mask.has m l = true → bad l = false) →
        ∃ t, exec (.shfl x) s = .next t ∧ Writes s t R x.hd (fun l L => [wrTo x.d ((from_ l L).rd x.a)])) ∧
      (∀ l, l < 64 → Mask.has m l = true → bad l = true → exec (.shfl x) s = rowPoison s s.cur R)) ∧
    (∀ x : ElectOp, Issues { WordInfo.plain x.hd 3 [] [] true with pf := true } s R →
      ∃ t, exec (.elect x) s = .next t ∧ Writes s t R x.hd (fun l _ =>
        [.pr x.p (((Mask.lanes (participants s s.cur R x.hd false)).find? (fun k => (s.here k).psrc x.a)) == some l)])) ∧
    ∀ x : MovsOp, Issues { WordInfo.plain x.hd 3 [] [x.d] (intW x.d && (!x.clr || x.sr == 14)) with pf := x.clr } s R →
      ∃ t, exec (.movs x) s = .next t ∧ Writes s t R x.hd (fun l _ =>
        wrTo x.d (special s s.cur l x.sr % 2 ^ x.d.w.bits) :: (if x.clr then [LW.clr] else []))

/-- 03 R73, 08 R184 to R186. The uniform words compute once for the gang at the type, whatever lanes take part, and write all 64 bits of one
uniform register; KFROM takes the lowest participating lane's value and writes nothing where there is none; KTO writes every
participating lane. -/
def Obligations.UniformWords : Prop :=
  ∀ (s : State) (R : Run),
    (∀ x : KBinOp, Issues (WordInfo.plain { sw := x.sw, neg := false, pg := 0 } 4 [] [] true) s R →
      let b := match x.x with | .reg k => kreg s s.cur k | .imm v => pat v 64
      let a := readInt x.ty (kreg s s.cur x.ka)
      let c := match x.x with | .reg k => readInt x.ty (kreg s s.cur k) | .imm v => v
      ∀ p ∈ ([
          (Instr.kadd x, toType x.ty x.sat (a + c)), (Instr.ksub x, toType x.ty x.sat (a - c)), (Instr.kmul x, toType x.ty x.sat (a * c)),
          (Instr.kand x, readInt x.ty (pat a x.ty.bits &&& pat c x.ty.bits)), (Instr.kor x, readInt x.ty (pat a x.ty.bits ||| pat c x.ty.bits)),
          (Instr.kshl x, toType x.ty x.sat (a * 2 ^ min b x.ty.bits)),
          (Instr.kshr x, toType x.ty false (a / 2 ^ min b x.ty.bits))] : List (Instr × Int)),
        ∃ t, exec p.1 s = .next t ∧ WritesUniform s t R x.sw x.kd (pat p.2 64)) ∧
    (∀ x : KMovOp, Issues (WordInfo.plain { sw := x.sw, neg := false, pg := 0 } 4 [] [] true) s R →
      (∃ t, exec (.kmovi x) s = .next t ∧
        WritesUniform s t R x.sw x.kd (pat (toType x.ty false (if x.ty.signed then extS x.imm 21 else extZ x.imm 21)) 64)) ∧
      ∃ t, exec (.kmovhi x) s = .next t ∧
        WritesUniform s t R x.sw x.kd (pat (readInt x.ty (x.imm % 2 ^ 20 * 2 ^ 12)) 64)) ∧
    (∀ x : KFromOp, Issues { WordInfo.plain x.hd 4 [x.a] [] (intW x.a) with lowest := true } s R →
      (∀ l, Mask.lowest (participants s s.cur R x.hd false) = some l →
        ∃ t, exec (.kfrom x) s = .next t ∧ WritesUniform s t R x.hd.sw x.kd (pat ((s.here l).src x.ty x.a) 64)) ∧
      (participants s s.cur R x.hd false = 0 → ∃ t, exec (.kfrom x) s = .next t ∧ Passes s t R x.hd.sw s.here (kreg s s.cur) R.pends)) ∧
    ∀ x : KToOp, Issues (WordInfo.plain x.hd 4 [] [x.d] (intW x.d)) s R →
      ∃ t, exec (.kto x) s = .next t ∧ Writes s t R x.hd (fun _ _ => [wrInt x.d x.ty x.sat (readInt x.ty (kreg s s.cur x.ka))])

/-! ## Floating-point, conversion and block words -/

/-- 09 R190 to R193, R196, R198. The floating-point rows that are not long-latency write their rounded result and raise their flags in %fpsr of each
participating lane; FCMP writes a predicate in place of a result. -/
def Obligations.FloatRows : Prop :=
  ∀ (s : State) (R : Run),
    (∀ x : FOp, let W (v : Lane → FRes) (t : State) := Writes s t R x.hd (fun _ L => [wrTo x.d (v L).v, .fl (v L).fl])
      let n := if x.ty = .f64 then 2 else 1
      let ok := tyW x.ty x.d && tyW x.ty x.a && tyW x.ty x.b
      (Issues { WordInfo.plain x.hd 5 [x.a, x.b] [x.d] ok with pf := true, cyc := n } s R →
        (∃ t, exec (.fadd x) s = .next t ∧ W (fun L => fAdd (fmtOf x.ty) x.rm x.ftz (L.rd x.a) (L.rd x.b)) t) ∧
        (∃ t, exec (.fsub x) s = .next t ∧ W (fun L => fSub (fmtOf x.ty) x.rm x.ftz (L.rd x.a) (L.rd x.b)) t) ∧
        (∃ t, exec (.fmul x) s = .next t ∧ W (fun L => fMul (fmtOf x.ty) x.rm x.ftz (L.rd x.a) (L.rd x.b)) t)) ∧
      (Issues { WordInfo.plain x.hd 5 [x.a, x.b, x.d] [x.d] ok with pf := true, cyc := n } s R →
        ∃ t, exec (.ffma x) s = .next t ∧ W (fun L => fFma (fmtOf x.ty) x.rm x.ftz (L.rd x.a) (L.rd x.b) (L.rd x.d)) t) ∧
      (Issues { WordInfo.plain x.hd 6 [x.a, x.b] [x.d] (tyW x.ty x.d && tyW x.ty x.a && decide (x.b.w.stitches ≤ 8)) with pf := true, cyc := n } s R →
        ∃ t, exec (.fscale x) s = .next t ∧ W (fun L => fScale (fmtOf x.ty) x.rm x.ftz (L.rd x.a) (L.src .i32 x.b)) t)) ∧
    (∀ x : FMmOp, let W (v : Lane → FRes) (t : State) := Writes s t R x.hd (fun _ L => [wrTo x.d (v L).v, .fl (v L).fl])
      Issues { WordInfo.plain x.hd 5 [x.a, x.b] [x.d] (tyW x.ty x.d && tyW x.ty x.a && tyW x.ty x.b) with
        pf := true, cyc := if x.ty = .f64 then 2 else 1 } s R →
      (∃ t, exec (.fmin x) s = .next t ∧ W (fun L => fMinMax (fmtOf x.ty) false x.ftz (L.rd x.a) (L.rd x.b)) t) ∧
      ∃ t, exec (.fmax x) s = .next t ∧ W (fun L => fMinMax (fmtOf x.ty) true x.ftz (L.rd x.a) (L.rd x.b)) t) ∧
    (∀ x : FCmpOp,
      Issues { WordInfo.plain x.hd 5 [x.a, x.b] [] (tyW x.ty x.a && tyW x.ty x.b) with pf := true, cyc := if x.ty = .f64 then 2 else 1 } s R →
      ∃ t, exec (.fcmp x) s = .next t ∧ Writes s t R x.hd (fun _ L =>
        [.pr x.p (fCmp (fmtOf x.ty) x.cnd (L.rd x.a) (L.rd x.b)).1, .fl (fCmp (fmtOf x.ty) x.cnd (L.rd x.a) (L.rd x.b)).2])) ∧
    (∀ x : FUnOp,
      Issues { WordInfo.plain x.hd 5 [x.a] [x.d] (tyW x.ty x.d && tyW x.ty x.a) with pf := true, cyc := if x.ty = .f64 then 2 else 1 } s R →
      ∃ t, exec (.frnd x) s = .next t ∧ Writes s t R x.hd (fun _ L =>
        [wrTo x.d (fRnd (fmtOf x.ty) x.rm x.ftz (L.rd x.a)).v, .fl (fRnd (fmtOf x.ty) x.rm x.ftz (L.rd x.a)).fl])) ∧
    (∀ x : FClassOp,
      Issues { WordInfo.plain x.hd 5 [x.a] [x.d] (decide (3 ≤ x.d.w.stitches) && decide (x.d.w.stitches ≤ 8) && tyW x.ty x.a) with pf := true } s R →
      ∃ t, exec (.fclass x) s = .next t ∧ Writes s t R x.hd (fun _ L => [wrTo x.d (fClass (fmtOf x.ty) (L.rd x.a)), .fl 0])) ∧
    (∀ x : FPkOp, let W (v : Lane → FRes) (t : State) := Writes s t R x.hd (fun _ L => [wrTo x.d (v L).v, .fl (v L).fl])
      let two (f : Nat → Nat → Nat → FRes) (L : Lane) := packed2 (fun i => f (half (L.rd x.a) i) (half (L.rd x.b) i) (half (L.rd x.d) i))
      let ok := wIs 8 x.d && wIs 8 x.a && wIs 8 x.b
      (Issues { WordInfo.plain x.hd 5 [x.a, x.b] [x.d] ok with pf := true } s R →
        (∃ t, exec (.fadd2 x) s = .next t ∧ W (two (fun a b _ => fAdd (fmtOf x.ty) x.rm false a b)) t) ∧
        (∃ t, exec (.fmul2 x) s = .next t ∧ W (two (fun a b _ => fMul (fmtOf x.ty) x.rm false a b)) t)) ∧
      (Issues { WordInfo.plain x.hd 5 [x.a, x.b, x.d] [x.d] ok with pf := true } s R →
        (∃ t, exec (.ffma2 x) s = .next t ∧ W (two (fun a b d => fFma (fmtOf x.ty) x.rm false a b d)) t) ∧
        (∃ t, exec (.fdot4 x) s = .next t ∧ W (fun L => fDot4 (fmtOf x.ty) x.rm (L.rd x.a) (L.rd x.b) (L.rd x.d)) t))) ∧
    ∀ x : CvtOp, Issues { WordInfo.plain x.hd 6 [x.a] [x.d] (cvtW x.dst x.d && cvtW x.src x.a) with pf := true } s R →
      ∃ t, exec (.cvti x) s = .next t ∧ Writes s t R x.hd (fun _ L => [wrTo x.d (cvtVal x L).v, .fl (cvtVal x L).fl])

/-- 03 R64 to R66, 09 R194 to R203. The long-latency rows: each participating lane's result is pending when the word has issued, and lands at the
end of its switch group; no register has changed yet. That the flags of the word are pending with its result, and land with it, is the model's choice
(log 59). -/
def Obligations.LongLatencyFloatRows : Prop :=
  ∀ (s : State) (R : Run),
    (∀ x : FUnOp, let W (v : Lane → FRes) (t : State) := WritesLate s t R x.hd (fun _ L => [wrTo x.d (v L).v, .fl (v L).fl])
      Issues { WordInfo.plain x.hd 6 [x.a] [x.d] (tyW x.ty x.d && tyW x.ty x.a) with pf := true, cyc := if x.ty = .f64 then 8 else 4 } s R →
      (∃ t, exec (.frcp x) s = .next t ∧ W (fun L => fRcp (fmtOf x.ty) x.rm x.ftz (L.rd x.a)) t) ∧
      (∃ t, exec (.frsq x) s = .next t ∧ W (fun L => fRsq (fmtOf x.ty) x.rm x.ftz (L.rd x.a)) t) ∧
      (∃ t, exec (.fsqrt x) s = .next t ∧ W (fun L => fSqrt (fmtOf x.ty) x.rm x.ftz (L.rd x.a)) t)) ∧
    (∀ x : FOp,
      Issues { WordInfo.plain x.hd 6 [x.a, x.b] [x.d] (tyW x.ty x.d && tyW x.ty x.a && tyW x.ty x.b) with
        pf := true, cyc := if x.ty = .f64 then 16 else 8 } s R →
      ∃ t, exec (.fdiv x) s = .next t ∧ WritesLate s t R x.hd (fun _ L =>
        [wrTo x.d (fDiv (fmtOf x.ty) x.rm x.ftz (L.rd x.a) (L.rd x.b)).v, .fl (fDiv (fmtOf x.ty) x.rm x.ftz (L.rd x.a) (L.rd x.b)).fl])) ∧
    (∀ x : FTransOp, let W (v : Lane → FRes) (t : State) := WritesLate s t R x.hd (fun _ L => [wrTo x.d (v L).v, .fl (v L).fl])
      Issues { WordInfo.plain x.hd 6 [x.a] [x.d] (wIs 8 x.d && wIs 8 x.a) with pf := true, cyc := 4 } s R →
      (∃ t, exec (.fexp2 x) s = .next t ∧ W (fun L => fExp2 x.ftz (L.rd x.a)) t) ∧
      (∃ t, exec (.flog2 x) s = .next t ∧ W (fun L => fLog2 x.ftz (L.rd x.a)) t) ∧
      (∃ t, exec (.fsin x) s = .next t ∧ W (fun L => fTrig 2 x.ftz (L.rd x.a) false) t) ∧
      (∃ t, exec (.fcos x) s = .next t ∧ W (fun L => fTrig 3 x.ftz (L.rd x.a) true) t)) ∧
    (∀ x : CvtOp, Issues { WordInfo.plain x.hd 6 [x.a] [x.d] (cvtW x.dst x.d && cvtW x.src x.a) with pf := true } s R →
      ∃ t, exec (.cvt x) s = .next t ∧ WritesLate s t R x.hd (fun _ L => [wrTo x.d (cvtVal x L).v, .fl (cvtVal x L).fl])) ∧
    (∀ x : DqOp,
      (Issues { WordInfo.plain x.hd 6 [x.a, x.b] [x.d] (bxW x.bx4 x.a && wIs 2 x.b && wIs 8 x.d) with pf := true } s R →
        ∃ t, exec (.dqblk x) s = .next t ∧ WritesLate s t R x.hd (fun _ L =>
          [wrTo x.d (dequantise x.bx4 (L.rd x.a) (L.rd x.b)).v, .fl (dequantise x.bx4 (L.rd x.a) (L.rd x.b)).fl])) ∧
      (Issues { WordInfo.plain x.hd 6 [x.a, x.b] [x.d] (decide (x.a.w.stitches ≤ 2) && wIs 4 x.b && bxW x.bx4 x.d) with pf := true } s R →
        ∃ t, exec (.req x) s = .next t ∧ WritesLate s t R x.hd (fun _ L =>
          let q := requantise (wIs 1 x.a) x.bx4 (L.rd x.a) (fld (L.rd x.b) 0 8) (fld (L.rd x.b) 8 8)
          [wrTo x.d (pat q.1 x.d.w.bits), .fl q.2]))) ∧
    (∀ x : QblkOp,
      Issues { WordInfo.plain x.hd 6 [x.a] [x.d, x.sc] (bxW x.bx4 x.d && wIs 2 x.sc && wIs 8 x.a && apart x.d x.sc) with pf := true, cyc := 2 } s R →
      ∃ t, exec (.qblk x) s = .next t ∧ WritesLate s t R x.hd (fun l _ =>
        let e := ((qblkVals x (s.gang s.cur.gang) (participants s s.cur R x.hd false))[l]?).getD (0, 0, 0)
        [wrTo x.d (pat e.1 x.d.w.bits), wrTo x.sc e.2.1, .fl e.2.2])) ∧
    ∀ x : HadOp, Issues { WordInfo.plain x.hd 6 [x.a] [x.d] (wIs 8 x.d && wIs 8 x.a) with pf := true, cyc := 2 } s R →
      ∃ t, exec (.had x) s = .next t ∧ WritesLate s t R x.hd (fun l _ =>
        let m := participants s s.cur R x.hd false
        let e := ((hadGroups (s.gang s.cur.gang) m (if x.h32 then 5 else 4) (blockSrc (s.gang s.cur.gang) m x.a))[l]?).getD (0, 0)
        [wrTo x.d e.1, .fl e.2])

/-- 05 R106. Rounding to nearest errs by at most half a unit of the last place, and a tie goes to the even significand; the result is inexact
exactly where it differs.
05 R106. Directed rounding of a magnitude errs by less than a unit towards its side: never up in magnitude for .rtz, never down in value for
.rup, never up in value for .rdn. -/
def Obligations.RoundingErrs : Prop :=
  (∀ (m : Nat) (e q : Int) (neg : Bool), e < q →
    let d := 2 ^ (q - e).toNat
    let r := roundAt m e q false neg .rne
    2 * ((r.1 : Int) * d - m).natAbs ≤ d ∧ (2 * ((r.1 : Int) * d - m).natAbs = d → r.1 % 2 = 0) ∧ (r.2 = true ↔ (r.1 : Int) * d ≠ m)) ∧
  ∀ (m : Nat) (e q : Int) (neg : Bool), e < q →
    let d := 2 ^ (q - e).toNat
    let z := (roundAt m e q false neg .rtz).1
    let u := (roundAt m e q false neg .rup).1
    let n := (roundAt m e q false neg .rdn).1
    (z * d ≤ m ∧ m < (z + 1) * d) ∧
    (if neg then u * d ≤ m ∧ m < (u + 1) * d else m ≤ u * d ∧ u * d < m + d) ∧
    (if neg then m ≤ n * d ∧ n * d < m + d else n * d ≤ m ∧ m < (n + 1) * d)

/-! ## Traces and control flow -/

/-- 04 R77 to R83, 08 R162. A header at a slot's entry, whose trace can be fetched, issues: the slot runs the trace from its first word, with an
undo pair exactly where the trace is guarded; its lanes, entry and token stay, no lane changes, no byte of memory. A plain header with a
count that is not zero traps with cause 3, with the entry as its resume address. 27 R421: one whose words lie where a function is not ready
waits. -/
def Obligations.HeaderStartsItsTrace : Prop :=
  (∀ (s : State) (h : Header), (s.slot s.cur).mask ≠ 0 → (s.slot s.cur).wait = .none → (s.slot s.cur).run = none →
    overBound (s.gang s.cur.gang) 1 = false → fetchUnready s s.cur = true → exec (.trace h) s = .next (s.setWait s.cur .unready)) ∧
  ∀ (s s' : State) (h h' : Header) (ws : List Word64),
    (s.slot s.cur).mask ≠ 0 → (s.slot s.cur).wait = .none → (s.slot s.cur).run = none →
    overBound (s.gang s.cur.gang) 1 = false → fetchUnready s s.cur = false → fetchTrace s s.cur = (s', .inr (h', ws)) → stopsHere s' s.cur h = false →
    ((badPlain h = false → (h.guarded = true → ((s'.slot s.cur).pair = true ∨
        (pairFree s' (coreOf s.cur.gang) = true ∧ (s'.core (coreOf s.cur.gang)).undoWait = []))) →
      ∃ t, exec (.trace h) s = .next t ∧ (t.slot s.cur).run = some (Run.start h ws s'.nextCmd) ∧ (t.slot s.cur).pair = h.guarded ∧
        (t.slot s.cur).mask = (s'.slot s.cur).mask ∧ (t.slot s.cur).entry = (s'.slot s.cur).entry ∧ (t.slot s.cur).tok = (s'.slot s.cur).tok ∧
        (∀ l, (t.gang s.cur.gang).lane l = (s'.gang s.cur.gang).lane l) ∧ t.mem = s'.mem) ∧
     (badPlain h = true → isSvc s.cur.gang = false → (s'.gang s.cur.gang).co = none → (s'.gang s.cur.gang).rebuild = none →
        (s'.slot s.cur).hnd = none →
      ∃ t, exec (.trace h) s = .next t ∧ (t.slot s.cur).run = none ∧
        (t.slot s.cur).wait = .trapped { cause := 3, ord := h.ord, off := 0, kept := true, code := 0, detail := 0,
                                         resume := (s'.slot s.cur).entry }))

/-- 04 R86, 08 R163, R164. In a participating lane in which its predicate is false, GRD fails the lane, with the trace at the named address as its
alternative; the lane takes part in nothing more of the trace. NOP does nothing. -/
def Obligations.GuardsFailTheirLanes : Prop :=
  ∀ (s : State) (R : Run),
    (∀ x : GrdOp, Issues { WordInfo.plain x.hd 0 [] [] true with grd := true } s R →
      ∃ t, exec (.grd x) s = .next t ∧
        let m := participants s s.cur R x.hd false
        ∃ R', (t.slot s.cur).run = some R' ∧ R'.pos = R.pos + 1 ∧ R'.nGrd = R.nGrd + 1 ∧
          (∀ l, l < 64 → (Mask.has R'.failed l = true ↔ Mask.has R.failed l = true ∨ (Mask.has m l = true ∧ (s.here l).psrc x.p = false))) ∧
          (∀ l, Mask.has m l = true → (s.here l).psrc x.p = false → l < 64 →
            ∃ f, R'.alts = R.alts ++ [(pcAdd ((s.slot s.cur).entry + 8 * (R.pos + 1)) x.off, f)] ∧ Mask.has f l = true ∧
              Mask.has (participants t s.cur R' { sw := false, neg := false, pg := 0 } false) l = false) ∧
          (∀ l, l < 64 → (t.gang s.cur.gang).lane l = s.here l) ∧ t.rest = s.rest) ∧
    ∀ x : NopOp, Issues (WordInfo.plain x.hd 0 [] [] true) s R →
      ∃ t, exec (.nop x) s = .next t ∧ Passes s t R x.hd.sw s.here (kreg s s.cur) R.pends

/-- 04 R88, 07 R150, 08 R165 to R170, 06 R143, 11 R243, 13 R279, 18 R325. A terminator that passes its checks waits to resolve, with what it reads at issue: LOOP has
decremented its counter by then, and goes on at the trace that follows where the counter has become zero. Nothing else has changed. The first word of a
JSEL only issues (04 R100). -/
def Obligations.TerminatorsWaitToResolve : Prop :=
  ∀ (s : State) (R : Run),
    (∀ x : TermOp, ∀ p ∈ ([
        ({ TermInfo.plain with withWatch := true }, Instr.next x, Term.next),
        ({ TermInfo.plain with noHandler := true, noCast := true }, Instr.exit x, Term.exit),
        ({ TermInfo.plain with noGuard := true, noCast := true, hndOnly := true }, Instr.eret x, Term.eret),
        ({ TermInfo.plain with noGuard := true, castOnly := true }, Instr.codone x, Term.codone),
        ({ TermInfo.plain with noGuard := true, castOnly := true }, Instr.corefuse x, Term.corefuse)] : List (TermInfo × Instr × Term)),
      TermIssues p.1 s R → ∃ t, exec p.2.1 s = .next t ∧ Terminates s t R p.2.2 (kreg s s.cur) R.pends) ∧
    (∀ x : CosummOp, TermIssues { TermInfo.plain with noGuard := true, castOnly := true } s R →
      ∃ t, exec (.cosumm x) s = .next t ∧ Terminates s t R (.cosumm x.k) (kreg s s.cur) R.pends) ∧
    (∀ x : JmpOp, TermIssues { TermInfo.plain with withWatch := true } s R →
      ∃ t, exec (.jmp x) s = .next t ∧ Terminates s t R (.jmp x.off) (kreg s s.cur) R.pends) ∧
    (∀ x : JselOp, TermIssues { TermInfo.plain with words := 2 } s R →
      ∃ t, exec (.jsel x) s = .next t ∧ Terminates s t R (.jsel x.p x.t x.f x.j) (kreg s s.cur) R.pends) ∧
    (∀ x : JselOp, TermIssues TermInfo.plain s R → R.half = false → overBound (s.gang s.cur.gang) 2 = false →
      ∃ t, exec (.jsel x) s = .next t ∧
        t.slot s.cur = { s.slot s.cur with run := some { R with half := true }, stamp := (t.slot s.cur).stamp } ∧
        (∀ l, l < 64 → (t.gang s.cur.gang).lane l = s.here l) ∧ (∀ i, i < 64 → kreg t s.cur i = kreg s s.cur i) ∧
        (t.gang s.cur.gang).view s.cur.b = (s.gang s.cur.gang).view s.cur.b ∧ (∀ g, g ≠ s.cur.gang → (t.gang g).still = (s.gang g).still) ∧ Beside s t) ∧
    (∀ x : TabOp, TermIssues { TermInfo.plain with srcs := [x.idx], ok := wIs 8 x.idx } s R →
      ∃ t, exec (.jtab x) s = .next t ∧ Terminates s t R (.jtab x.slot x.idx) (kreg s s.cur) R.pends) ∧
    (∀ x : CallOp, TermIssues { TermInfo.plain with dsts := [x.link], ok := wIs 16 x.link && rowStart x.link, withWatch := true } s R →
      ∃ t, exec (.call x) s = .next t ∧ Terminates s t R (.call x.off x.link) (kreg s s.cur) R.pends) ∧
    (∀ x : TabOp, TermIssues { TermInfo.plain with srcs := [x.idx], dsts := [{ start := x.idx.start, w := .w16 }],
                                                   ok := wIs 8 x.idx && rowStart x.idx } s R →
      ∃ t, exec (.callt x) s = .next t ∧ Terminates s t R (.callt x.slot x.idx) (kreg s s.cur) R.pends) ∧
    (∀ x : RetOp, TermIssues { TermInfo.plain with srcs := [x.ra], ok := wIs 16 x.ra } s R →
      ∃ t, exec (.ret x) s = .next t ∧ Terminates s t R (.ret x.ra) (kreg s s.cur) R.pends) ∧
    (∀ x : LoopOp, TermIssues { TermInfo.plain with withWatch := true } s R →
      let n := pat ((kreg s s.cur x.k : Int) - 1) 64
      ∃ t, exec (.loop x) s = .next t ∧
        Terminates s t R (if n = 0 then .next else .jmp x.off) (fun i => if i = x.k then n else kreg s s.cur i) (cancelUni R.pends x.k)) ∧
    (∀ x : YieldOp, TermIssues { TermInfo.plain with noGuard := true, noHandler := true, noCast := true,
                                                     roleC := match x.on with | .batch _ => true | .barrier _ _ => false } s R →
      ∃ t, exec (.yield x) s = .next t ∧ Terminates s t R (.yield x.off x.on) (kreg s s.cur) R.pends) ∧
    (∀ x : BarwOp, TermIssues { TermInfo.plain with noGuard := true, noHandler := true, noCast := true } s R →
      ∃ t, exec (.barw x) s = .next t ∧ Terminates s t R (.barw x.bar) (kreg s s.cur) R.pends)

/-! ## Memory words -/

/-- 10 R211 to R213, 06 R136, R137. A native load of one or more elements through a valid record: the elements' bytes as the core sees them, converted
from the record's format to the type, are pending for the participating lane. No register has changed; no byte of memory has, except
that a bypassing load writes its lines back. That the pending value is what memory and the core's copies hold as the word issues is the model's
choice (log 6), and what a copy in the constant cache reads as after a write is (log 61). -/
def Obligations.NativeLoads : Prop :=
  ∀ (x : LdOp) (s : State) (R : Run) (l c w : Nat) (f : EFmt) (es : Nat → Int) (ks : Nat → List (Option Nat)) (p : Instr × Nat),
    p ∈ [(Instr.ld x, 1), (Instr.ldx x, vecCount x.v x.ty)] → c = p.2 →
    Issues (memInfo x.hd 8 [x.x] [x.v] (addrW x.x && (if p.1 = .ld x then scalarV x.v x.ty else vecCount x.v x.ty != 0))) s R →
    Alone s R x.hd l → holdsRecord s x.q w f → convOk f x.ty false = true → (∀ e ∈ R.store, e.lane ≠ l) →
    (∀ j, j < c → elemKeys s w f (elemIndex (s.here l) x.x x.imm + j) .read (es j) (ks j)) →
    let pol := polCode x.pol (recPolicy w)
    ∃ t, exec p.1 s = .next t ∧
      Loads s t R x.hd l (loadWrites x.v x.ty ((List.range c).map (fun j =>
        convLoad f x.ty (fld (bytesNat ((ks j).map (seenByte s s.cur (recSpace w) pol))) (elemBit w f (es j) % 8) f.bits)))) ∧
      (recSpace w = 0 ∨ recSpace w = 5 ∨ pol ≠ 2 → t.mem = s.mem)

/-- 10 R211 to R213, 04 R85. A native store of one or more elements through a valid record, in a plain trace: each byte of an element, of the value
converted to the record's format, is what the core then sees at its key; in the scratchpad and past the L1 memory holds it. No other byte
of memory has changed, save that a bypassing store writes its lines back. In a guarded trace no byte has changed, and the lane's store
buffer holds the writes. -/
def Obligations.NativeStores : Prop :=
  ∀ (x : StOp) (s : State) (R : Run) (l c w : Nat) (f : EFmt) (q : Pol) (es : Nat → Int) (ks : Nat → List (Option Nat)) (p : Instr × Nat),
    p ∈ [(Instr.st x, 1), (Instr.stx x, vecCount x.v x.ty)] → c = p.2 → x.mode = .plain q →
    Issues (bufInfo x.hd 8 [x.x, x.v] (addrW x.x && (if p.1 = .st x then scalarV x.v x.ty else vecCount x.v x.ty != 0))) s R →
    Alone s R x.hd l → storesNow s R l false → holdsRecord s x.q w f → convOk f x.ty true = true → apartKeys ks c →
    (∀ j, j < c → elemKeys s w f (elemIndex (s.here l) x.x x.imm + j) .write (es j) (ks j)) →
    let core := coreOf s.cur.gang
    let pol := polCode q (recPolicy w)
    let r (j : Nat) := convStore f x.ty (storeValue (s.here l) x.v x.ty c j)
    let sh (j : Nat) := elemBit w f (es j) % 8
    let mask (j i : Nat) : Byte := BitVec.ofNat 8 ((2 ^ f.bits - 1) * 2 ^ sh j / 2 ^ (8 * i))
    let val (j i : Nat) : Byte := BitVec.ofNat 8 ((r j).1 * 2 ^ sh j / 2 ^ (8 * i))
    ∃ t, exec p.1 s = .next t ∧ Stores s t R l ((List.range c).map (fun j => (r j).2)) ∧
      (R.hdr.guarded = true → t.mem = s.mem ∧ ∃ R', (t.slot s.cur).run = some R' ∧
        R'.store = R.store ++ [{ lane := l, off := R.pos + 1, rel := none, ops := (List.range c).flatMap (fun j =>
          storeOps { keys := ks j, sh := sh j, bits := f.bits, space := recSpace w } (r j).1 pol) }]) ∧
      (R.hdr.guarded = false → recSpace w = 0 →
        (∀ j i k, j < c → (ks j)[i]? = some (some k) → t.mem.read k = mergeByte (s.mem.read k) (mask j i) (val j i)) ∧
        ∀ k, awayFrom ks c k → t.mem.read k = s.mem.read k) ∧
      (R.hdr.guarded = false → recSpace w ≠ 0 → 8 ≤ f.bits → pol ≠ 2 →
        (∀ j i k, j < c → (ks j)[i]? = some (some k) → coreByte t core k = val j i) ∧
        ∀ k, awayFrom ks c k → coreByte t core k = coreByte s core k ∧ t.mem.read k = s.mem.read k) ∧
      (R.hdr.guarded = false → recSpace w ≠ 0 → 8 ≤ f.bits → pol = 2 →
        (∀ j i k, j < c → (ks j)[i]? = some (some k) → t.mem.read k = val j i ∧ coreByte t core k = val j i) ∧
        ∀ k, awayFrom ks c k →
          ((∃ j k', j < c ∧ some k' ∈ ks j ∧ lineOf k' = lineOf k ∧ cacheable core k' = true) → t.mem.read k = dirtyByte s core k) ∧
          ((∀ j k', j < c → some k' ∈ ks j → lineOf k' ≠ lineOf k) → t.mem.read k = s.mem.read k))

/-- 06 R137. Out of bounds: in fault mode every word that accesses elements by a record takes a deferred bounds fault of cause 12 in its lane, for the
lowest of its elements that is beyond, and delivers, stores and holds nothing; in zero mode a load delivers zeros, a returning atomic does
nothing and delivers zero, and a store or reduction is dropped: no byte changes but for what a word that releases writes back.
06 R138, R139, 10 R209, R210. RECLD leaves its slot pending on the 32 bytes that its lowest participating lane names, as they stand when the word
issues (the model's choice, log 6), and gives no older copy of them up to a load after it; when they land, no earlier than their time of return
(the model's latency, log 62; counted from the cycle in which the acquires of its lane that are on their way have returned, 10 R216), the slot holds them and is valid exactly where they pass the check, and a copy that fails leaves a record fault in
the lane that read it. That a copy which fails leaves the old body in the slot is the model's choice (log 33). RECINV makes its slot invalid. Memory
does not change. -/
def Obligations.RecordsAndTheirSlots : Prop :=
  (∀ (s : State) (R : Run) (l w : Nat) (f : EFmt) (p : RecWord), Issues p.info s R → Alone s R p.info.hd l → holdsRecord s p.q w f →
    p.fits f = true →
    (∀ x y z, p ∈ recLoads x y z → (p.rel = true → linesSent s (coreOf s.cur.gang) = true) →
      (∀ j, j < p.count → firstBeyond s p w f l j → tabFind R.faults l = none → ∃ t, exec p.i s = .next t ∧ FaultsBeyond s t R p w f l j) ∧
      ((∀ j, j < p.count → boundsMode w (elemIndex (s.here l) p.x p.imm + j) = .zero) →
        ∃ t, exec p.i s = .next t ∧ Loads s t R p.info.hd l (p.zero f) ∧ t.mem = s.mem)) ∧
    ∀ x y z, p ∈ recStores x y z →
      (∀ j, j < p.count → firstBeyond s p w f l j → tabFind R.faults l = none → ∃ t, exec p.i s = .next t ∧ FaultsBeyond s t R p w f l j) ∧
      (tidyL1 s (coreOf s.cur.gang) → storesNow s R l p.rel → (∀ j, j < p.count → boundsMode w (elemIndex (s.here l) p.x p.imm + j) = .zero) →
        ∃ t, exec p.i s = .next t ∧ Stores s t R l [] ∧ (p.rel = false ∨ R.hdr.guarded = true → t.mem = s.mem) ∧
          (∀ k, dirtyByte t (coreOf s.cur.gang) k = dirtyByte s (coreOf s.cur.gang) k) ∧
          ∃ R' es, (t.slot s.cur).run = some R' ∧ R'.store = R.store ++ es ∧ ∀ e ∈ es, e.ops = [])) ∧
  ∀ (s : State) (R : Run) (team : Nat) (T : Team) (y : RecSlot), (s.gang s.cur.gang).team = some team → s.team? team = some T →
    (∀ x : RecldOp, ∀ l k e, Issues { plainInfo x.hd 8 [x.x] [] (wIs 16 x.x) with lowest := true } s R → s.reds = [] →
      unspoilt s (coreOf s.cur.gang) = true → placeReady s (coreOf s.cur.gang) k = true → peerRefuses s k = false →
      Mask.lowest (participants s s.cur R x.hd true) = some l → T.recs[x.q]? = some y → y.pending = none →
      (s.here l).rd x.x % 2 ^ 56 % 32 = 0 →
      (s.core (coreOf s.cur.gang)).tlb.find? (fun e => e.covers (gangCtx s s.cur).1 ((s.here l).rd x.x % 2 ^ 56)) = some e →
      e.check ((s.here l).rd x.x % 2 ^ 56) .read (gangCtx s s.cur).2 none = .ok e.space k →
      let core := coreOf s.cur.gang
      ∃ t T', exec (.recld x) s = .next t ∧ t.team? team = some T' ∧ t.mem = s.mem ∧
        T'.recs[x.q]? = some { y with pending := some (RecReq.mk s.cur l (R.pos + 1) k
          (BitVec.ofNat 256 (bytesNat ((List.range 32).map (fun i => dirtyByte s core (k + i))))) false (accessFrom s s.cur.gang (1#64 <<< l) + placeCycles s core k)) } ∧
        (tidyL1 s core → ∀ k', lineOf k' = lineOf k → coreByte t core k' = dirtyByte s core k')) ∧
    (∀ q p, T.recs[q]? = some y → y.pending = some p →
      let w := p.copy.toNat
      (s.now < p.back → exec (.recordLanding team q) s = .next s) ∧
      (p.back ≤ s.now → p.bad = false →
        ∃ t T', exec (.recordLanding team q) s = .next t ∧ t.team? team = some T' ∧ t.mem = s.mem ∧
          T'.recs[q]? = some { body := if recordOk w then p.copy else y.body, valid := recordOk w, pending := none } ∧
          (∀ R', (s.slot p.slot).run = some R' → q ∈ R'.recld → (s.gang p.slot.gang).team = some team → recordOk w = false →
            tabFind R'.faults p.lane = none →
            ∃ R'', (t.slot p.slot).run = some R'' ∧ tabFind R''.faults p.lane = some { cause := 13, off := p.off, detail := recVersion w }))) ∧
    (∀ x : RecinvOp, Issues (plainInfo x.hd 8 [] [] true) s R → T.recs[x.q]? = some y → y.pending = none →
      participants s s.cur R x.hd true ≠ 0 →
      ∃ t T', exec (.recinv x) s = .next t ∧ t.team? team = some T' ∧ t.mem = s.mem ∧ T'.recs[x.q]? = some { y with valid := false })

/-- 10 R214, R215, 06 R126. The loads by address of each space, the scratchpad's LDS among them: the element's bytes as the core sees them, without
conversion, are pending for the participating lane; no register has changed, and no byte of memory unless the load bypasses. That the pending
value is what memory and the core's copies hold as the word issues is the model's choice (log 6), and what a copy in the constant cache reads as
after a write is (log 61).
10 R214, R215, 04 R85. The stores by address of each space, in a plain trace: each byte of the value is what the core then sees at its key, and no
other byte of memory has changed unless the store bypasses. In a guarded trace the lane's store buffer holds the writes and no byte has
changed. -/
def Obligations.AddressedLoadsAndStores : Prop :=
  (∀ (s : State) (R : Run) (l : Nat) (ks : Nat → List (Option Nat)) (v a : Opnd) (kb : Nat) (imm : Int) (ty : Ty) (vec : Bool) (pol : Pol) (hd : Hd),
    ty.isBarord = true →
    Issues { memInfo hd 9 [a] [v] (addrW a && barordV v ty vec) with pf := false } s R → Alone s R hd l → (∀ e ∈ R.store, e.lane ≠ l) →
    let n := ty.bits / 8
    let addr (j : Nat) := barordAddr s s.cur (s.here l) a kb imm ty j
    let value (space pol j : Nat) : Int × Nat :=
      let b := bytesNat ((ks j).map (seenByte s s.cur space pol))
      (if ty.isInt then readInt ty b else (b : Int), 0)
    (∀ p ∈ ([(Instr.lds ⟨hd, v, a, kb, imm, ty, vec⟩, 0, 0), (Instr.ldv ⟨hd, v, a, kb, imm, ty, vec, pol⟩, 1, polCode pol 0),
             (Instr.ldg ⟨hd, v, a, kb, imm, ty, vec, pol⟩, 2, polCode pol 0), (Instr.ldp ⟨hd, v, a, kb, imm, ty, vec, pol⟩, 3, polCode pol 0),
             (Instr.ldh ⟨hd, v, a, kb, imm, ty, vec, pol⟩, 4, polCode pol 0), (Instr.ldc ⟨hd, v, a, kb, imm, ty, vec, pol⟩, 5, polCode pol 0)]
             : List (Instr × Nat × Nat)),
      (∀ j, j < barordCount v ty vec → (p.2.1 = 0 ∨ addr j % n = 0) ∧
        byteKeys s s.cur p.2.1 (if p.2.1 = 0 then addr j else addr j % 2 ^ 56) n .read = some (ks j)) →
      ∃ t, exec p.1 s = .next t ∧
        Loads s t R hd l (loadWrites v ty ((List.range (barordCount v ty vec)).map (value p.2.1 p.2.2))) ∧
        (p.2.1 = 0 ∨ p.2.1 = 5 ∨ p.2.2 ≠ 2 → t.mem = s.mem))) ∧
  ∀ (s : State) (R : Run) (l : Nat) (ks : Nat → List (Option Nat)) (v a : Opnd) (kb : Nat) (imm : Int) (ty : Ty) (vec : Bool) (pol : Pol) (hd : Hd),
    ty.isBarord = true →
    Issues { bufInfo hd 9 [a, v] (addrW a && barordV v ty vec) with pf := false } s R → Alone s R hd l → storesNow s R l false →
    let n := ty.bits / 8
    let core := coreOf s.cur.gang
    let c := barordCount v ty vec
    let addr (j : Nat) := barordAddr s s.cur (s.here l) a kb imm ty j
    let val (j i : Nat) : Byte := BitVec.ofNat 8 (storeValue (s.here l) v ty c j / 2 ^ (8 * i))
    apartKeys ks c →
    (∀ p ∈ ([(Instr.sts ⟨hd, v, a, kb, imm, ty, vec⟩, 0, 0), (Instr.stv ⟨hd, v, a, kb, imm, ty, vec, pol⟩, 1, polCode pol 0),
             (Instr.stg ⟨hd, v, a, kb, imm, ty, vec, pol⟩, 2, polCode pol 0), (Instr.stp ⟨hd, v, a, kb, imm, ty, vec, pol⟩, 3, polCode pol 0),
             (Instr.sth ⟨hd, v, a, kb, imm, ty, vec, pol⟩, 4, polCode pol 0)] : List (Instr × Nat × Nat)),
      (∀ j, j < c → (p.2.1 = 0 ∨ addr j % n = 0) ∧
        byteKeys s s.cur p.2.1 (if p.2.1 = 0 then addr j else addr j % 2 ^ 56) n .write = some (ks j)) →
      ∃ t, exec p.1 s = .next t ∧ Stores s t R l (List.replicate c 0) ∧
        (R.hdr.guarded = true → t.mem = s.mem ∧ ∃ R', (t.slot s.cur).run = some R' ∧
          R'.store = R.store ++ [{ lane := l, off := R.pos + 1, rel := none, ops := (List.range c).flatMap (fun j =>
            storeOps { keys := ks j, sh := 0, bits := ty.bits, space := p.2.1 } (storeValue (s.here l) v ty c j) p.2.2) }]) ∧
        (R.hdr.guarded = false → p.2.1 = 0 →
          (∀ j i k, j < c → (ks j)[i]? = some (some k) → t.mem.read k = val j i) ∧ ∀ k, awayFrom ks c k → t.mem.read k = s.mem.read k) ∧
        (R.hdr.guarded = false → p.2.1 ≠ 0 →
          (∀ j i k, j < c → (ks j)[i]? = some (some k) → coreByte t core k = val j i) ∧
          (p.2.2 ≠ 2 → ∀ k, awayFrom ks c k → coreByte t core k = coreByte s core k ∧ t.mem.read k = s.mem.read k)))

/-- 10 R216 to R220. At a scope beyond the core's L1, STL and a native store that releases write every dirty byte of the core back and then store
their bytes at their places, so that memory holds them. LDA at such a scope drops the core's clean copies, so that the core sees of every byte its own
dirty one and otherwise memory's, and delivers its element so; LDA with .rmt drops them too, and first has the recorded owner of the line write back,
and so delivers that owner's bytes. At the scopes of the L1, STL stores and LDA loads as a plain store and load do. That what an LDA delivers is what
memory and the cores' copies hold as the word issues is the model's choice (log 6); constant memory is read through its cache (log 61). -/
def Obligations.AcquireAndRelease : Prop :=
  ∀ (s : State) (R : Run) (l w : Nat) (f : EFmt), tidyL1 s (coreOf s.cur.gang) →
    let core := coreOf s.cur.gang
    (∀ (x : ScMemOp) (j : Int) (ks : List (Option Nat)), R.hdr.guarded = false → Alone s R x.hd l → storesNow s R l (scopeWide x.sc) →
      holdsRecord s x.q w f → exactFmt f x.ty = true →
      Issues (plainInfo x.hd 8 [x.x, x.v] [] (addrW x.x && x.v.w.stitches == x.ty.stitches)) s R → apartKeys (fun _ => ks) 1 →
      elemKeys s w f (elemIndex (s.here l) x.x x.imm) .write j ks →
      let r := convStore f x.ty ((s.here l).srcP x.ty x.v)
      ∃ t, exec (.stl x) s = .next t ∧ Stores s t R l [r.2] ∧
        (scopeWide x.sc = true →
          (∀ i k, ks[i]? = some (some k) → t.mem.read k = BitVec.ofNat 8 (r.1 / 2 ^ (8 * i))) ∧
          ∀ k, some k ∉ ks → t.mem.read k = dirtyByte s core k) ∧
        (scopeWide x.sc = false →
          (∀ i k, ks[i]? = some (some k) → coreByte t core k = BitVec.ofNat 8 (r.1 / 2 ^ (8 * i))) ∧
          (recPolicy w ≠ 2 → ∀ k, some k ∉ ks → coreByte t core k = coreByte s core k))) ∧
    (∀ (x : StOp) (sc : Scope) (c : Nat) (es : Nat → Int) (ks : Nat → List (Option Nat)) (p : Instr × Nat),
      p ∈ [(Instr.st x, 1), (Instr.stx x, vecCount x.v x.ty)] → c = p.2 → x.mode = .rel sc → scopeWide sc = true → R.hdr.guarded = false →
      Issues (bufInfo x.hd 8 [x.x, x.v] (addrW x.x && (if p.1 = .st x then scalarV x.v x.ty else vecCount x.v x.ty != 0))) s R →
      Alone s R x.hd l → storesNow s R l true → holdsRecord s x.q w f → convOk f x.ty true = true → apartKeys ks c →
      (∀ j, j < c → elemKeys s w f (elemIndex (s.here l) x.x x.imm + j) .write (es j) (ks j)) →
      let r (j : Nat) := convStore f x.ty (storeValue (s.here l) x.v x.ty c j)
      let sh (j : Nat) := elemBit w f (es j) % 8
      let mask (j i : Nat) : Byte := BitVec.ofNat 8 ((2 ^ f.bits - 1) * 2 ^ sh j / 2 ^ (8 * i))
      let val (j i : Nat) : Byte := BitVec.ofNat 8 ((r j).1 * 2 ^ sh j / 2 ^ (8 * i))
      ∃ t, exec p.1 s = .next t ∧ Stores s t R l ((List.range c).map (fun j => (r j).2)) ∧
        (∀ j i k, j < c → (ks j)[i]? = some (some k) → t.mem.read k = mergeByte (dirtyByte s core k) (mask j i) (val j i)) ∧
        ∀ k, awayFrom ks c k → t.mem.read k = dirtyByte s core k) ∧
    ∀ (x : ScMemOp) (j : Int) (ks : List (Option Nat)), Alone s R x.hd l → holdsRecord s x.q w f → exactFmt f x.ty = true →
      Issues (plainInfo x.hd 8 [x.x] [x.v] (addrW x.x && x.v.w.stitches == x.ty.stitches)) s R →
      elemKeys s w f (elemIndex (s.here l) x.x x.imm) .read j ks →
      let out (bs : List Byte) := loadWrites x.v x.ty [convLoad f x.ty (bytesNat bs)]
      (∃ t, exec (.lda x) s = .next t ∧
        Loads s t R x.hd l (out (ks.map (seenByte s s.cur (recSpace w) (if scopeWide x.sc then 2 else recPolicy w)))) ∧
        (scopeWide x.sc = true → ∀ k, coreByte t core k = dirtyByte s core k)) ∧
      ((∀ k, some k ∈ ks → otherOwners s core k = []) →
        ∃ t, exec (.ldaRmt x) s = .next t ∧ Loads s t R x.hd l (out (ks.map (seenByte s s.cur (recSpace w) 2))) ∧
          (scopeWide x.sc = true ∨ recSpace w ≠ 0 → ∀ k, coreByte t core k = dirtyByte s core k)) ∧
      ∀ line c, recSpace w ≠ 5 → (∀ k, some k ∈ ks → lineOf k = line ∧ (keyRegion k = 1 ∨ keyRegion k = 2) ∧ cacheable c k = true) →
        (∀ o ∈ s.owners, o.1 = line → o.2 = c) → (line, c) ∈ s.owners → c ≠ core → tidyL1 s c → unspoilt s c = true →
        (∀ k, some k ∈ ks → cleanAt s core k) →
        ∃ t, exec (.ldaRmt x) s = .next t ∧ Loads s t R x.hd l (out (ks.map (fun k => k.elim 0 (dirtyByte s c))))

/-- 10 R222. PREF changes nothing that a core sees; CWB writes the line's dirty bytes of its core to their places, keeping the core's view, and
changes no other byte of memory.
10 R217, R221. FENCE.rel beyond the core's L1 leaves every dirty byte of the core in memory, and nothing of it dirty; FENCE.acq leaves the core no
clean copy; at the scopes of the L1 memory and the core's view stay as they are; no lane and no register changes. -/
def Obligations.PrefetchesWriteBacksAndFences : Prop :=
  (∀ (x : PrefOp) (s : State) (R : Run) (l w : Nat) (f : EFmt) (j : Int) (k : Nat) (ks : List (Option Nat)),
    let core := coreOf s.cur.gang
    Alone s R x.hd l → tidyL1 s core → holdsRecord s x.q w f → recSpace w ≠ 0 →
    elemKeys s w f (elemIndex (s.here l) x.x x.imm) .read j (some k :: ks) → boundsMode w (elemIndex (s.here l) x.x x.imm) = .index (elemIndex (s.here l) x.x x.imm) →
    (Issues { memInfo x.hd 8 [x.x] [] (addrW x.x) with pf := false } s R →
      ∃ t, exec (.pref x) s = .next t ∧ t.mem = s.mem ∧ ∀ k', coreByte t core k' = coreByte s core k') ∧
    (Issues { plainInfo x.hd 8 [x.x] [] (addrW x.x) with pf := false } s R →
      ∃ t, exec (.cwb x) s = .next t ∧ (∀ k', coreByte t core k' = coreByte s core k') ∧
        ∀ k', t.mem.read k' = if recSpace w ≠ 5 ∧ lineOf k' = lineOf k then dirtyByte s core k' else s.mem.read k')) ∧
  ∀ (x : FenceOp) (s : State) (R : Run), Issues { plainInfo x.hd 0xA [] [] true with pf := false } s R → Quiet s →
    (scopeWide x.sc = true → x.ord = .rel ∨ x.ord = .ar → linesSent s (coreOf s.cur.gang) = true) → participants s s.cur R x.hd true ≠ 0 →
    let core := coreOf s.cur.gang
    ∃ t, exec (.fence x) s = .next t ∧
      (scopeWide x.sc = false → t.mem = s.mem ∧ ∀ k, coreByte t core k = coreByte s core k) ∧
      (scopeWide x.sc = true → x.ord = .rel ∨ x.ord = .ar → (∀ k, t.mem.read k = dirtyByte s core k) ∧ ∀ ln ∈ (t.core core).l1, ln.dirty = 0) ∧
      (x.ord = .acq → t.mem = s.mem) ∧
      (scopeWide x.sc = true → x.ord = .acq ∨ x.ord = .ar → ∀ k, coreByte t core k = dirtyByte s core k) ∧
      (∀ i, i < 64 → (t.gang s.cur.gang).lane i = s.here i) ∧ ∀ i, i < 64 → kreg t s.cur i = kreg s s.cur i

/-- 10 R223 to R226. ATOM and ATOMS perform their operation at the element's place at issue: the old value is pending for the lane, and memory holds the
new one; no other byte changes, but those of its line that the core gives up. That the operation takes place as the word issues, and the pending
value with it, is the model's choice for an element beyond the scratchpad (log 6). -/
def Obligations.AtomicsAtTheirPlaces : Prop :=
  ∀ (s : State) (R : Run) (l : Nat),
    (∀ x : AtomOp, ∀ w j ks, x.ord = .none → Alone s R x.hd l → holdsRecord s x.q w (.ty x.ty) →
      Issues (plainInfo x.hd 0xA [x.x, x.v] [atomDst x.v x.aop x.ty] (addrW x.x && atomV x.v x.aop x.ty)) s R →
      x.aop.accepts x.ty = true → elemKeys s w (.ty x.ty) (elemIndex (s.here l) x.x 0) .readWrite j ks → apartKeys (fun _ => ks) 1 →
      let y := atomOperands (s.here l) x.v x.aop x.ty
      let old := bytesNat (ks.map (fun k => k.elim 0 (if recSpace w = 0 then s.mem.read else dirtyByte s (coreOf s.cur.gang))))
      let new := atomOp x.aop x.ty old y.1 y.2
      ∃ t, exec (.atom x) s = .next t ∧
        Loads s t R x.hd l [.st x.v.start x.ty.stitches old, .fl new.fl] ∧
        (∀ i k, ks[i]? = some (some k) → t.mem.read k = BitVec.ofNat 8 (new.v / 2 ^ (8 * i))) ∧
        ∀ k, (∀ k', some k' ∈ ks → lineOf k' ≠ lineOf k) → t.mem.read k = s.mem.read k) ∧
    (∀ x : AtomsOp, Alone s R x.hd l → x.aop.accepts x.ty = true →
      Issues (plainInfo x.hd 0xA [x.a, x.v] [atomDst x.v x.aop x.ty] (addrW x.a && atomV x.v x.aop x.ty)) s R →
      let ks := atomsKeys s s.cur (s.here l) x.a x.kb x.imm x.ty
      apartKeys (fun _ => ks) 1 →
      let y := atomOperands (s.here l) x.v x.aop x.ty
      let old := bytesNat (ks.map (fun k => k.elim 0 s.mem.read))
      let new := atomOp x.aop x.ty old y.1 y.2
      ∃ t, exec (.atoms x) s = .next t ∧
        Loads s t R x.hd l [.st x.v.start x.ty.stitches old, .fl new.fl] ∧
        (∀ i k, ks[i]? = some (some k) → t.mem.read k = BitVec.ofNat 8 (new.v / 2 ^ (8 * i))) ∧
        ∀ k, some k ∉ ks → t.mem.read k = s.mem.read k)

/-- 10 R223, R227, R228. RED sends its operand on its way and changes no memory but what its core writes back, the element's line, or every line where it
releases beyond the L1; REDUCTION_APPLY applies a contribution at its place and takes it off
the way, once nothing that it must follow is still on its way; flags go to the fault domain's word, not to the lane. REDS performs at once in the
scratchpad. -/
def Obligations.ReductionsTravel : Prop :=
  ∀ (s : State) (R : Run) (l : Nat),
    (∀ x : RedOp, ∀ w j k ks, let wide := x.rel && scopeWide x.sc
      R.hdr.guarded = false → Alone s R x.hd l → storesNow s R l wide → tidyL1 s (coreOf s.cur.gang) → holdsRecord s x.q w (.ty x.ty) → recSpace w ≠ 0 →
      Issues { bufInfo x.hd 0xA [x.x, x.v] (addrW x.x && atomV x.v x.aop x.ty) with pf := false } s R →
      elemKeys s w (.ty x.ty) (elemIndex (s.here l) x.x 0) .write j (some k :: ks) → keyRegion k ≠ 0 →
      cleanAt s (coreOf s.cur.gang) k →
      ∃ t d, exec (.red x) s = .next t ∧ Stores s t R l [] ∧ t.reds = [d] ∧ d.key = k ∧ d.aop = x.aop ∧ d.ty = x.ty ∧ d.lane = l ∧
        d.x = (s.here l).rdAt x.v.start x.ty.stitches ∧ d.ordm = x.ordm ∧ d.core = coreOf s.cur.gang ∧
        coreByte t (coreOf s.cur.gang) k = s.mem.read k ∧
        (wide = false → ∀ k', lineOf k' ≠ lineOf k → t.mem.read k' = s.mem.read k') ∧
        (wide = true → ∀ k', t.mem.read k' = dirtyByte s (coreOf s.cur.gang) k')) ∧
    (∀ d, s.reds.find? (fun e => e.id == d.id) = some d → inTurn s [d.id] [d] = false → exec (.reductionApply (.leaf d.id)) s = .next s) ∧
    (∀ d, s.reds.find? (fun e => e.id == d.id) = some d → s.poison = [] → inTurn s [d.id] [d] = true → doomed s d.owner = false →
      let new := atomOp d.aop d.ty (s.mem.readN d.key (d.ty.bits / 8)) d.x 0
      ∃ t, exec (.reductionApply (.leaf d.id)) s = .next t ∧ t.reds = s.reds.filter (fun e => e.id != d.id) ∧
        (∀ i, i < d.ty.bits / 8 → t.mem.read (d.key + i) = BitVec.ofNat 8 (new.v / 2 ^ (8 * i))) ∧
        (∀ k, ¬ (d.key ≤ k ∧ k < d.key + d.ty.bits / 8) → t.mem.read k = s.mem.read k) ∧
        tabGet 0 t.rflags d.dom = tabGet 0 s.rflags d.dom ||| (BitVec.ofNat 32 new.fl &&& 0x1D#32) ∧ t.gangs = s.gangs) ∧
    (∀ x : AtomsOp, R.hdr.guarded = false → Alone s R x.hd l → storesNow s R l false →
      Issues { bufInfo x.hd 0xA [x.a, x.v] (addrW x.a && atomV x.v x.aop x.ty) with pf := false } s R →
      let ks := atomsKeys s s.cur (s.here l) x.a x.kb x.imm x.ty
      apartKeys (fun _ => ks) 1 → x.ty.bits / 8 ≠ 0 →
      (∀ k, some k ∈ ks → keyRegion k = 0) →
      let new := atomOp x.aop x.ty (bytesNat (ks.map (fun k => k.elim 0 s.mem.read))) ((s.here l).rdAt x.v.start x.ty.stitches) 0
      ∃ t, exec (.reds x) s = .next t ∧ Stores s t R l [] ∧ t.reds = [] ∧
        (∀ i k, ks[i]? = some (some k) → t.mem.read k = BitVec.ofNat 8 (new.v / 2 ^ (8 * i))) ∧
        ∀ k, some k ∉ ks → t.mem.read k = s.mem.read k)

/-! ## Matrix words -/

/-- 12 R260, R264 to R270. A matrix command whose operand words are well formed, whose engines have room and whose tiles its team holds takes the last
place of the sequence with the operands that it read at issue; it has not started, and no memory, no lane and no register has changed. -/
def Obligations.MatrixCommandsJoinTheSequence : Prop :=
  ∀ (s : State) (R : Run) (l team : Nat) (i : Instr) (hd : Hd) (ok tw : Bool) (bar : Bar) (qmask : Nat) (op : MatOp),
    let core := coreOf s.cur.gang
    let cores := if tw then [core, otherCore core] else [core]
    let queued : MatCmd := { id := s.nextCmd, core, tw, team, gang := s.cur.gang, qmask, op, bar := barOf s s.cur.gang bar, started := false,
                             since := 0, consumed := false, a := [], exts := [] }
    Issues (matInfo hd [] ok) s R → Mask.lowest (participants s s.cur R hd true) = some l → (s.gang s.cur.gang).team = some team →
    engineFull s core tw = false → tileFault s team (quarterTiles cores qmask) (extsOf (queued.srcs ++ queued.dsts)) = none →
    ((∃ x p f q, i = .charge x ∧ hd = x.hd ∧ ok = (x.fmt % 2 == 0) ∧ tw = x.tw ∧ bar = x.bar ∧ placeWordOf (kreg s s.cur x.place) true = some p ∧
        fmtBlkOf (kpair s s.cur x.fmt) = some f ∧ quarterWordOf (kreg s s.cur x.kq) false false = some q ∧ qmask = q.qmask ∧
        op = .charge p f x.n1024) ∨
     (∃ x f q k, i = .mma x ∧ hd = x.hd ∧ ok = (x.fmt % 2 == 0) ∧ tw = x.tw ∧ bar = x.bar ∧ fmtBlkOf (kpair s s.cur x.fmt) = some f ∧
        quarterWordOf (kreg s s.cur x.kq) false false = some q ∧ qmask = q.qmask ∧ mmaShape s core x.tw q.qmask f = some k ∧
        fld (kreg s s.cur x.cmd) 27 37 = 0 ∧ fld (kreg s s.cur x.cmd) 0 20 % 64 = 0 ∧ 1 ≤ fld (kreg s s.cur x.cmd) 20 7 ∧
        fld (kreg s s.cur x.cmd) 20 7 ≤ (if f.bt2 then 16 else 64) ∧ op = .mma (fld (kreg s s.cur x.cmd) 20 7) (fld (kreg s s.cur x.cmd) 0 20) f k) ∨
     (∃ x q, i = .accz x ∧ hd = x.hd ∧ ok = true ∧ tw = x.tw ∧ bar = .none ∧ quarterWordOf (kreg s s.cur x.kq) false false = some q ∧
        qmask = q.qmask ∧ op = .accz) ∨
     (∃ x p q, i = .accld x ∧ hd = x.hd ∧ ok = true ∧ tw = false ∧ bar = .none ∧ placeWordOf (kreg s s.cur x.place) true = some p ∧
        quarterWordOf (kreg s s.cur x.kq) false false = some q ∧ qmask = q.qmask ∧ op = .accld p) ∨
     (∃ x p q, i = .accst x ∧ hd = x.hd ∧ ok = true ∧ tw = false ∧ bar = .none ∧ placeWordOf (kreg s s.cur x.place) true = some p ∧
        quarterWordOf (kreg s s.cur x.kq) false true = some q ∧ (x.rm = .rne ∨ q.ofmt ≠ 0) ∧ qmask = q.qmask ∧ op = .accst p q.ofmt x.rm) ∨
     (∃ x p sc q, i = .accq x ∧ hd = x.hd ∧ ok = true ∧ tw = false ∧ bar = .none ∧ placeWordOf (kreg s s.cur x.place) true = some p ∧
        placeWordOf (kreg s s.cur x.sc) false = some sc ∧ quarterWordOf (kreg s s.cur x.kq) false false = some q ∧ qmask = q.qmask ∧
        op = .accq p sc x.bx4 x.b16)) →
    ∃ t c, exec i s = .next t ∧ t.mats = s.mats ++ [c] ∧ c = { queued with a := c.a, exts := c.exts } ∧
      c.a = (srcKeys s c).map (placeByte s core) ∧ t.mem = s.mem ∧ t.quarters = s.quarters ∧ t.tiles = s.tiles ∧
      (∀ n, n < 64 → (t.gang s.cur.gang).lane n = s.here n) ∧ ∀ n, n < 64 → kreg t s.cur n = kreg s s.cur n

/-- 12 R260 to R263, 27 R421. A command that has not started, whose vaults are ready and that no earlier command of its cores keeps back starts; an
MMA also starts beside an earlier one of a core that is near the end of its array window, and at once after one that has just retired. An MMA whose
last row's cycle has come, after those before it on its cores, captures its operands and arrives at its barrier. Each byte of a source is then as it was
sampled, or as it is (12 R263). A command retires when its cycle has come, after every earlier one on its cores, and what it writes is what later
commands of its cores read, whatever they held of it. The events of the engine bring each about; one that is not due changes nothing. -/
def Obligations.MatrixCommandsProceedInOrder : Prop :=
  ∀ (s : State) (c : MatCmd), findMat s c.id = some c →
    let sampled (a : List Byte) := a.length = ((srcKeys s c).zip c.a).length ∧ ∀ (i : Nat) (k : Option Nat) (b : Byte), ((srcKeys s c).zip c.a)[i]? = some (k, b) →
      a[i]? = some b ∨ a[i]? = some (placeByte s c.core k)
    (c.started = false → (∀ e ∈ c.exts, vaultReady s (e.2 / 256) = true) → (∀ k ∈ c.cores, matPrev s c k = none) → canStart s c = true) ∧
    (c.started = false → isMma c = true → (∀ e ∈ c.exts, vaultReady s (e.2 / 256) = true) →
      (∀ k ∈ c.cores, (matPrev s c k = none ∧ (s.core k).lastMma = true) ∨
        ∃ b, matPrev s c k = some b ∧ isMma b = true ∧ b.started = true ∧ b.since + b.window < s.mclock + 20) → canStart s c = true) ∧
    (canStart s c = true → ∃ a, sampled a ∧ exec (.matrixCommandStart c.id) s = .next (setMat { s with fresh := s.fresh + sampleSpan }
      { c with started := true, since := s.mclock, a })) ∧
    (isMma c = true → c.started = true → c.consumed = false → c.since + c.lastRow ≤ s.mclock →
      (∀ b ∈ matsBefore s c.id, sharesCore c b = true → b.consumed = true) → canConsume s c = true) ∧
    (canConsume s c = true → unspoilt s c.core = true → ∃ a, sampled a ∧ exec (.operandsConsumed c.id) s = .next (matArrive (setMat
      { s with fresh := s.fresh + sampleSpan } { c with consumed := true, a }) c)) ∧
    (c.started = true → (isMma c = true → c.consumed = true) → c.since + c.cycles ≤ s.mclock →
      (∀ b ∈ matsBefore s c.id, sharesCore c b = false) → canRetire s c = true) ∧
    (canRetire s c = true → unspoilt s c.core = true → ∃ t, exec (.matrixCommandRetire c.id) s = .next t ∧
      t.mats.map (fun b => { b with a := [] }) = (s.mats.filter (fun b => b.id != c.id)).map (fun b => { b with a := [] }) ∧
      (∀ b ∈ s.mats, b.id ≠ c.id → ∃ b' ∈ t.mats, b' = { b with a := b'.a } ∧ (sharesCore c b = false → b' = b) ∧
        (sharesCore c b = true → ∀ (i : Nat) (k : Option Nat) (x : Byte), ((srcKeys s b).zip b.a)[i]? = some (k, x) →
          b'.a[i]? = some (if k.any (fun n => (dstKeys s c).contains n) then placeByte t b.core k else x))) ∧
      ∀ k ∈ c.cores, (t.core k).lastMma = isMma c) ∧
    (canStart s c = false → exec (.matrixCommandStart c.id) s = .next s) ∧
    (canConsume s c = false → exec (.operandsConsumed c.id) s = .next s) ∧
    (canRetire s c = false → exec (.matrixCommandRetire c.id) s = .next s)

/-- 12 R267, 05 R120 to R124. What a retiring MMA of one quarter leaves: each element of its rows is the element's update, the others are kept; no
other byte of memory changes. -/
def Obligations.MatrixResults : Prop :=
  ∀ (s : State) (c : MatCmd), findMat s c.id = some c → canRetire s c = true → s.poison = [] →
    (∀ m aoff f q, c.op = .mma m aoff f false → c.tw = false → quartersOf c.qmask = [q] →
      let tile := quarterTile c.core q
      let n := if f.bt2 then 512 else 128
      ∃ t, exec (.matrixCommandRetire c.id) s = .next t ∧
        (∀ i j, i < m → j < n → t.mem.readN (sliceKey tile (i * n + j)) 4 =
          (mmaElem s.mem c.a m f [tile] i j (s.mem.readN (sliceKey tile (i * n + j)) 4)).v % 2 ^ 32) ∧
        ∀ k, k < sliceKey tile 0 ∨ sliceKey tile (m * n) ≤ k → t.mem.read k = s.mem.read k)

/-- 12 R271. MSYNC leaves the union of the status words of its quarters pending; with no command under way that it waits for, the value is known at
once, and .clr clears the words. -/
def Obligations.MatrixSynchronisation : Prop :=
  ∀ (x : MsyncOp) (s : State) (R : Run) (l team : Nat) (q : QWord),
    let core := coreOf s.cur.gang
    let ts := quarterTiles (if x.tw then [core, otherCore core] else [core]) q.qmask
    Issues (matInfo x.hd [x.d] (wIs 8 x.d)) s R → Mask.lowest (participants s s.cur R x.hd true) = some l →
    (s.gang s.cur.gang).team = some team → quarterWordOf (kreg s s.cur x.kq) true false = some q → tileFault s team ts [] = none →
    s.mats = [] → R.lates = [] → ts.Nodup →
    ∃ t R' id, exec (.msync x) s = .next t ∧ (t.slot s.cur).run = some R' ∧
      (∃ late, R'.lates = [late] ∧ late.id = id ∧ late.val = some ((ts.foldl (fun (a : Word32) u => a ||| (s.quarter u).status) 0).toNat, false, 0)) ∧
      (∀ n, Mask.has (participants s s.cur R x.hd true) n = true → n < 64 →
        .st n x.d.start (stitchMask x.d.start x.d.w.stitches) (.late id) ∈ R'.pends) ∧
      (∀ u ∈ ts, (t.quarter u).status = if q.clr then 0 else (s.quarter u).status)

/-! ## Copies and batches -/

/-- 13 R280 to R284. A copy command issues with the operands that it reads, and its slot waits at the word until the transfer unit has checked it;
COPY_ACCEPT of a command whose record, operands and pages pass puts it at the end of the unit's commands, in the open batch of its lane,
and the slot goes on past the word; where the check finds a fault the lane takes it, deferred, and the slot goes on. 27 R421: the check waits for
the functions that its record's place needs. -/
def Obligations.CopiesAreCheckedAndAccepted : Prop :=
  ∀ (s : State) (R : Run) (l : Nat),
    (∀ (hd : Hd) (kl kbox ksp : Nat) (b : Bar) (aop : Aop) (ty : Ty),
      Issues (copyInfo hd [] (kbox % 2 == 0)) s R → Mask.lowest (participants s s.cur R hd true) = some l → unitFull s (coreOf s.cur.gang) = false →
      ∀ p ∈ ([(Instr.cpy ⟨hd, kl, kbox, ksp, b⟩, 0, Aop.add, Ty.none), (Instr.cpyg ⟨hd, kl, kbox, ksp, b⟩, 1, Aop.add, Ty.none),
              (Instr.cpyrd ⟨hd, kl, kbox, ksp, b, aop, ty⟩, 2, aop, ty)] : List (Instr × Nat × Aop × Ty)),
        ∃ t, exec p.1 s = .next t ∧ Held s t R (.copy {
          kind := p.2.1, lane := l, layoutAddr := kreg s s.cur kl, box0 := kreg s s.cur kbox, box1 := kreg s s.cur (kbox + 1),
          spw := kreg s s.cur ksp, bar := barOf s s.cur.gang b, br := b, aop := p.2.2.1, ty := p.2.2.2 })) ∧
    (∀ r q, (s.slot r).wait = .copy q → (s.slot r).run = some R → copyRecReady s r q = false → exec (.copyAccept r) s = .next s) ∧
    (∀ r q, (s.slot r).wait = .copy q → (s.slot r).run = some R → s.reds = [] → copyRecReady s r q = true →
      (∀ s' w idx pages, checkCopy s r q = (s', .ok w idx pages) →
        ∃ t c R', exec (.copyAccept r) s = .next t ∧ t.copies = s'.copies ++ [c] ∧ c.req = q ∧ c.gang = r.gang ∧ c.core = coreOf r.gang ∧
          c.batch = (laneBatch s r.gang q.lane).sealed + 1 ∧ c.landed = [] ∧ c.requested = 0 ∧ c.layout = BitVec.ofNat 256 w ∧
          (t.slot r).run = some R' ∧ R'.pos = R.pos + 1 ∧ R'.faults = R.faults ∧ t.mem = s'.mem) ∧
      (∀ s' c d, checkCopy s r q = (s', .fault c d) → tabFind R.faults q.lane = none →
        ∃ t R', exec (.copyAccept r) s = .next t ∧ t.copies = s'.copies ∧ (t.slot r).run = some R' ∧ R'.pos = R.pos + 1 ∧
          tabFind R'.faults q.lane = some { cause := c, off := R.pos + 1, detail := d }))

/-- 13 R282, R285, R286, R426. A unit requests the granules of a command in order, and one that lies at a peer lands next, in its place in the flow (27
R416; that it does not travel on its own is the model's choice, log 17); a landed copy granule's bytes are in the scratchpad, each the byte
of its box, or zero outside the array, and nothing else of memory changes; a command all of whose granules have landed leaves the unit. -/
def Obligations.CopiesLandAndComplete : Prop :=
  ∀ (s : State) (c : Copy),
    (∀ core, nextRequest s core = some c → c.byRed = false →
      ∃ t, exec (.granuleRequest core) s = .next t ∧ t.mem = s.mem ∧
        t.agenda = (if laySpace c.w = 3 then [.event (.granuleLand c.id c.requested)] else []) ++ s.agenda ∧
        t.copies = s.copies.map (fun d => if d.id = c.id then { c with requested := c.requested + 1 } else d)) ∧
    (∀ n T, findCopy s c.id = some c → n < c.requested → n ∉ c.landed → c.req.kind = kCpy → c.req.out = false → c.req.bar = none → s.poison = [] →
      s.reds = [] → doomed s (some c.team) = false → (∀ k ∈ granulePlaces c n, peerRefuses s k = false) → 8 ≤ c.bits → s.team? c.team = some T → T.remap = none → (s.core c.core).l1 = [] →
      (∀ t₁ t₂, t₁ ∈ c.granule n → t₂ ∈ c.granule n → (copySpadKey s c (c.dst t₁)).isSome = true →
        copySpadKey s c (c.dst t₁) = copySpadKey s c (c.dst t₂) → t₁ = t₂) →
      (∀ i x y z, x ∈ c.granule n → c.memPart (x / c.req.rowBytes c.bits) i = some (y, z) → keyRegion y ≠ 0) →
      ∃ t, exec (.granuleLand c.id n) s = .next t ∧
        t.copies = s.copies.map (fun d => if d.id = c.id then { c with landed := c.landed ++ [n] } else d) ∧
        (∀ x k, x ∈ c.granule n → copySpadKey s c (c.dst x) = some k →
          t.mem.read k = match c.memPart (x / c.req.rowBytes c.bits)
              (x % c.req.rowBytes c.bits / (c.bits / 8), 0, 8, 8 * (x % c.req.rowBytes c.bits % (c.bits / 8))) with
            | some (y, sh, _) => BitVec.ofNat 8 (fld (s.mem.read y).toNat sh 8)
            | none => 0) ∧
        ∀ k, (∀ x ∈ c.granule n, copySpadKey s c (c.dst x) ≠ some k) → t.mem.read k = s.mem.read k) ∧
    (findCopy s c.id = some c → copyDone c = true →
      ∃ t, exec (.copyCompletion c.id) s = .next t ∧ t.copies = s.copies.filter (fun d => d.id != c.id)) ∧
    (findCopy s c.id = some c → copyDone c = false → exec (.copyCompletion c.id) s = .next s)

/-- 13 R286, R287. BSEAL gives the lane's open batch its number; BWAIT goes on where the named batch has completed and waits otherwise; BTEST writes
whether it has; a number that the lane has not sealed traps with cause 5. CPYX of a lane with nothing in its open batch reports no command.
13 R286. A lane's next batch completes once it is sealed and none of its commands is left; a slot that waits for a batch that has completed goes
on past its word. A BSEAL of a lane with 255 batches that have not completed waits, and its slot goes on once there are fewer. -/
def Obligations.BatchesAreSealedAndComplete : Prop :=
  (∀ (s : State) (R : Run) (l : Nat) (hd : Hd), Mask.lowest (participants s s.cur R hd true) = some l →
    let b := laneBatch s s.cur.gang l
    (∀ k, Issues (copyInfo hd [] true) s R →
      (b.sealed - b.done < 255 →
        ∃ t, exec (.bseal ⟨hd, k⟩) s = .next t ∧
          Goes s t R hd.sw s.here (fun i => if i = k then batchNum (b.sealed + 1) % 2 ^ 64 else kreg s s.cur i) (cancelUni R.pends k) ∧
          laneBatch t s.cur.gang l = { b with sealed := b.sealed + 1 } ∧
          (∀ n, n ≠ l → laneBatch t s.cur.gang n = laneBatch s s.cur.gang n) ∧
          (batchDue t s.cur.gang l = true → .event (.batchCompletion s.cur.gang l) ∈ t.agenda) ∧ Beside { s with agenda := t.agenda } t) ∧
      (255 ≤ b.sealed - b.done → exec (.bseal ⟨hd, k⟩) s = .next (s.setWait s.cur (.seal l))) ∧
      (∀ i, batchIndex b (kreg s s.cur k) = some i → i ≤ b.done →
        ∃ t, exec (.bwait ⟨hd, k⟩) s = .next t ∧ Passes s t R hd.sw s.here (kreg s s.cur) R.pends) ∧
      (∀ i, batchIndex b (kreg s s.cur k) = some i → b.done < i → ∃ t, exec (.bwait ⟨hd, k⟩) s = .next t ∧ Held s t R (.bwait l i)) ∧
      (batchIndex b (kreg s s.cur k) = none → exec (.bwait ⟨hd, k⟩) s = .next (atIssue s s.cur R 5))) ∧
    (∀ p k, Issues { copyInfo hd [] true with pf := true } s R →
      (∀ i, batchIndex b (kreg s s.cur k) = some i →
        ∃ t, exec (.btest ⟨hd, p, k⟩) s = .next t ∧
          Passes s t R hd.sw (s.written (1#64 <<< l) (fun _ => [.pr p (decide (i ≤ b.done))])) (kreg s s.cur)
            (cancelAll R.pends (1#64 <<< l) (fun _ => [.pr p (decide (i ≤ b.done))]))) ∧
      (batchIndex b (kreg s s.cur k) = none → exec (.btest ⟨hd, p, k⟩) s = .next (atIssue s s.cur R 5))) ∧
    ∀ d, Issues (copyInfo hd [d] (wIs 8 d)) s R →
      (∀ c ∈ s.copies, copyOf s s.cur.gang l c = true → c.batch ≠ b.sealed + 1) →
      ∃ t, exec (.cpyx ⟨hd, d⟩) s = .next t ∧
        Passes s t R hd.sw s.here (kreg s s.cur)
          (cancelAll R.pends (1#64 <<< l) (fun _ => [wrTo d 0]) ++ pendOf l (wrTo d 0))) ∧
  ∀ (s : State) (g l : Nat),
    let b := laneBatch s g l
    (batchDue s g l = true → ∃ t, exec (.batchCompletion g l) s = .next t ∧
      (laneBatch t g l = { b with done := b.done + 1 } ∨ tabFind t.gangs g = none) ∧ t.copies = s.copies ∧ t.mem = s.mem) ∧
    (batchDue s g l = false → ∀ c n R, (s.slot { gang := g, b := c }).mask ≠ 0 → (s.slot { gang := g, b := c }).wait = .bwait l n →
      (s.slot { gang := g, b := c }).run = some R → (s.gang g).stack = [] →
      ∃ t, exec (.batchCompletion g l) s = .next t ∧
        (n ≤ b.done → ∃ R', (t.slot { gang := g, b := c }).run = some R' ∧ R'.pos = R.pos + 1 ∧ R'.view = R.view) ∧
        (b.done < n → t.slot { gang := g, b := c } = s.slot { gang := g, b := c })) ∧
    (batchDue s g l = false → ∀ c, (s.slot { gang := g, b := c }).mask ≠ 0 → (s.slot { gang := g, b := c }).wait = .seal l → (s.gang g).stack = [] →
      ∃ t, exec (.batchCompletion g l) s = .next t ∧ t.slot { gang := g, b := c } =
        if b.sealed - b.done < 255 then { s.slot { gang := g, b := c } with wait := .none } else s.slot { gang := g, b := c })

/-! ## Barriers, watches, drains, spawns -/

/-- 13 R274 to R279. BARINIT sets an idle register; BARARV, CBAR and GBAR arrive as one member, as a release; BAREXP adds to the expected bytes; BARTST
tells whether the phase has changed, as an acquire where it has; GSYNC marks the gang, and arrives for its team once every launched gang
is marked. A register that is met then completes next. A value out of range, and a register that is not idle, trap. -/
def Obligations.BarrierWords : Prop :=
  ∀ (s : State) (R : Run) (hd : Hd), Quiet s → participants s s.cur R hd false ≠ 0 →
    (Issues (syncInfo hd [] true) s R →
      (∀ n k b y, barOf s s.cur.gang (.team n) = some b → barGet s b = some y →
        let v := kreg s s.cur k
        let e : Int := y.expbytes + extS v 64
        (v ≠ 0 → v < 2 ^ 12 → barIdle s b y = true → ∃ t, exec (.barinit ⟨hd, n, k⟩) s = .next t ∧
          PassesTo s (barSet s b { y with expmem := v, arrmem := 0, expbytes := 0, arrbytes := 0 }) t R hd.sw s.here (kreg s s.cur) R.pends) ∧
        (v = 0 ∨ 2 ^ 12 ≤ v → exec (.barinit ⟨hd, n, k⟩) s = .next (atIssue s s.cur R 2)) ∧
        (v ≠ 0 → v < 2 ^ 12 → barIdle s b y = false → exec (.barinit ⟨hd, n, k⟩) s = .next (atIssue s s.cur R 5)) ∧
        (0 ≤ e → e < 2 ^ 32 → ∃ t, exec (.barexp ⟨hd, n, k⟩) s = .next t ∧
          PassesTo s (s.withBar b { y with expbytes := e.toNat }) t R hd.sw s.here (kreg s s.cur) R.pends) ∧
        (e < 0 ∨ 2 ^ 32 ≤ e → exec (.barexp ⟨hd, n, k⟩) s = .next (atIssue s s.cur R 5))) ∧
      (∀ n, ∀ p ∈ ([(Instr.bararv ⟨hd, n⟩, Bar.team n), (Instr.cbar ⟨hd, n⟩, Bar.cluster n), (Instr.gbar ⟨hd, n⟩, Bar.grid n)] : List (Instr × Bar)),
        ∀ b, barOf s s.cur.gang p.2 = some b →
        (∀ y, barGet s b = some y → y.arrbytes < 2 ^ 32 → (scopeWide (barScope b) = true → linesSent s (coreOf s.cur.gang) = true) →
          let core := coreOf s.cur.gang
          let u := if scopeWide (barScope b) then promote s core else s.setCore core { s.core core with teamRel := true }
          ∃ t, exec p.1 s = .next t ∧
            PassesTo s (u.withBar b (y.arrived (arriver s s.cur.gang))) t R hd.sw s.here (kreg s s.cur) R.pends ∧
            (scopeWide (barScope b) = true → ∀ k, t.mem.read k = dirtyByte s core k)) ∧
        (barGet s b = none → exec p.1 s = .next (atIssue s s.cur R 5))) ∧
      (∀ n tm T y, (s.gang s.cur.gang).team = some tm → s.team? tm = some T → barGet s (.grid T.launch n) = some y → y.arrbytes < 2 ^ 32 →
        linesSent s (coreOf s.cur.gang) = true →
        let e := (n, (s.gang s.cur.gang).num)
        let marks := if T.gmarks.contains e then T.gmarks else T.gmarks ++ [e]
        let u := promote s (coreOf s.cur.gang)
        ∃ t, exec (.gsync ⟨hd, n⟩) s = .next t ∧
          if (List.range T.ngang).all (fun i => marks.contains (n, i)) then
            PassesTo s ((u.setTeam tm { T with gmarks := marks.filter (fun p => p.1 != n) }).withBar (.grid T.launch n)
              (y.arrived (arriver s s.cur.gang))) t R hd.sw s.here (kreg s s.cur) R.pends
          else ∃ v, PassesTo s (v.setTeam tm { T with gmarks := marks }) t R hd.sw s.here (kreg s s.cur) R.pends ∧
            v = (if y.came.contains (arriver s s.cur.gang) then u
              else barSet u (.grid T.launch n) { y with came := y.came ++ [arriver s s.cur.gang] }))) ∧
    ∀ x : BartstOp, x.hd = hd → Issues { syncInfo hd [] true with pf := true } s R → ∀ b, barOf s s.cur.gang x.bar = some b →
      (∀ y, barGet s b = some y →
        let f := fun _ => [LW.pr x.p (y.phase != x.ph)]
        ∃ t, exec (.bartst x) s = .next t ∧
          PassesTo s (if y.phase != x.ph then acquireScope s (coreOf s.cur.gang) (barScope b) else s) t R hd.sw
            (s.written (participants s s.cur R hd false) f) (kreg s s.cur) (cancelAll R.pends (participants s s.cur R hd false) f)) ∧
      (barGet s b = none → exec (.bartst x) s = .next (atIssue s s.cur R 5))

/-- 13 R275, R279. A barrier whose members and bytes are met changes its phase and subtracts what it expected, once in a cycle; a slot that recorded the
other phase goes on, and issues from the next cycle, and one that waits for the next phase stays. -/
def Obligations.BarriersComplete : Prop :=
  ∀ (s : State) (b : BarId) (y : Barrier), barGet s b = some y →
    let z := if y.completes s.now then { y with came := [], phase := !y.phase, arrmem := y.arrmem - y.expmem, arrbytes := y.arrbytes - y.expbytes,
                                                expbytes := 0, next := s.now + 1 } else y
    ∃ t, exec (.barrierCompletion b) s = .next t ∧ barGet t b = some z ∧ t.mem = s.mem ∧
      ∀ r ph, waitsOn (s.slot r) b = some ph → (s.gang r.gang).stack = [] →
        t.slot r = if ph = z.phase then s.slot r else { (s.slot r).heldTill (s.now + 1) 6 with wait := .none }

/-- 13 R288. WAITM sets its trace's watch; a watched slot goes on when the word at its place differs or does not translate, or at a wake without
cause, and else stays. -/
def Obligations.Watches : Prop :=
  (∀ (x : WaitmOp) (s : State) (R : Run), Issues (syncInfo x.hd [] true) s R → participants s s.cur R x.hd false ≠ 0 →
    let a := kreg s s.cur x.ka
    (watchOk a = true → ∃ t R', exec (.waitm x) s = .next t ∧ (t.slot s.cur).run = some R' ∧ R'.pos = R.pos + 1 ∧ R'.pends = R.pends ∧
      R'.view = { R.view with watch := some (a, kreg s s.cur x.kv) } ∧ (∀ l, l < 64 → (t.gang s.cur.gang).lane l = s.here l) ∧
      (∀ i, i < 64 → kreg t s.cur i = kreg s s.cur i) ∧ Beside s t) ∧
    (watchOk a = false → exec (.waitm x) s = .next (atIssue s s.cur R 2))) ∧
  ∀ (s : State) (r : SlotRef) (a v : Nat) (spurious : Bool), (s.slot r).wait = .watch a v → (s.slot r).mask ≠ 0 → (s.gang r.gang).stack = [] →
    ∃ t, exec (.waitmWake r spurious) s = .next t ∧
      t.slot r = if spurious = true ∨ (watchRead s r a).2 ≠ some v then { s.slot r with wait := .none } else s.slot r

/-- 13 R291. DRAIN of a gang of a launch with grid barriers begins the pairs of sweeps of the launch, or joins those under way, and its result is the
number of pairs; a pair that finds the same sums, equal, ends them, and every other pair starts the next. That a copy under check keeps the sweeps
going is the model's choice (log 51), as is that each pair beyond the first lets the result return later by two sweeps (03 R425; log 62). -/
def Obligations.DrainsSumTheCounters : Prop :=
  (∀ (x : DstOp) (s : State) (R : Run) (T : Team) (L : Launch), Issues (syncInfo x.hd [x.d] (wIs 8 x.d)) s R →
    participants s s.cur R x.hd false ≠ 0 → teamOf s s.cur.gang = some T → s.launch? T.launch = some L →
    (L.grid = true → s.reds = [] → linesSent s (coreOf s.cur.gang) = true → ∃ t R' id, exec (.drain x) s = .next t ∧ (t.slot s.cur).run = some R' ∧ R'.pos = R.pos + 1 ∧
      R'.lates = R.lates ++ [{ id, kind := .drain T.launch, val := none }] ∧
      R'.pends = cancelAll R.pends (participants s s.cur R x.hd false) (fun _ => [wrTo x.d 0]) ++
        (Mask.lanes (participants s s.cur R x.hd false)).map (fun l => .st l x.d.start (stitchMask x.d.start x.d.w.stitches) (.late id)) ∧
      t.launch? T.launch = some { L with sweep := some (L.sweep.getD { pairs := 0, half := none }) } ∧
      (∀ l, l < 64 → (t.gang s.cur.gang).lane l = s.here l) ∧ ∀ i, i < 64 → kreg t s.cur i = kreg s s.cur i) ∧
    (L.grid = false → exec (.drain x) s = .next (atIssue s s.cur R 5))) ∧
  ∀ (s : State) (n : Nat) (L : Launch) (w : Sweep), s.launch? n = some L → L.sweep = some w →
    ∃ t, exec (.drainSweep n) s = .next t ∧ t.mem = s.mem ∧
      (w.half = none → t.launch? n = some { L with sweep := some { w with half := some (L.sent, L.recv) } }) ∧
      (w.half = some (L.sent, L.recv) → L.sent = L.recv → copyChecked s n = false →
        t.launch? n = some { L with sweep := none } ∧
        ∀ r R id, (s.slot r).run = some R → R.lates = [{ id, kind := .drain n, val := none }] →
          ∃ R', (t.slot r).run = some R' ∧ R' = { R with
            lates := [{ id, kind := .drain n, val := some (w.pairs + 1, false, 0) }]
            back := R.back + 2 * w.pairs * sweepCycles s (coreOf r.gang) }) ∧
      (∀ h, w.half = some h → (h ≠ (L.sent, L.recv) ∨ L.sent ≠ L.recv ∨ copyChecked s n = true) →
        t.launch? n = some { L with sweep := some { pairs := w.pairs + 1, half := none } })

/-- 01 R18, R19, 13 R289. SPAWN copies its lanes' payloads into the bin of the entry, which the first binds, and waits while no bin takes them; a bin whose
timer has run out is due; a bin that can form its gang forms it, with the lanes in the order of their arrival at the entry, each holding its
payload and else as at a start. -/
def Obligations.SpawnedLanes : Prop :=
  (∀ (x : SpawnOp) (s : State) (R : Run) (tm : Nat),
    let n := kreg s s.cur x.kn
    let ke := kreg s s.cur x.ke
    let m := participants s s.cur R x.hd false
    let core := coreOf s.cur.gang
    Issues { WordInfo.plain x.hd 0xD ((List.range (n / 8)).map (fun i => { start := x.d.start + 8 * i, w := .w8 })) []
              (x.d.w == .w32 && opndOk (stitchLimit s s.cur) x.d) with noGuard := true, noHandler := true, noCast := true } s R →
    m ≠ 0 → payloadOk n = true → x.d.start + n ≤ stitchLimit s s.cur →
    (ke % 8 = 0 → (codeRegion s s.cur).1 ≤ ke → ke + 8 ≤ (codeRegion s s.cur).2 → (s.gang s.cur.gang).team = some tm →
      (∀ i b, binFor (s.core core) tm ke = some i → (s.core core).bins[i]? = some b → b.bound = false → (Mask.lanes m).length ≤ 32 →
        ∃ t B, exec (.spawn x) s = .next t ∧ Goes s t R x.hd.sw s.here (kreg s s.cur) R.pends ∧ (t.core core).bins[i]? = some B ∧
          B.bound = true ∧ B.team = tm ∧ B.entry = ke ∧ B.role = (s.gang s.cur.gang).role ∧ B.due = false ∧
          B.lanes = (Mask.lanes m).map (fun l => BitVec.ofNat 256 ((s.here l).rdAt x.d.start n))) ∧
      (binFor (s.core core) tm ke = none → ∃ t, exec (.spawn x) s = .next t ∧ Held s t R (.spawn ke n x.d.start m))) ∧
    (ke % 8 ≠ 0 ∨ ke < (codeRegion s s.cur).1 ∨ (codeRegion s s.cur).2 < ke + 8 → exec (.spawn x) s = .next (atIssue s s.cur R 2))) ∧
  (∀ (s : State) (c i : Nat) (b : Bin), (s.core c).bins[i]? = some b →
    ∃ t, exec (.spawnBinTimerExpiry c i) s = .next t ∧ (t.core c).bins[i]? = some { b with due := b.due || (b.bound && b.left == 0) }) ∧
  ∀ (s : State) (c i : Nat) (b : Bin) (T : Team) (L : Launch) (slot run : Nat), formable s c i = some (b, T, L, slot, run) →
    ∃ t G, exec (.spawnedGangForms c i) s = .next t ∧ tabFind t.gangs (64 * c + slot) = some G ∧ G.team = some b.team ∧ G.role = b.role ∧
      G.num = spawnNum s b.team T ∧ G.k = Vector.replicate 64 0 ∧ G.b = Slot.free ∧ G.stack = [] ∧
      G.a = Slot.at b.entry (maskOf (fun l => l < b.lanes.length)) none ∧
      ∀ l, l < 64 → G.lane l = { Lane.reset with st := ((b.lanes[l]?).getD 0).setWidth 4096 }

/-! ## Tiles -/

/-- 11 R230, R234, R235, R236, R237, R248. CLAIM of a quarter or an extent: a free tile that nobody claims is granted, and cleared where another team
held it last; a claim that ends at once writes its status, whose predicate is true for 0 and 1; one that must wait enters the recall queue of a
negotiated tile with room, revokes a loan, or else waits beside the queue, and holds its slot; of these CLAIM.nb has a status at once, but for a loan,
where its results stay pending. That a tile on its way counts as held by its class is the model's choice (log 43). -/
def Obligations.ClaimsOfQuarters : Prop :=
  ∀ (x : ClaimOp) (s : State) (R : Run) (tm : Nat) (T : Team),
    let core := coreOf s.cur.gang
    let id := kreg s s.cur x.ktile
    let m := participants s s.cur R x.hd false
    let f := fun st (_ : Nat) => [wrTo x.d st, LW.pr x.p (st == 0 || st == 1)]
    let now := fun st u t => PassesTo s u t R x.hd.sw (s.written m (f st)) (fun i => if i = x.ksum then 0 else kreg s s.cur i)
      (cancelUni (cancelAll R.pends m (f st)) x.ksum)
    let later := fun st u t => PassesTo s u t R x.hd.sw s.here (kreg s s.cur)
      (cancelUni (cancelAll R.pends m (f st)) x.ksum ++ (Mask.lanes m).flatMap (fun l => (f st l).flatMap (pendOf l)) ++ [.uni x.ksum (.now 0)])
    let ends := fun st u => ∃ t, exec (.claim x) s = .next t ∧ if x.nb then later st u t else now st u t
    let keeps := fun (t : State) => (∀ l, l < 64 → (t.gang s.cur.gang).lane l = s.here l) ∧ ∀ i, i < 64 → kreg t s.cur i = kreg s s.cur i
    Issues { tileInfo x.hd [x.d] (wIs 8 x.d) with noHandler := true, noCast := true } s R → m ≠ 0 →
    (s.gang s.cur.gang).team = some tm → s.team? tm = some T →
    ((tileOf s s.cur id).2 = none → ends 7 s) ∧
    (fld id 56 4 ≠ 0 ∨ (fld id 60 4 = 0 ∧ 8 ≤ fld id 0 56) ∨ 2 ≤ fld id 60 4 → (tileOf s s.cur id).2 = none) ∧
    (fld id 56 8 = 0 → fld id 0 56 < 8 → (tileOf s s.cur id).2 = some (quarterTile (if bit id 2 then otherCore core else core) (id % 4), 0)) ∧
    ∀ tile va, (tileOf s s.cur id).2 = some (tile, va) →
      let y := s.tile tile
      let e : TileReq := { team := tm, cls := x.cls, prio := T.eff.prio, arr := s.nextCmd, nb := x.nb, va }
      let u := { s with nextCmd := s.nextCmd + 1 }
      let mine := fun (q : TileReq) => q.team == tm
      let holds := fun v => ∃ t, exec (.claim x) s = .next t ∧ (t.slot s.cur).wait = .claim tile x m ∧ Beside v t ∧ keeps t
      let hangs := fun (v : State) => ∃ t R', exec (.claim x) s = .next t ∧ (t.slot s.cur).run = some R' ∧ R'.pos = R.pos + 1 ∧
        R'.lates = R.lates ++ [{ id := v.nextCmd, kind := .claim tile, val := none }] ∧
        R'.pends = cancelUni (cancelAll R.pends m (f 0)) x.ksum ++ (Mask.lanes m).flatMap (fun l =>
          [.st l x.d.start (stitchMask x.d.start x.d.w.stitches) (.late v.nextCmd), .pr l x.p (.late v.nextCmd)]) ++ [.uni x.ksum (.late v.nextCmd)] ∧
        Beside { v with nextCmd := v.nextCmd + 1 } t ∧ keeps t
      (y.holder = some tm → y.passing ≠ some .release → ends 1 s) ∧
      (y.holder ≠ some tm ∨ y.passing = some .release →
        (tileOver s T tile = true → ends 6 s) ∧
        (tileOver s T tile = false →
          (x.cls = .neg → T.reg = none → ends 8 s) ∧
          ((x.cls = .neg → T.reg ≠ none) →
            (y.holder = none → y.queue = [] → y.waiting = [] → y.next = none → claimants s tm tile = [] →
              (∀ r Q, (s.slot r).run = some Q → ∀ l ∈ Q.lates, l.kind ≠ .claim tile) →
              ∃ t, exec (.claim x) s = .next t ∧ (if x.nb then Goes s t R x.hd.sw s.here (kreg s s.cur)
                  (cancelUni (cancelAll R.pends m (f 0)) x.ksum ++ (Mask.lanes m).flatMap (fun l => (f 0 l).flatMap (pendOf l)) ++ [.uni x.ksum (.now 0)])
                else Goes s t R x.hd.sw (s.written m (f 0)) (fun i => if i = x.ksum then 0 else kreg s s.cur i)
                  (cancelUni (cancelAll R.pends m (f 0)) x.ksum)) ∧
                t.tile tile = { y with holder := some tm, since := s.mclock, cls := x.cls, va, last := some tm, rcall := .none, passing := none, next := none,
                                       summ := none } ∧
                (∀ n, n ≠ tile → t.tile n = s.tile n) ∧
                (y.last = some tm → t.mem = s.mem ∧ t.quarter tile = s.quarter tile) ∧
                (y.last ≠ some tm →
                  (tile < 768 → t.quarter tile = Quarter.cleared ∧ (∀ i, i < 2 ^ 16 → t.mem.read (wtKey tile i) = 0) ∧
                    (∀ i, i < 2 ^ 13 → t.mem.read (scKey tile i) = 0x7F) ∧ ∀ n, n < 8192 → t.mem.readN (sliceKey tile n) 4 = 0) ∧
                  (isExtent tile = true → extentPa tile < 2 ^ 40 → ∀ i, i < 2 ^ 20 → t.mem.read (memKey 1 (extentPa tile) + i) = 0))) ∧
            (y.holder ≠ none → y.cls ≠ .loan →
              (y.queue.any mine = true → if x.nb then ends 2 s else holds s) ∧
              (y.queue.any mine = false → y.waiting.any mine = true → if x.nb then ends (if y.cls = .neg then 4 else 3) s else holds s) ∧
              (y.queue.any mine = false → y.waiting.any mine = false →
                (y.cls = .neg → y.queue.length < 8 →
                  let v := pumpTile (u.setTile tile { y with queue := enqueue y.queue e }) tile
                  if x.nb then ends 2 v else holds v) ∧
                ((y.cls = .neg → 8 ≤ y.queue.length) →
                  if x.nb then ends (if y.cls = .neg then 4 else 3) s else holds (u.setTile tile { y with waiting := y.waiting ++ [e] })))) ∧
            (y.holder ≠ none → y.cls = .loan →
              let v := if (y.next.toList ++ y.queue ++ y.waiting).any mine then s
                else if y.next = none then u.setTile tile { y with next := some e, passing := some (y.passing.getD .revoke) }
                else u.setTile tile { y with waiting := y.waiting ++ [e] }
              if x.nb then hangs v else holds v))))

/-- 11 R235, R236, R237, R248. A free tile goes to the claim that a revoked loan was for, or else to the head of its recall queue, whose grant keeps every
tile-claim limit (19 R335); the claim that waits for it ends with S = 0, or with 9 and the summary's address, and its slot goes on past the word. A
tile that is held, or on its way, is not granted. That an entry whose grant would exceed a limit waits on, and those behind it too, is the model's choice
(log 65). -/
def Obligations.GrantsFollowTheQueue : Prop :=
  ∀ (s : State) (tile : Nat),
    let y := s.tile tile
    (y.holder ≠ none ∨ y.passing ≠ none → exec (.claimGrant tile) s = .next s) ∧
    (∀ e q, y.next = none → y.waiting = [] → y.queue = e :: q → mayGrant s tile e = false → exec (.claimGrant tile) s = .next s) ∧
    (∀ e, y.holder = none → y.passing = none → y.next = some e → y.waiting = [] → mayGrant s tile e = true →
      ∃ t, exec (.claimGrant tile) s = .next t ∧ (t.tile tile).holder = some e.team ∧ (t.tile tile).cls = e.cls ∧ (t.tile tile).va = e.va ∧
        (t.tile tile).last = some e.team ∧ (t.tile tile).next = none ∧ (t.tile tile).queue = y.queue) ∧
    ∀ e q, y.holder = none → y.passing = none → y.next = none → y.waiting = [] → y.queue = e :: q → e ∉ q → mayGrant s tile e = true →
      ∃ t, exec (.claimGrant tile) s = .next t ∧ (t.tile tile).holder = some e.team ∧ (t.tile tile).cls = e.cls ∧
        (t.tile tile).last = some e.team ∧ (t.tile tile).queue = q ∧ (t.tile tile).va = e.va ∧
        ∀ r x m R, claimants s e.team tile = [r] → (s.slot r).wait = .claim tile x m → (s.slot r).run = some R → x.ksum < 64 →
          (∀ r' Q, (s.slot r').run = some Q → Q.lates = []) →
          let st := if y.summ = none then 0 else 9
          kreg t r x.ksum = y.summ.getD 0 % 2 ^ 64 ∧
          (∀ l, l < 64 → Mask.has m l = true →
            (t.gang r.gang).lane l = (((s.gang r.gang).lane l).apply (wrTo x.d st)).apply (.pr x.p true)) ∧
          ∃ R', (t.slot r).run = some R' ∧ R'.pos = R.pos + 1

/-- 11 R238, R240, R250. RELEASE of a held tile is a release at .d and sends the tile on its way; of another it does nothing, and of the tile whose
routine the gang runs it is an illegal instruction. COREG registers the gang with its entry and the lesser of its bound and its block's, or ends
the registration; a misplaced entry traps. TILEQ reports the tile; that one on its way still shows its holder is the model's choice (log 70). -/
def Obligations.TileWords : Prop :=
  ∀ (s : State) (R : Run) (hd : Hd) (tm : Nat) (T : Team),
    let g := s.cur.gang
    let core := coreOf g
    let m := participants s s.cur R hd false
    Quiet s → m ≠ 0 → (s.gang g).team = some tm → s.team? tm = some T →
    (∀ k, Issues (tileInfo hd [] true) s R → fld (kreg s s.cur k) 56 8 = 0 → fld (kreg s s.cur k) 0 56 < 8 →
      let tile := quarterTile (if bit (kreg s s.cur k) 2 then otherCore core else core) (kreg s s.cur k % 4)
      let y := s.tile tile
      let mine := fun (e : TileReq) => e.team == tm
      ((s.gang g).co.any (fun (c : Castoff) => c.tile == tile) = true → exec (.release ⟨hd, k⟩) s = .next (atIssue s s.cur R 1)) ∧
      ((s.gang g).co.any (fun (c : Castoff) => c.tile == tile) = false → y.queue.any mine = false → y.waiting.any mine = false →
        y.next.any mine = false →
        (y.holder = some tm → y.passing = none → linesSent s core = true → ∃ t, exec (.release ⟨hd, k⟩) s = .next t ∧
          let u := meterTile (promote s core) tile
          PassesTo s (u.setTile tile { u.tile tile with passing := some .release }) t R hd.sw s.here (kreg s s.cur) R.pends) ∧
        (y.holder ≠ some tm → ∃ t, exec (.release ⟨hd, k⟩) s = .next t ∧ Passes s t R hd.sw s.here (kreg s s.cur) R.pends))) ∧
    (∀ ke kb, Issues { tileInfo hd [] true with noHandler := true, noCast := true } s R →
      let entry := kreg s s.cur ke
      let b := kreg s s.cur kb
      (entry % 8 = 0 → (codeRegion s s.cur).1 ≤ entry → entry + 8 ≤ (codeRegion s s.cur).2 → b < 2 ^ 16 →
        ∃ t, exec (.coreg ⟨hd, ke, kb⟩) s = .next t ∧
          PassesTo s (s.setTeam tm { T with reg := if b = 0 then none else some { gang := g, entry, bound := min b T.eff.cobnd } }) t R hd.sw
            s.here (kreg s s.cur) R.pends) ∧
      (entry % 8 ≠ 0 ∨ entry < (codeRegion s s.cur).1 ∨ (codeRegion s s.cur).2 < entry + 8 ∨ 2 ^ 16 ≤ b →
        exec (.coreg ⟨hd, ke, kb⟩) s = .next (atIssue s s.cur R 2))) ∧
    (∀ d ks k, Issues (tileInfo hd [d] (wIs 8 d)) s R → fld (kreg s s.cur k) 56 8 = 0 → fld (kreg s s.cur k) 0 56 < 8 →
      let tile := quarterTile (if bit (kreg s s.cur k) 2 then otherCore core else core) (kreg s s.cur k % 4)
      let y := s.tile tile
      y.queue.length ≤ 8 → (∀ p ∈ y.reports, p.1 ≠ tm) →
      ∃ t w, exec (.tileq ⟨hd, d, ks, k⟩) s = .next t ∧
        Passes s t R hd.sw s.here (kreg s s.cur)
          (cancelAll (cancelUni R.pends ks) m (fun _ => [wrTo d w]) ++ (Mask.lanes m).flatMap (fun l => pendOf l (wrTo d w)) ++ [.uni ks (.now 0)]) ∧
        fld w 0 4 = (match y.holder with
          | none => 0
          | some h => if h = tm then 1 else if T.partner = some h then 2 else 3) ∧
        fld w 4 1 = 0 ∧ fld w 8 4 = (match y.queue.findIdx? (fun e => e.team == tm) with | some i => i + 1 | none => 0) ∧
        fld w 16 2 = (match y.holder, y.cls with | none, _ => 3 | some _, .fix => 0 | some _, .neg => 1 | some _, .loan => 2) ∧
        bit w 18 = (y.rcall != .none) ∧ bit w 19 = y.stripped.any (fun p => p.1 == tm) ∧ fld w 20 4 = y.queue.length)

/-- 11 R238, R241, R242, R244, R245, R246, R248. A tile that its holder releases, and on which no command is in flight, becomes free, and a claim on it is
granted next. A recall starts the routine of the registrant in slot A with every live lane. An overrun, a strip and a revocation take the tile:
cleared, marked for its former holder, and free. The recall window ends with the count of refusals at zero. -/
def Obligations.TilesPassOn : Prop :=
  ∀ (s : State) (tile : Nat),
    let y := s.tile tile
    (tileBusy s tile = true → exec (.tilePass tile) s = .next s) ∧
    (∀ p, y.passing = some p → tileBusy s tile = false → (p = .release ∨ p = .done ∨ ∃ a, p = .summary a) →
      ∃ t, exec (.tilePass tile) s = .next t ∧
        t.tile tile = { y with holder := none, since := (t.tile tile).since, rcall := .none, passing := none, summ := match p with | .summary a => some a | _ => none } ∧
        t.agenda = (if (nextGrant t tile).isNone then s.agenda else .event (.claimGrant tile) :: s.agenda) ∧ t.mem = s.mem ∧ ∀ n, n ≠ tile → t.tile n = s.tile n) ∧
    (∀ g q, recallAt s tile = some (g, q) →
      ∃ t, exec (.recallDelivery tile) s = .next t ∧ t.tile tile = { y with rcall := .run } ∧
        (t.gang g).a = { Slot.free with mask := (s.gang g).live, entry := q.entry, stamp := (s.gang g).a.stamp } ∧ (t.gang g).b.mask = 0 ∧
        (∀ l, l < 64 → (t.gang g).lane l = (s.gang g).lane l) ∧
        ∃ co, (t.gang g).co = some co ∧ co.tile = tile ∧ co.bound = q.bound ∧ co.count = 0 ∧ co.a.mask = (s.gang g).a.mask ∧
          co.a.entry = (s.gang g).a.entry ∧ co.b.mask = (s.gang g).b.mask ∧ co.b.entry = (s.gang g).b.entry ∧
          ∀ l, l < 64 → co.preds[l]? = some ((s.gang g).lane l).preds ∧ co.fpsr[l]? = some ((s.gang g).lane l).fpsr) ∧
    (∀ g co, (s.gang g).co = some co → co.tile = tile → co.depth = 0 → co.a.mask ≠ 0 → (s.gang g).a.run = none → (s.gang g).b.run = none →
      anyTrapped (s.gang g) = false → boundMet (s.gang g) = true → y.holder = (s.gang g).team → y.passing = none →
      ∃ t, exec (.castoffBoundOverrun g) s = .next t ∧ (t.gang g).co = none ∧ (t.gang g).a = { co.a with stamp := (s.gang g).a.stamp } ∧
        (t.gang g).b = { co.b with stamp := (s.gang g).b.stamp } ∧
        t.tile tile = { y with passing := some (.strip .overrun), rcall := .none } ∧
        ∀ l p f, l < 64 → co.preds[l]? = some p → co.fpsr[l]? = some f → (t.gang g).lane l = { (s.gang g).lane l with preds := p, fpsr := f }) ∧
    (∀ h, tile < 768 → y.holder = some h → y.passing = none → tileBusy s tile = false → y.queue = [] → y.waiting = [] → y.next = none →
      ∀ p ∈ ([(Instr.forcedStrip tile .overrun, 15), (Instr.forcedStrip tile .trap, 16), (Instr.forcedStrip tile .refusal, 17),
              (Instr.forcedStrip tile .noReg, 18), (Instr.forcedStrip tile .privileged, 19)] ++
             (if y.cls = .loan then [(Instr.loanRevocation tile, 19)] else []) : List (Instr × Nat)),
        ∃ t, exec p.1 s = .next t ∧ (t.tile tile).holder = none ∧ (t.tile tile).last = y.last ∧ (t.tile tile).passing = none ∧
          (t.tile tile).stripped.find? (fun e => e.1 == h) = some (h, p.2, y.va) ∧
          t.quarter tile = Quarter.cleared ∧ ∀ n, n < 8192 → t.mem.readN (sliceKey tile n) 4 = 0) ∧
    (∀ tm T, s.team? tm = some T → ∃ t, exec (.refusalWindowExpiry tm) s = .next t ∧ t.team? tm = some { T with refusals := 0 })

/-! ## The ends of traces -/

/-- 03 R64, R67, R425, 04 R83. The results of a switch group land together once they have returned, and the slot goes on with the next word; a lane that
failed a guard takes none of them. An at-issue trap that stands after words with results to come is taken when they have landed. The slot at the head of its core's queue takes a free undo pair. -/
def Obligations.GroupsLand : Prop :=
  (∀ (s : State) (r : SlotRef) (R : Run), (s.slot r).wait = .landing → (s.slot r).run = some R →
    (returned s R = false → exec (.longLatencyLanding r) s = .next s) ∧
    (returned s R = true → ∃ t, exec (.longLatencyLanding r) s = .next t ∧ t.mem = s.mem ∧
      t.slot r = { s.slot r with wait := .none, run := some { R with pends := [], lates := [] } } ∧
      (∀ l a n v, l < 64 → a + n ≤ 1024 → R.pends = [.st l a (stitchMask a n) (.now v)] →
        (Mask.has R.failed l = false → ((t.gang r.gang).lane l).rdAt a n = v % 2 ^ (4 * n) ∧
          ∀ b k, (b + k ≤ a ∨ a + n ≤ b) → ((t.gang r.gang).lane l).rdAt b k = ((s.gang r.gang).lane l).rdAt b k) ∧
        (Mask.has R.failed l = true → (t.gang r.gang).lane l = (s.gang r.gang).lane l) ∧
        ∀ i, i < 64 → i ≠ l → (t.gang r.gang).lane i = (s.gang r.gang).lane i) ∧
      (∀ l p v, l < 64 → R.pends = [.pr l p (.now v)] → Mask.has R.failed l = false →
        (t.gang r.gang).lane l = ((s.gang r.gang).lane l).setPred p (v != 0)) ∧
      (∀ k v, k < 64 → R.pends = [.uni k (.now v)] → kreg t r k = v % 2 ^ 64 ∧ ∀ i, i < 64 → i ≠ k → kreg t r i = kreg s r i))) ∧
  (∀ (s : State) (r : SlotRef) (R : Run) (cause off : Nat), (s.slot r).wait = .trapping cause off → (s.slot r).run = some R →
    exec (.longLatencyLanding r) s = .next (if returned s R then atIssueAt s r R cause off else s)) ∧
  ∀ (s : State) (r : SlotRef) (q : List SlotRef), (s.core (coreOf r.gang)).undoWait = r :: q → pairFree s (coreOf r.gang) = true →
    ∃ t, exec (.undoPairAcquire r) s = .next t ∧ (t.core (coreOf r.gang)).undoWait = q ∧
      t.slot r = { s.slot r with wait := .none, pair := true }

/-- 04 R88, R91, 08 R168, R170, 13 R279. Where a trace ends whose lanes all pass, in a gang with an empty divergence stack: NEXT, JMP, RET and
CALL leave the slot at the one target, whose header issues in the next cycle (04 R100), CALL with its link written; BARW's lanes wait for the barrier's next phase, at which they have arrived. -/
def Obligations.TracesEndAtTheirTargets : Prop :=
  ∀ (s : State) (r : SlotRef) (R : Run) (x : Term) (off : Nat), Ends s r R x off → (s.gang r.gang).stack = [] →
    let X := s.slot r
    let here := pcAdd X.entry off
    let goes := fun t a (w : Wait) => exec (.traceResolution r) s = .next t ∧
      t.slot r = { Slot.free with mask := X.mask, entry := a, tok := X.tok, wait := w, stamp := X.stamp, hnd := X.hnd, hold := (X.heldTill (s.now + 1) 1).hold }
    let still := fun (t : State) => t.mem = s.mem ∧ ∀ l, l < 64 → (t.gang r.gang).lane l = (s.gang r.gang).lane l
    (x = .next → ∃ t, goes t (pcAdd here 1) .none ∧ still t) ∧
    (∀ o, x = .jmp o → ∃ t, goes t (pcAdd here o) .none ∧ still t) ∧
    (∀ o link, x = .call o link → link.start + 16 ≤ 1024 → ∃ t, goes t (pcAdd here o) .none ∧ t.mem = s.mem ∧
      ∀ l, l < 64 → (t.gang r.gang).lane l =
        if Mask.has X.mask l then ((s.gang r.gang).lane l).wr link.start 16 (pcAdd here 1) else (s.gang r.gang).lane l) ∧
    (∀ o a, x = .ret o → (∀ l, l < 64 → Mask.has X.mask l = true → ((s.gang r.gang).lane l).rd o = a) →
      readsPoison (s.gang r.gang) X.mask [o] = false → ∃ t, goes t a .none ∧ still t) ∧
    (∀ c y bar, x = .barw bar → barOf s r.gang bar = some c → barGet s c = some y → y.arrbytes < 2 ^ 32 → s.reds = [] →
      unspoilt s (coreOf r.gang) = true → (∀ u, doomed s u = false) → (scopeWide (barScope c) = true → linesSent s (coreOf r.gang) = true) →
      ∃ t, goes t (pcAdd here 1) (.barrier c y.phase false) ∧ barGet t c = some (y.arrived (arriver s r.gang)) ∧
        ∀ l, l < 64 → (t.gang r.gang).lane l = (s.gang r.gang).lane l)

/-- 04 R92 to R94. A divergence goes on with its first group and leaves the second to the other slot, under one token; a group that comes to the token's
address arrives there: it waits while the other slot holds a missing lane, and the last to arrive goes on as one group. The gang ends with
its last lanes. -/
def Obligations.GroupsDivergeAndMeet : Prop :=
  ∀ (s : State) (r : SlotRef) (R : Run) (x : Term) (off : Nat), Ends s r R x off →
    (s.slot r).hnd = none → (s.slot (otherSlot r)).hnd = none →
    let G := s.gang r.gang
    let X := s.slot r
    let O := s.slot (otherSlot r)
    let here := pcAdd X.entry off
    (∀ p a b j, x = .jsel p a b j → G.stack = [] → O.mask = 0 → pcAdd here a ≠ pcAdd here j → pcAdd here b ≠ pcAdd here j →
      let m := maskOf (fun l => Mask.has X.mask l && (G.lane l).psrc p)
      (m = X.mask → ∃ t, exec (.traceResolution r) s = .next t ∧
        (t.slot r).entry = pcAdd here a ∧ (t.slot r).mask = X.mask ∧ (t.slot r).tok = X.tok ∧ (t.slot (otherSlot r)).mask = 0 ∧ (t.gang r.gang).stack = []) ∧
      (m ≠ 0 → m ≠ X.mask → ∃ t, exec (.traceResolution r) s = .next t ∧
        (t.slot r).entry = pcAdd here a ∧ (t.slot r).mask = m ∧ (t.slot r).tok = some G.nextTok ∧ (t.slot r).run = none ∧
        (t.slot (otherSlot r)).entry = pcAdd here b ∧ (t.slot (otherSlot r)).mask = X.mask &&& ~~~m ∧ (t.slot (otherSlot r)).tok = some G.nextTok ∧
        (t.gang r.gang).stack = [.token G.nextTok (pcAdd here j) X.mask 0 X.tok] ∧
        ∀ l, l < 64 → (t.gang r.gang).lane l = G.lane l)) ∧
    (∀ o id e v up, x = .jmp o → X.tok = some id → G.stack = [.token id (pcAdd here o) e v up] →
      (v ||| X.mask = e → O.mask = 0 → ∃ t, exec (.traceResolution r) s = .next t ∧ (t.slot r).mask = e ∧ (t.slot r).entry = pcAdd here o ∧
        (t.slot r).tok = up ∧ (t.slot r).wait = .none ∧ (t.gang r.gang).stack = []) ∧
      (e &&& ~~~(v ||| X.mask) &&& O.mask ≠ 0 → O.run ≠ none → O.wait = .none → ∃ t, exec (.traceResolution r) s = .next t ∧ (t.slot r).mask = X.mask ∧
        (t.slot r).wait = .join ∧ (t.slot r).tok = some id ∧ t.slot (otherSlot r) = O ∧
        (t.gang r.gang).stack = [.token id (pcAdd here o) e (v ||| X.mask) up])) ∧
    (x = .exit → G.stack = [] → isSvc r.gang = false →
      (O.mask = 0 → ∃ t, exec (.traceResolution r) s = .next t ∧ tabFind t.gangs r.gang = none ∧ t.mem = s.mem) ∧
      (O.mask ≠ 0 → ∃ t, exec (.traceResolution r) s = .next t ∧ (t.slot r).mask = 0 ∧ t.slot (otherSlot r) = O ∧
        (t.gang r.gang).live = G.live &&& ~~~X.mask))

/-- 04 R84, R88, R95. The lanes of a guarded trace that failed its guard go on at the alternative with their rows, predicates and flags as they were, and
nothing that they stored is performed, whatever rows, predicates and flags the trace has written; a lane that faulted stands trapped at the entry with
its own restored where the trace is guarded. A row that was
poisoned as it was copied is so again (03 R57). -/
def Obligations.GuardedTracesUndo : Prop :=
  ∀ (s : State) (r : SlotRef) (R : Run) (off a l row : Nat) (old : Vector Word32 64) (bad : Mask),
    let X := s.slot r
    let L := (s.gang r.gang).lane l
    let M := L.wr (8 * row) 8 ((old.toList[l]?).getD 0).toNat
    let N : Lane := { M with poison := M.poison ||| (if Mask.has bad l then 1#128 <<< row else 0) }
    let was (R : Run) : Lane := match tabFind R.undoPF l with | some (p, f) => { N with preds := p, fpsr := f } | none => N
    X.mask = 1#64 <<< l → l < 64 → row < 128 → X.wait = .resolving → X.run = some R → R.term = some (.next, off) → R.hdr.guarded = true →
    R.pends = [] → R.lates = [] → R.recld = [] → R.watch = none → R.idle = false → R.trapi = none → R.undoRows = [{ row, old, bad }] →
    (s.gang r.gang).co = none → (s.gang r.gang).rebuild = none → (s.gang r.gang).stack = [] →
    (R.failed = X.mask → R.faults = [] → R.alts = [(a, R.failed)] →
      ∃ t, exec (.traceResolution r) s = .next t ∧ t.mem = s.mem ∧
        t.slot r = { Slot.free with mask := X.mask, entry := a, tok := X.tok, stamp := X.stamp, hnd := X.hnd,
                                    hold := (X.heldTill (s.now + 1) 1).hold } ∧
        (t.gang r.gang).lane l = was R) ∧
    (∀ f, R.failed = 0 → R.alts = [] → R.faults = [(l, f)] → sysMode s r = false →
      ∃ t, exec (.traceResolution r) s = .next t ∧ t.mem = s.mem ∧
        (t.gang r.gang).lane l = was R ∧ (t.slot r).mask = X.mask ∧ (t.slot r).entry = X.entry ∧
        (t.slot r).wait = .trapped { cause := f.cause, ord := R.hdr.ord, off := f.off, kept := true, code := 0, detail := f.detail,
                                     resume := X.entry })

/-- 12 R268. ACCZ writes the zero pattern to every element of each slice in its mask, on both cores with .tw, when it retires; it leaves the status words
unchanged. No other byte of memory changes. -/
def Obligations.AcczClearsItsSlices : Prop :=
  ∀ (s : State) (c : MatCmd), findMat s c.id = some c → canRetire s c = true → c.op = .accz →
    (∀ r R, (s.slot r).run = some R → R.lates = []) →
    let mine (k : Nat) := ∃ core q, (core = c.core ∨ (c.tw = true ∧ core = otherCore c.core)) ∧ q < 4 ∧ bit c.qmask q = true ∧
      sliceKey (quarterTile core q) 0 ≤ k ∧ k < sliceKey (quarterTile core q) 0 + 32768
    ∃ t, exec (.matrixCommandRetire c.id) s = .next t ∧
      (∀ core q e, core = c.core ∨ (c.tw = true ∧ core = otherCore c.core) → q < 4 → bit c.qmask q = true → e < 8192 →
        t.mem.readN (sliceKey (quarterTile core q) e) 4 = 0) ∧
      (∀ u, (t.quarter u).status = (s.quarter u).status) ∧
      ∀ k, ¬ mine k → t.mem.read k = s.mem.read k

/-! ## System words and events -/

/-- 18 R310 to R318, R324, R327, R328, R330, R331, 23 R377, 24 R390, R392. CTLR reads the control registers into its lanes, CTLW writes the fields of one once for the
gang and traps on a value that breaks a constraint; the timer, the reduction flags and the release of stopped slots have rows of their own; a
value from outside the core holds the slot until it arrives; SAMPLE reads the snapshot; IDLE and TRAPI mark their trace, and are illegal
elsewhere than before NEXT or JMP.
A slot that has stopped shows in ctl.stopped from the next cycle on (24 R391).
A value from outside the core is written to the lanes that issued its word, once it has returned (03 R425, 27 R422; the model's times, log 62), and the
slot goes on past the word:
readiness, the flags of the gang's fault domain, a meter of a registered block, or all ones for an address that is none. A clearing
of flags clears the written bits of that domain's word, and ICINV drops the traces of its panel that hold a byte of the page. -/
def Obligations.SystemWords : Prop :=
  (∀ (s : State) (R : Run) (hd : Hd),
     let g := s.cur.gang
     let c := coreOf g
     let C := s.core c
     let m := participants s s.cur R hd false
     let last := R.pos + 1 = R.hdr.len ∧ ∃ w, R.words[R.pos + 1]? = some w ∧ (opOf w.toNat = 0x008 ∨ opOf w.toNat = 0x009)
     let marked := fun (t : State) (Q : Run) => (t.slot s.cur).run = some { Q with pos := R.pos + 1 } ∧
       (∀ l, l < 64 → (t.gang g).lane l = s.here l) ∧ (∀ i, i < 64 → kreg t s.cur i = kreg s s.cur i) ∧ Beside s t
     (∀ d cr, Issues (sysInfo hd [d] (addrW d)) s R →
       let reads := fun v => ∃ t, exec (.ctlr ⟨hd, d, cr⟩) s = .next t ∧ Writes s t R hd (fun _ _ => [wrTo d v])
       let bp := fun i => ((C.bps[i]?).getD 0).toNat
       match cr with
       | .status => reads (gslotOf g * 2 ^ 8 + b2n (isSvc g) * 4 + b2n (s.slot s.cur).hnd.isSome * 2 + 1)
       | .tcause => (∀ h, (s.slot s.cur).hnd = some h → reads (tcauseOf h.trap)) ∧ ((s.slot s.cur).hnd = none → reads 0)
       | .tvec => reads C.tvec.toNat
       | .tframe => reads C.tframe.toNat
       | .sbase => reads C.sbase.toNat
       | .slim => reads C.slim.toNat
       | .svec => reads C.svec.toNat
       | .svcerr => reads C.svcerr.toNat
       | .clock => reads C.clock.toNat
       | .timer => reads (C.miss * 2 ^ 32 + C.period)
       | .govb => reads (s.gang g).govb
       | .rflag => m ≠ 0 → ∃ t, exec (.ctlr ⟨hd, d, cr⟩) s = .next t ∧ Held s t R (.outside (.rflag d) m)
       | .ready => m ≠ 0 → ∃ t, exec (.ctlr ⟨hd, d, cr⟩) s = .next t ∧ Held s t R (.outside (.ready d) m)
       | .dbg => reads C.dbg.toNat
       | .bp0 => reads (bp 0)
       | .bp1 => reads (bp 1)
       | .bp2 => reads (bp 2)
       | .bp3 => reads (bp 3)
       | .dbgobj => reads C.dbgobj.toNat
       | .stopped => reads (bitsOf (fun i => match gangAt s c i with
           | some g => g == c * 64 + i && [(s.gang g).a, (s.gang g).b].any (fun (X : Slot) => X.mask != 0 && X.wait == .stopped &&
               X.hold.all (fun h => h.1 ≤ s.now))
           | none => false) 48)
       | .resume => reads 0) ∧
     (∀ k, Issues (sysInfo hd [] true) s R → m ≠ 0 → s.reds = [] →
       let v := kreg s s.cur k
       let sets := fun i C' => ∃ t, exec i s = .next t ∧ PassesTo s (s.setCore c C') t R hd.sw s.here (kreg s s.cur) R.pends
       let when := fun (n : Nat) i C' => (v % n = 0 → sets i C') ∧ (v % n ≠ 0 → exec i s = .next (atIssue s s.cur R 2))
       let a := BitVec.ofNat 64 (v % 2 ^ 56)
       let bpv := BitVec.ofNat 64 (fld v 63 1 * 2 ^ 63 + v % 2 ^ 20)
       when 512 (.ctlw ⟨hd, .tvec, k⟩) { C with tvec := a } ∧ when 0x10000 (.ctlw ⟨hd, .tframe, k⟩) { C with tframe := a } ∧
       when 8 (.ctlw ⟨hd, .sbase, k⟩) { C with sbase := a } ∧ when 8 (.ctlw ⟨hd, .slim, k⟩) { C with slim := a } ∧
       when 8 (.ctlw ⟨hd, .svec, k⟩) { C with svec := a } ∧
       sets (.ctlw ⟨hd, .svcerr, k⟩) { C with svcerr := BitVec.ofNat 64 (fld v 37 27 * 2 ^ 37 + v % 2 ^ 6) } ∧
       sets (.ctlw ⟨hd, .dbg, k⟩) { C with dbg := BitVec.ofNat 64 (fld v 8 5 * 2 ^ 8 + v % 4) } ∧
       (∀ i cr, (i, cr) ∈ [(0, Cr.bp0), (1, .bp1), (2, .bp2), (3, .bp3)] → sets (.ctlw ⟨hd, cr, k⟩) { C with bps := listSet C.bps i bpv }) ∧
       sets (.ctlw ⟨hd, .dbgobj, k⟩) { C with dbgobj := a } ∧
       (∀ cr ∈ [Cr.status, .tcause, .govb, .ready, .stopped], sets (.ctlw ⟨hd, cr, k⟩) C) ∧
       sets (.ctlw ⟨hd, .clock, k⟩) { C with clock := BitVec.ofNat 64 v } ∧
       sets (.timerWrite ⟨hd, k⟩)
         { C with miss := fld v 32 24, period := v % 2 ^ 24, count := if v % 2 ^ 24 = 0 then 0 else v % 2 ^ 24 + 1 } ∧
       (∃ t, exec (.rflagClear ⟨hd, k⟩) s = .next t ∧ Held s t R (.outside (.rclear v) m)) ∧
       (∃ t, exec (.resumeWrite ⟨hd, k⟩) s = .next t ∧ Goes s t R hd.sw s.here (kreg s s.cur) R.pends ∧ Beside s t ∧
         ∀ r : SlotRef, r ≠ s.cur → (t.slot r).still =
           (if coreOf r.gang = c ∧ gslotOf r.gang < 48 ∧ bit v (gslotOf r.gang) = true ∧ (s.slot r).mask ≠ 0 ∧ (s.slot r).wait = .stopped then
             { s.slot r with wait := .none, resumed := true } else s.slot r).still)) ∧
     (∀ d k, Issues { sysInfo hd [d] (wIs 16 d) with svc := true } s R → ∃ t, exec (.sample ⟨hd, d, k⟩) s = .next t ∧
       Writes s t R hd (fun _ _ => [wrTo d (if kreg s s.cur k < 48 then (C.snap[kreg s s.cur k]?).getD 0 else 0)])) ∧
     (∀ d k n, Issues (sysInfo hd [d] (wIs 16 d)) s R → m ≠ 0 →
       ∃ t, exec (.meterr ⟨hd, d, k, n⟩) s = .next t ∧ Held s t R (.outside (.meter d (kreg s s.cur k) n) m)) ∧
     (Issues { sysInfo hd [] true with svc := true } s R → m ≠ 0 →
       (last → ∃ t, exec (.idle ⟨hd⟩) s = .next t ∧ marked t { R with idle := true }) ∧
       (¬ last → exec (.idle ⟨hd⟩) s = .next (atIssue s s.cur R 1))) ∧
     (∀ code, Issues { sysInfo hd [] true with group := 0, noHandler := true } s R → m ≠ 0 →
       (isSvc g = false → last → ∃ t, exec (.trapi ⟨hd, code⟩) s = .next t ∧ marked t { R with trapi := some (code, m) }) ∧
       (isSvc g = true ∨ ¬ last → exec (.trapi ⟨hd, code⟩) s = .next (atIssue s s.cur R 1)))) ∧
  ∀ (s : State) (r : SlotRef) (R : Run) (v : OutVal) (m : Mask), (s.slot r).wait = .outside v m → (s.slot r).run = some R →
    let core := coreOf r.gang
    let p := (panelCore s core).1
    (s.now < R.back → exec (.outsideValueArrival r) s = .next s) ∧ (R.back ≤ s.now →
    ∃ t, exec (.outsideValueArrival r) s = .next t ∧ (∃ R', (t.slot r).run = some R' ∧ R'.pos = R.pos + 1 ∧ R'.view = R.view) ∧
      (R.pends = [] → (t.slot r).wait = .none) ∧ t.mem = s.mem ∧
      let wrote := fun d n => ∀ l, l < 64 → (t.gang r.gang).lane l =
        if Mask.has m l then ((s.gang r.gang).lane l).apply (wrTo d n) else (s.gang r.gang).lane l
      match v with
      | .ready d => ∃ n, wrote d n ∧ bit n 0 = s.ready.mgmt ∧ bit n 1 = s.ready.cxl ∧ (∀ i, i < 12 → bit n (2 + i) = s.ready.purl.getLsbD i) ∧
          (∀ i, i < 4 → bit n (26 + i) = s.ready.vlayers.getLsbD (4 * (core / 2) + i)) ∧ bit n 30 = s.ready.twins.getLsbD (core / 2) ∧ n < 2 ^ 31
      | .rflag d => wrote d (tabGet 0 s.rflags (gangDom s r.gang)).toNat
      | .rclear x => (∀ l, l < 64 → (t.gang r.gang).lane l = (s.gang r.gang).lane l) ∧
          ∀ dom, tabGet 0 t.rflags dom =
            if dom = gangDom s r.gang then tabGet 0 s.rflags dom &&& ~~~(BitVec.ofNat 32 x) else tabGet 0 s.rflags dom
      | .meter d addr n => (findRcb s p addr = none → wrote d (2 ^ 64 - 1)) ∧
          ∀ b l, findRcb s p addr = some b → tabFind s.meters (effRcb s b).meter = some l → wrote d ((l[n]?).getD 0)
      | .icinv page => (∀ l, l < 64 → (t.gang r.gang).lane l = (s.gang r.gang).lane l) ∧
          ∀ c e, e.words ≠ [] → (e ∈ (t.core c).traces ↔ e ∈ (s.core c).traces ∧ ¬ ((tabFind s.cores c).isSome = true ∧ (panelCore s c).1 = p ∧
            ∀ vd n, page = some (vd, n) → e.ctx = ctxId p vd ∧ ∃ i, i < 8 * e.words.length ∧ (e.va + i) / 4096 = n)))

/-- 18 R329, R330, 20 R350 to R359. A walk reads one entry at each level, in device memory, and ends at a leaf of a size that its level allows or at an
invalid entry; a walked translation is cached, and a write through one that tracks dirtiness sets D first. The walkers of a die keep valid entries as a
walk has read them, which walks on the die then read in their place; when they keep one is the agenda's (log 1), and which ones they keep the model's
choice (log 69). TLBI does not wait: its completion drops the entries of the first-stage page, or all, on every core, but not those of the vault while a
team is resident, and the first-stage entries that the walkers keep for it; once nothing that used them is under way, TLBSYNC goes on. That the stores
which the panel's cores hold are then written back to their places, all of them, is the model's choice (log 47). ICINV is a release at .d and waits.
Reserved bits and devices beyond the panel's trap. -/
def Obligations.TranslationsAndInvalidations : Prop :=
  (∀ (m : Memory) (panel ipa s2 n size : Nat) (e : Nat → Nat),
    let table := fun i => if i = 0 then s2 else fld (e (i - 1)) 12 40 * 2 ^ 12
    let idx := fun i => ipa / 2 ^ (48 - 9 * i) % (if i = 0 then 16 else 512)
    let run := size / 2 ^ (48 - 9 * n)
    n ≤ 4 → (∀ i, i ≤ n → m.readN (devKey panel (table i + 8 * idx i)) 8 = e i) →
    (∀ i, i < n → fld (e i) 52 12 = 0xC00 ∧ fld (e i) 0 12 = 0) →
    (bit (e n) 63 = false → walk2 m panel ipa 5 0 s2 = none) ∧
    ((n, fld (e n) 58 4, size) ∈ [(2, 10, 2 ^ 30), (2, 11, 2 ^ 32), (3, 5, 2 ^ 21), (3, 6, 2 ^ 22), (3, 7, 2 ^ 24), (3, 8, 2 ^ 26), (3, 9, 2 ^ 28),
        (4, 0, 2 ^ 12), (4, 1, 2 ^ 14), (4, 2, 2 ^ 16), (4, 3, 2 ^ 18), (4, 4, 2 ^ 20)] →
      fld (e n) 0 5 = 0 → fld (e n) 8 4 = 0 → bit (e n) 63 = true → bit (e n) 62 = false → 1 ≤ fld (e n) 55 3 → fld (e n) 55 3 ≤ 5 →
      bit (e n) 52 = false → fld (e n) 12 40 * 2 ^ 12 % size = 0 →
      walk2 m panel ipa 5 0 s2 =
        some { addr := fld (e n) 12 40 * 2 ^ 12, size, entry := e n, first := table n + 8 * (idx n / run * run) })) ∧
  (∀ (s : State) (core vd va : Nat) (a : Acc) (user : Bool),
    let ctx := ctxId (panelCore s core).1 vd
    let hit := fun (e : TlbE) => e.covers ctx va && !(accWrites a && e.dt && !e.d)
    (∀ e ∈ (s.core core).tlb, hit e = true → exec (.translationWalk core vd va a user) s = .next s) ∧
    (∀ cause, (∀ o ∈ (s.core core).tlb, hit o = false) → walk s (dieOf core) ctx va = .inl cause →
      ∃ t, exec (.translationWalk core vd va a user) s = .next t ∧ t = { s with home := t.home }) ∧
    (∀ e, (∀ o ∈ (s.core core).tlb, hit o = false) → walk s (dieOf core) ctx va = .inr e →
      let sets := accWrites a = true ∧ e.dt = true ∧ e.d = false ∧ ∃ sp k, e.check va a user none = .ok sp k
      ∃ t, exec (.translationWalk core vd va a user) s = .next t ∧
        (¬ sets → e ∈ (t.core core).tlb ∧ t.mem = s.mem) ∧
        (sets → { e with d := true } ∈ (t.core core).tlb ∧ bit (t.mem.readN e.dkey 8) 53 = true ∧
          ∀ k, k ≠ e.dkey + 6 → t.mem.read k = s.mem.read k))) ∧
  (∀ (s : State) (die ctx va : Nat) (rest : List Agendum),
    ((∀ e ∈ s.tables, e.die = die → e.serves ctx = false) → walkMem s die ctx = s.mem) ∧
    (∀ e, s.mem.wf = true → s.tables = [e] → e.die = die → die < 2 → e.serves ctx = true →
      (walkMem s die ctx).readN e.key 8 = e.word % 2 ^ 64 ∧ ∀ k, k < e.key ∨ e.key + 8 ≤ k → (walkMem s die ctx).read k = s.mem.read k) ∧
    (s.agenda = .keepTables die ctx va :: rest → ∃ t, step s = .next t ∧ t = { s with agenda := rest, tables := t.tables } ∧
      ∀ e ∈ t.tables, e ∈ s.tables ∨
        (e.die = die ∧ e.ctx = ctx ∧ bit e.word 63 = true ∧ e.word = (walkMem s die ctx).readN e.key 8))) ∧
  (∀ (s : State) (R : Run) (hd : Hd) (k : Nat),
    let g := s.cur.gang
    let core := coreOf g
    let m := participants s s.cur R hd false
    let v := kreg s s.cur k
    Issues (sysInfo hd [] true) s R →
    (∀ all, m ≠ 0 →
      (fld v 56 4 ≠ 0 ∨ (all = true ∧ v % 2 ^ 56 ≠ 0) ∨ nvdOf s core ≤ v / 2 ^ 60 → exec (.tlbi ⟨hd, k, all⟩) s = .next (atIssue s s.cur R 2)) ∧
      (fld v 56 4 = 0 → (all = true → v % 2 ^ 56 = 0) → v / 2 ^ 60 < nvdOf s core → ∃ t, exec (.tlbi ⟨hd, k, all⟩) s = .next t ∧
        Goes s t R hd.sw s.here (kreg s s.cur) R.pends ∧ Beside s t ∧
        (t.gang g).tlbi = (s.gang g).tlbi ++
          [{ panel := (panelCore s core).1, vd := v / 2 ^ 60, va := if all then none else some (v % 2 ^ 56), waits := none }])) ∧
    (((s.gang g).tlbi = [] → ∃ t, exec (.tlbsync ⟨hd⟩) s = .next t ∧ Passes s t R hd.sw s.here (kreg s s.cur) R.pends) ∧
      ((s.gang g).tlbi ≠ [] → m ≠ 0 → ∃ t, exec (.tlbsync ⟨hd⟩) s = .next t ∧ Held s t R .tlbsync)) ∧
    (∀ all, m ≠ 0 → Quiet s → linesSent s core = true →
      (all = true → v ≠ 0 → exec (.icinv ⟨hd, k, all⟩) s = .next (atIssue s s.cur R 2)) ∧
      ((all = true → v = 0) → ∃ t, exec (.icinv ⟨hd, k, all⟩) s = .next t ∧
        (t.slot s.cur).wait = .outside (.icinv (if all then none else some (v / 2 ^ 60, v % 2 ^ 56 / 4096))) m ∧
        (∀ key, t.mem.read key = dirtyByte s core key) ∧ (∀ ln ∈ (t.core core).l1, ln.dirty = 0) ∧
        (∀ l, l < 64 → (t.gang g).lane l = s.here l) ∧ ∀ i, i < 64 → kreg t s.cur i = kreg s s.cur i))) ∧
  ∀ (s : State) (g : Nat) (q : TlbiReq), (s.gang g).tlbi = [q] → q.waits = none →
    let ctx := ctxId q.panel q.vd
    let resident := s.teams.any (fun e => match s.launch? e.2.launch with | some L => ctxId L.panel L.vd == ctx | none => false)
    ∃ t, exec (.tlbiCompletion g) s = .next t ∧
      (∀ c e, e ∈ (t.core c).tlb ↔ e ∈ (s.core c).tlb ∧
        ¬ (e.ctx = ctx ∧ (∀ a, q.va = some a → e.va1 ≤ a ∧ a < e.va1 + e.size1) ∧ ¬ (e.space = 1 ∧ resident = true))) ∧
      (∀ e, e ∈ t.tables ↔ e ∈ s.tables ∧ ¬ (e.stage2 = false ∧ e.ctx = ctx ∧ ∀ a, q.va = some a → e.base ≤ a ∧ a < e.base + e.size)) ∧
      (inFlight s ctx = [] → (t.gang g).tlbi = [] ∧
        (∀ c, (tabFind s.cores c).isSome = true → (panelCore s c).1 = q.panel → linesSent s c = true → (∀ ln ∈ (t.core c).l1, ln.dirty = 0) ∧
          ∀ ln ∈ (s.core c).l1, ∀ i, i < 128 → ln.dirty.getLsbD i = true → s.reds = [] → (∀ c', unspoilt s c' = true) → (∀ u, doomed s u = false) →
            (∀ c' ln', ln' ∈ (s.core c').l1 → ln'.line = ln.line → ln'.dirty.getLsbD i = true → ln' = ln) →
            t.mem.read (ln.line * 128 + i) = ln.byte i) ∧
        ∀ b R, (s.slot ⟨g, b⟩).mask ≠ 0 → (s.slot ⟨g, b⟩).wait = .tlbsync → (s.slot ⟨g, b⟩).run = some R →
          ∃ R', (t.slot ⟨g, b⟩).run = some R' ∧ R'.pos = R.pos + 1 ∧ (R.pends = [] → (t.slot ⟨g, b⟩).wait = .none)) ∧
      (inFlight s ctx ≠ [] → (t.gang g).tlbi = [{ q with waits := some (inFlight s ctx) }] ∧ ∀ b, t.slot ⟨g, b⟩ = s.slot ⟨g, b⟩)

/-- 18 R319 to R325, R327, 19 R346, 03 R70. A trapped group enters its handler: the frame of R320 is written, the slot stands in system mode at the vector's entry
with the trapped lanes, and no lane has changed; it waits while the other slot is in a handler or a function that it needs is not ready (27 R421), and a fault in writing the frame ends the
team with cause 49. ERET reloads the frame's lanes and k56 to k63 and takes the resume address. TRAPI and IDLE have their effect where their
trace ends. The timer's expiry starts the service gang that waits, the first time at ctl.svec, and otherwise adds to MISS. A starved gang joins its
core's forced queue; an overflow row that is filled joins the window, and the slots that wait for it go on. -/
def Obligations.TrapsAndReturns : Prop :=
  (∀ (s : State) (r : SlotRef) (fk vk : Nat → Nat),
    let G := s.gang r.gang
    let X := s.slot r
    let core := coreOf r.gang
    let C := s.core core
    let ctx := sysCtx (panelCore s core).1
    let frame := C.tframe.toNat + 1024 * gslotOf r.gang
    let reach := fun acc va (k : Nat) => ∃ e sp, C.tlb.find? (fun e => e.covers ctx (va % 2 ^ 56) && !(accWrites acc && e.dt && !e.d)) = some e ∧
      e.check (va % 2 ^ 56) acc false none = .ok sp k
    (∀ i j, i < 1024 → j < 1024 → fk i = fk j → i = j) →
    (∀ t, X.wait = .trapped t → isSvc r.gang = false → X.mask ≠ 0 → X.hnd = none → G.co = none →
      ((s.slot (otherSlot r)).hnd ≠ none ∨ deliveryReady s r = false → exec (.trapDelivery r) s = .next s) ∧
      ((s.slot (otherSlot r)).hnd = none → G.width ≠ 64 → deliveryReady s r = true →
        (∀ c, (∀ e ∈ C.tlb, e.covers ctx (frame % 2 ^ 56) = false) → walk s (dieOf core) ctx (frame % 2 ^ 56) = .inl c →
          ∃ t', exec (.trapDelivery r) s = .next t' ∧ t'.mem = s.mem ∧
            t'.agenda = .event (.teamEnd (G.team.getD 0) 49 (frame % 2 ^ 56)) :: s.agenda) ∧
        (s.reds = [] → unspoilt s core = true → (∀ u, doomed s u = false) → tidyL1 s core → (∀ i, i < 1024 → reach .write (frame + i) (fk i)) →
          (∀ i, i < 8 → reach .read (C.tvec.toNat + 8 * t.cause + i) (vk i)) → (∀ i j, i < 1024 → j < 8 → fk i ≠ vk j) →
          ∃ t', exec (.trapDelivery r) s = .next t' ∧
            t'.slot r = { X with entry := bytesNat ((List.range 8).map (fun i => coreByte s core (vk i))), run := none, wait := .none, pair := false,
                                 resumed := false, hnd := some { trap := t, mask := X.mask, tok := X.tok, depth := G.stack.length } } ∧
            sysMode t' r = true ∧ (∀ l, l < 64 → (t'.gang r.gang).lane l = G.lane l) ∧
            (∀ k, (∀ i, i < 1024 → lineOf (fk i) ≠ lineOf k) → t'.mem.read k = s.mem.read k) ∧
            let holds := fun a n v => ∀ i, i < n → t'.mem.read (fk (a + i)) = BitVec.ofNat 8 (v / 2 ^ (8 * i))
            (∀ l, l < 32 → holds (16 * l) 16 ((G.lane l).rdAt 0 32) ∧ holds (0x240 + 4 * l) 4 (G.lane l).preds.toNat ∧
              holds (0x2C0 + 4 * l) 4 (G.lane l).fpsr.toNat) ∧
            (∀ i, i < 8 → holds (0x200 + 8 * i) 8 (kreg s r (56 + i))) ∧
            holds 0x340 8 (t.ord * 2 ^ 44 + t.off * 2 ^ 37 + b2n t.kept * 2 ^ 36 + t.code * 2 ^ 28 + t.cause) ∧ holds 0x348 8 t.resume ∧
            holds 0x350 4 (X.mask.toNat % 2 ^ 32) ∧ holds 0x354 4 0 ∧ holds 0x358 8 t.detail ∧ holds 0x360 160 0))) ∧
    (∀ R off h, X.wait = .resolving → X.run = some R → R.term = some (.eret, off) → R.pends = [] → R.lates = [] → R.recld = [] → R.failed = 0 →
      R.faults = [] → R.store = [] → framesReady s r.gang .read = true → R.trapi = none → X.hnd = some h → isSvc r.gang = false → G.co = none → G.rebuild = none → G.stack = [] → h.depth = 0 → G.width ≠ 64 →
      s.reds = [] → unspoilt s core = true → (∀ i, i < 1024 → reach .read (frame + i) (fk i)) →
      let n := fun a len => bytesNat ((List.range len).map (fun i => coreByte s core (fk (a + i))))
      X.mask.toNat = n 0x350 4 → X.mask ≠ 0 →
      ∃ t, exec (.traceResolution r) s = .next t ∧ t.mem = s.mem ∧
        t.slot r = { Slot.free with mask := X.mask, entry := n 0x348 8, tok := h.tok, stamp := X.stamp, hold := X.hold } ∧
        (∀ l, l < 64 → (t.gang r.gang).lane l = if Mask.has X.mask l then
          { (G.lane l).wr 0 32 (n (16 * l) 16) with preds := BitVec.ofNat 32 (n (0x240 + 4 * l) 4) ||| 1#32,
                                                    fpsr := BitVec.ofNat 32 (n (0x2C0 + 4 * l) 4) &&& 0x3F#32 } else G.lane l) ∧
        ∀ i, i < 64 → kreg t r i = if 56 ≤ i then n (0x200 + 8 * (i - 56)) 8 else kreg s r i)) ∧
  (∀ (s : State) (r : SlotRef) (R : Run) (x : Term) (o : Int) (off : Nat),
    let G := s.gang r.gang
    let X := s.slot r
    let cont := pcAdd (pcAdd X.entry off) o
    X.wait = .resolving → X.run = some R → R.term = some (x, off) → ((x = .next ∧ o = 1) ∨ x = .jmp o) → R.pends = [] → R.lates = [] → R.recld = [] →
    R.failed = 0 → R.alts = [] → R.faults = [] → R.watch = none → R.store = [] → R.hdr.guarded = false → X.mask ≠ 0 → G.co = none → G.rebuild = none →
    G.stack = [] →
    (∀ code, isSvc r.gang = false → X.hnd = none → R.trapi = some (code, X.mask) → ∃ t, exec (.traceResolution r) s = .next t ∧ (t.slot r).mask = X.mask ∧
      (t.slot r).entry = cont ∧ (t.slot r).tok = X.tok ∧ (t.slot r).run = none ∧
      (t.slot r).wait = .trapped { cause := 20, ord := R.hdr.ord, off := R.hdr.len, kept := true, code, detail := 0, resume := cont } ∧ ∀ l, l < 64 → (t.gang r.gang).lane l = G.lane l) ∧
    (isSvc r.gang = true → X.hnd = none → R.trapi = none → R.idle = true → ∃ t, exec (.traceResolution r) s = .next t ∧ (t.slot r).mask = X.mask ∧
      (t.slot r).entry = cont ∧ (t.slot r).wait = .idle ∧ (t.slot r).run = none)) ∧
  (∀ (s : State) (core : Nat) (ws : List (Nat × Option (SlotRef × Nat))),
    let C := s.core core
    let g := 64 * core + 63
    (C.expired = none → exec (.timerExpiry core) s = .next s) ∧
    (C.expired = some ws → (s.gang g).a.wait = .idle → (s.gang g).a.mask ≠ 0 → (s.gang g).a.tok = none → (s.gang g).b = Slot.free → (s.gang g).stack = [] →
      ∃ t, exec (.timerExpiry core) s = .next t ∧
        (t.gang g).a = { (s.gang g).a with wait := .none, entry := if (s.gang g).a.stamp = 0 then C.svec.toNat else (s.gang g).a.entry } ∧ (t.core core).expired = none ∧
        (t.core core).miss = C.miss ∧ (t.core core).snap = ws.map (fun w => w.1 + w.2.elim 0 (fun p => headerOrd s p.1 p.2 * 2 ^ 30))) ∧
    (C.expired = some ws → (s.gang g).a.wait ≠ .idle → (s.gang g).b.wait ≠ .idle →
      ∃ t, exec (.timerExpiry core) s = .next t ∧ (t.core core).miss = min (C.miss + 1) (2 ^ 24 - 1) ∧ (t.core core).expired = none ∧
        (t.core core).snap = C.snap ∧ t.gangs = s.gangs)) ∧
  (∀ (s : State) (g : Nat), let C := s.core (coreOf g)
    ((s.gang g).starve < 52 ∨ g ∈ C.forced → exec (.forcedQueueJoin g) s = .next s) ∧
    (52 ≤ (s.gang g).starve → g ∉ C.forced → ∃ t, exec (.forcedQueueJoin g) s = .next t ∧ (t.core (coreOf g)).forced = C.forced ++ [g] ∧
      t.gangs = s.gangs ∧ t.mem = s.mem)) ∧
  ∀ (s : State) (g row : Nat), let G := s.gang g
    let overflows := G.bound ≤ 8 * row ∧ 8 * row < declared s g
    let goesOn := fun (t : State) => (t.gang g).a = G.a.wake (.fill row) ∧ (t.gang g).b = G.b.wake (.fill row)
    (¬ overflows ∨ row ∈ G.window.map (·.1) → ∃ t, exec (.overflowRowFill g row) s = .next t ∧ (t.gang g).window = G.window ∧ t.mem = s.mem ∧ goesOn t) ∧
    (overflows → row ∉ G.window.map (·.1) → G.window.length < 16 → s.poison = [] →
      ∃ t, exec (.overflowRowFill g row) s = .next t ∧ (t.gang g).window = G.window ++ [(row, false)] ∧ t.mem = s.mem ∧ goesOn t ∧
        ∀ l, l < 64 → (t.gang g).lane l = G.lane l) ∧
    (∀ old rest, overflows → row ∉ G.window.map (·.1) → G.window = (old, false) :: rest → rest.length = 15 → s.poison = [] →
      ∃ t, exec (.overflowRowFill g row) s = .next t ∧ (t.gang g).window = rest ++ [(row, false)] ∧ t.mem = s.mem ∧ goesOn t)

/-- 13 R290, 27 R412, 19 R334 to R337, R427. LNCH is a release at .d and leaves its status pending: 3 without a permitted queue, 2 for a malformed block, 1 for
a full queue, and 0 where the launch joins its queue; a bound doorbell submits in the same way, for the virtual device that owns the
queue. A handle is bound or unbound by its panel. A registered block takes effect with its queues. What an accepted block may hold. The model's own
choices: where several statuses hold, 3 comes before 2 and 2 before 1 (log 49); a handle that is bound anew drops a doorbell of its that is being read (log
58); of several results of a registration the lowest is reported (log 70). -/
def Obligations.LaunchesAndTheirQueues : Prop :=
  let joined := fun (u : State) (Q : Queue) (L : Launch) =>
    stir (setQueue { u with nextLaunch := u.nextLaunch + 1, launches := tabSet u.launches u.nextLaunch L } { Q with launches := Q.launches ++ [u.nextLaunch] }) Q.panel
  (∀ (x : LnchOp) (s : State) (R : Run), Issues (syncInfo x.hd [x.d] (wIs 8 x.d)) s R → participants s s.cur R x.hd false ≠ 0 → Quiet s →
    linesSent s (coreOf s.cur.gang) = true →
    let g := s.cur.gang
    let m := participants s s.cur R x.hd false
    let u := promote s (coreOf g)
    let kq := kreg s s.cur x.kq
    let addr := kreg s s.cur x.kblk
    let panel := (panelCore s (coreOf g)).1
    let ends := fun st v => ∃ t, exec (.lnch x) s = .next t ∧ PassesTo s v t R x.hd.sw s.here (kreg s s.cur)
      (cancelAll R.pends m (fun _ => [wrTo x.d st]) ++ (Mask.lanes m).flatMap (fun l => pendOf l (wrTo x.d st)))
    (512 < kq ∨ (kq = 0 ∧ launchOf s g = none) ∨ (kq ≠ 0 ∧ (s.handle (panel * 512 + (kq - 1))).leaf = none) ∨
      (kq ≠ 0 ∧ isSvc g = false ∧ ∃ rcb q v, (s.handle (panel * 512 + (kq - 1))).leaf = some (rcb, q) ∧ vdOfRcb s panel rcb = some v ∧
        ∀ L, launchOf s g = some L → L.vd ≠ v) → ends 3 u) ∧
    (∀ rcb q v, (∃ L, kq = 0 ∧ launchOf s g = some L ∧ (L.panel, L.rcb, L.queue, L.vd) = (panel, rcb, q, v)) ∨
        (kq ≠ 0 ∧ kq ≤ 512 ∧ (s.handle (panel * 512 + (kq - 1))).leaf = some (rcb, q) ∧ vdOfRcb s panel rcb = some v ∧
          (isSvc g = true ∨ ∃ L, launchOf s g = some L ∧ L.vd = v)) →
      (findQueue s panel rcb q = none → ends 3 u) ∧
      ∀ Q b, findQueue s panel rcb q = some Q → findRcb s panel rcb = some b →
        (addr % 64 ≠ 0 ∨ parseBlock u Q v addr b = none → ends 2 u) ∧
        ∀ L, parseBlock u Q v addr b = some L →
          (64 ≤ Q.launches.length → ends 1 u) ∧ (Q.launches.length < 64 → ends 0 (joined u Q L)))) ∧
  (∀ (s : State) (h v rcb q : Nat),
    let panel := h / 512
    ((s.handle h).leaf = none → exec (.doorbell h v) s = .next s) ∧
    ((s.handle h).leaf = some (rcb, q) →
      (s.ready.mgmt = false ∨ s.ready.cxl = false → exec (.doorbell h v) s = .next s) ∧
      (s.ready.mgmt = true → s.ready.cxl = true →
        let H := s.handle h
        (H.reading ≠ none → exec (.doorbell h v) s = .next (s.setHandle h { H with status := 1 })) ∧
        (H.reading = none →
          (vdOfRcb s panel rcb ≠ some (fld v 60 4) ∨ findQueue s panel rcb q = none → exec (.doorbell h v) s = .next (s.setHandle h { H with status := 3 })) ∧
          (vdOfRcb s panel rcb = some (fld v 60 4) → findQueue s panel rcb q ≠ none →
            exec (.doorbell h v) s =
              .next (s.setHandle h { H with reading := some (v, s.mclock + submitCycles s panel (fld v 60 4) (v % 2 ^ 56)) })))))) ∧
  (∀ (s : State) (rest : List Agendum) (h v k rcb q st : Nat),
    let panel := h / 512
    let u := cyclePassed { s with agenda := rest }
    let ends := fun (w : State) x => step s = .next (w.setHandle h { leaf := some (rcb, q), status := x, reading := none })
    s.agenda = .cycle :: rest → timedDue s = none → s.handles = [(h, { leaf := some (rcb, q), status := st, reading := some (v, k) })] → k ≤ s.mclock + 1 →
    (s.mclock + 1) % 8192 ≠ 0 →
    (findQueue u panel rcb q = none ∨ findRcb u panel rcb = none → ends u 3) ∧
    ∀ Q b, findQueue u panel rcb q = some Q → findRcb u panel rcb = some b →
      (parseBlock u Q (fld v 60 4) (v % 2 ^ 56) b = none → ends u 2) ∧ (v % 64 ≠ 0 → ends u 2) ∧
      ∀ L, parseBlock u Q (fld v 60 4) (v % 2 ^ 56) b = some L →
        (64 ≤ Q.launches.length → ends u 1) ∧ (Q.launches.length < 64 → ends (joined u Q L) 0)) ∧
  (∀ (s : State) (rest : List Agendum) (h : Nat), s.agenda = .doorbellRead h :: rest → s.ready.cxl = true →
    step s = .next { s with agenda := rest,
                            reply := .data (natBytes 8 (if (s.handle h).leaf = none then 2 ^ 64 - 1 else (s.handle h).status)) }) ∧
  (∀ (s : State) (panel h : Nat) (leaf : Option (Nat × Nat)), h < 512 → ∃ t, exec (.hostQueueHandleBind panel h leaf) s = .next t ∧
    t.handle (panel * 512 + h) = { leaf, status := 0, reading := none } ∧ (∀ n, n ≠ panel * 512 + h → t.handle n = s.handle n) ∧ t.mem = s.mem) ∧
  (∀ (s : State) (buf : Nat),
    let panel := s.mem.readN (memKey 4 buf) 4
    let addr := s.mem.readN (memKey 4 (buf + 8)) 8
    (s.mailbox.busy = true ∨ s.ready.mgmt = false ∨ s.ready.cxl = false → exec (.registration buf) s = .next s) ∧
    (s.mailbox.busy = false → s.ready.mgmt = true → s.ready.cxl = true → buf % 4096 = 0 → buf < 2 ^ 56 →
      (addr % 64 ≠ 0 → ∃ t, exec (.registration buf) s = .next t ∧ t.mailbox.result = 1 ∧ t.mailbox.busy = false ∧ t.rcbs = s.rcbs) ∧
      (∀ r, checkRcb s panel addr = .inl r → ∃ t, exec (.registration buf) s = .next t ∧ t.mailbox.result = r ∧ t.rcbs = s.rcbs ∧ t.queues = s.queues) ∧
      (∀ b, checkRcb s panel addr = .inr b → ∃ t, exec (.registration buf) s = .next t ∧ t.mailbox.result = 0 ∧ t.mailbox.busy = false ∧
        findRcb t panel addr = some b ∧ (∀ p a, (p, a) ≠ (panel, addr) → findRcb t p a = findRcb s p a) ∧
        t.queues = s.queues ++ (if findRcb s panel addr = none ∧ b.leaf = true then
          (List.range (b.nq + 1)).map (fun q => { panel, rcb := addr, q, launches := [], deficit := 0, idle := true }) else [])))) ∧
  (∀ (s : State) (panel : Nat) (d : List Word64) (addr : Nat), addr % 64 = 0 → addr < 2 ^ 56 → mgmtWords s (sysCtx panel) addr 8 = some d →
    let b := Rcb.ofWords panel addr d
    (rcbSound d b = false → checkRcb s panel addr = .inl 2) ∧
    (rcbSound d b = true → b.parent ≠ 0 → findRcb s panel b.parent = none → checkRcb s panel addr = .inl 3) ∧
    (rcbSound d b = true → b.parent ≠ 0 → findRcb s panel b.parent ≠ none → findRcb s panel addr = none →
      (tabFind s.meters b.meter = none → checkRcb s panel addr = .inl 4) ∧
      ((tabFind s.meters b.meter).isSome = true → checkRcb s panel addr = .inr b))) ∧
  (∀ (s : State) (b p : Rcb), findRcb s b.panel b.addr = some b → findRcb s b.panel b.parent = some p → b.parent ≠ 0 → p.parent = 0 → p.ovr = 0x3FF →
    b.addr ≠ b.parent →
    let e := effRcb s b
    e.prio = (if bit b.ovr 1 then b.prio else p.prio) ∧ e.quantum = (if bit b.ovr 0 then b.quantum else p.quantum) ∧
    e.fdom = (if bit b.ovr 2 then b.fdom else p.fdom) ∧ e.emax = (if bit b.ovr 8 then b.emax else p.emax) ∧
    e.meter = if bit b.ovr 9 then b.meter else p.meter) ∧
  ∀ (s : State) (Q : Queue) (vd addr : Nat) (b : Rcb) (L : Launch), parseBlock s Q vd addr b = some L →
    addr % 64 = 0 ∧ mgmtWords s (ctxId Q.panel vd) addr 16 = some L.block ∧ L.walk = 0 ∧ 1 ≤ L.gangs ∧ L.gangs ≤ 32 ∧ 1 ≤ L.stitch ∧ L.stitch ≤ 1024 ∧
    L.entry % 8 = 0 ∧ 1 ≤ L.dimx ∧ 1 ≤ L.dimy ∧ 1 ≤ L.dimz ∧ L.scratch ≤ 983040 ∧ (L.twin = true → L.teams % 2 = 0) ∧
    (L.width = 64 → L.gangs ≤ 16) ∧ fld (descWord L.block 0) 56 8 = 0

/-- 19 R338 to R343, R349, 03 R74, 01 R20, 21 R363, R364, 27 R419. A visit of a queue without a launch leaves it idle with no credit; one whose next unit fits adds the
quantum and dispatches while the deficit is positive; a queue whose saved team waits for its restore dispatches nothing. The visits in a row that
dispatch nothing are counted, and a team that retires lets the distributor visit again. An admitted team's gangs start
at the entry with the argument in k0 and nothing else. A team with nothing under way retires: its queue is settled by what it used, and is idle only in its slice. A reported
cause ends every resident team of the unit and all their gangs; so does consumed poison. A cause below 48, with which system software ends a team,
is not reported (the model's form of that end is log 66). A trap in a recipe of teams that CTXLD loads takes them away, with status 3 (what then
becomes of them is log 30). -/
def Obligations.TeamsStartAndEnd : Prop :=
  (∀ (s : State) (panel v n : Nat) (q : Queue), s.queues = [q] → q.panel = panel → tabFind s.slice panel = some (v, false, n) → vdOfRcb s panel q.rcb = some v →
    let s1 := { s with visit := tabSet s.visit panel 0 }
    let quantum := (findRcb s panel q.rcb).elim 0 (fun b => (effRcb s b).quantum)
    let waits := fun (t : State) => tabGet 0 t.quiet panel = tabGet 0 s.quiet panel + 1
    (∀ lid rest L, q.launches = lid :: rest → s.launch? lid = some L → savedAhead s q = true →
      ∃ t, exec (.dispatchVisit panel) s = .next t ∧ t.queues = [q] ∧ t.teams = s.teams ∧ waits t) ∧
    (q.launches = [] →
      ∃ t, exec (.dispatchVisit panel) s = .next t ∧ t.queues = [{ q with idle := true, deficit := min q.deficit 0 }] ∧ t.teams = s.teams ∧ waits t) ∧
    (placeNext s1 q = .no → ∃ t, exec (.dispatchVisit panel) s = .next t ∧ t.queues = [q] ∧ t.teams = s.teams ∧ waits t) ∧
    (∀ u' c', placeNext s1 q = .ok u' c' →
      let q2 := { q with idle := false, deficit := q.deficit + quantum }
      (q2.deficit ≤ 0 → ∃ t, exec (.dispatchVisit panel) s = .next t ∧ t.queues = [q2] ∧ t.teams = s.teams) ∧
      (∀ u charge q3, 0 < q2.deficit → placeNext (setQueue s1 q2) q2 = .ok u charge → findQueue u panel q.rcb q.q = some q3 → q3.deficit ≤ (charge : Nat) →
        ∃ t, exec (.dispatchVisit panel) s = .next t ∧ t.teams = u.teams ∧ t.gangs = u.gangs ∧ t.mem = u.mem ∧
          t.queues = (setQueue u { q3 with deficit := q3.deficit - (charge : Nat) }).queues))) ∧
  (∀ (s : State) (lid p core : Nat) (L : Launch) (a : Alloc) (partner : Option Nat) (b : Rcb), findRcb s L.panel L.rcb = some b →
    (gangPlaces L.parts a.runs).Nodup →
    let t := admitTeam s lid p core L a partner
    (∃ T, t.team? s.nextTeam = some T ∧ T.launch = lid ∧ T.idx = walkIndex L p ∧ T.core = core ∧ T.ngang = L.gangs ∧ T.grant = a.grant ∧ T.eff = effRcb s b ∧
      T.bars = List.replicate 16 (Barrier.init L.gangs) ∧ T.recs = List.replicate 64 RecSlot.init ∧ T.resid = 0 ∧ T.ended = none ∧ T.partner = partner) ∧
    t.mem = s.mem ∧ (∀ n, n ≠ s.nextTeam → t.team? n = s.team? n) ∧
    ∀ n g, (gangPlaces L.parts a.runs)[n]? = some g →
      let G := t.gang g
      G.team = some s.nextTeam ∧ G.num = n ∧ G.width = L.width ∧ G.bound = boundOf L.stitch a.grant ∧
      G.role = (if n < L.blk 3 24 8 then .v else if n < L.blk 3 24 8 + L.blk 3 32 8 then .m else .c) ∧
      (∀ i, i < 64 → ((G.k.toList[i]?).getD 0).toNat = if i = 0 then L.blk 6 0 56 else 0) ∧ (∀ l, l < 64 → G.lane l = Lane.reset) ∧
      G.a = Slot.at L.entry (maskOf (fun l => l < L.width)) none ∧ G.b = Slot.free ∧ G.stack = []) ∧
  (∀ (s : State) (tm : Nat) (T : Team), s.team? tm = some T →
    (teamQuiet s tm = false → exec (.teamRetirement tm) s = .next s) ∧
    (∀ L q, teamQuiet s tm = true → s.launch? T.launch = some L → L.blk 10 0 56 = 0 → findQueue s L.panel L.rcb L.queue = some q → L.parts = 1 →
      let up := fun a b => (a + b - 1) / b
      let used := max (max (up (T.resid * T.ngang) 48) (up (T.resid * (T.ngang * T.grant)) 512)) (max (up (T.resid * spadCount T.scratch) 120) (up T.resid 16))
      let d : Int := q.deficit + (L.cost T.eff.emax : Nat) - (used : Nat)
      ∃ t, exec (.teamRetirement tm) s = .next t ∧ t.team? tm = none ∧ t.mem = s.mem ∧
        findQueue t L.panel L.rcb L.queue = some { q with deficit := if q.idle = true ∧ (visited s L.panel).any (fun x => x.is q.panel q.rcb q.q) = true then min d 0 else d } ∧
        tabFind t.quiet L.panel = none ∧
        (L.spent = false → t.launch? T.launch = some { L with retired := L.retired + 1 }) ∧
        (L.spent = true → (∀ e ∈ s.teams, e.1 = tm ∨ e.2.launch ≠ T.launch) → s.saved = [] → t.launch? T.launch = none) ∧
        ∀ n, n ≠ tm → (t.team? n).isSome = (s.team? n).isSome)) ∧
  (∀ (s : State) (tm cause detail : Nat) (T : Team) (L : Launch), s.team? tm = some T → s.launch? T.launch = some L →
    (∀ r ts d m R, loaderOf s tm = some (r, ts) → (s.gang r.gang).team = none → (s.slot r).wait = .loading ts d m → (s.slot r).run = some R →
      ∃ t, exec (.teamEnd tm 52 detail) s = .next t ∧ (∀ x ∈ ts, t.team? x.team = none) ∧ t.reportSeq = s.reportSeq ∧ t.mem = s.mem ∧
        (∃ R', (t.slot r).run = some R' ∧ R'.pos = R.pos + 1) ∧
        ∀ l, l < 64 → (t.gang r.gang).lane l =
          if Mask.has m l then ((s.gang r.gang).lane l).apply (wrTo d 3) else (s.gang r.gang).lane l) ∧
    ∀ i, ((i = Instr.teamEnd tm cause detail ∧ (cause = 52 → loaderOf s tm = none)) ∨ (i = .poisonConsumed tm detail ∧ cause = 48 ∧ tm < 2 ^ 64)) →
      (T.ended ≠ none → exec i s = .next s) ∧
      (T.ended = none → ∃ t, exec i s = .next t ∧ (t.team? tm).bind (·.ended) = some (cause, detail) ∧ (∀ e ∈ t.gangs, e.2.team ≠ some tm) ∧
        tabGet 0 t.reportSeq (L.panel * 16 + L.vd) = tabGet 0 s.reportSeq (L.panel * 16 + L.vd) + (if cause < 48 then 0 else 1) ∧
        ∀ u U, s.team? u = some U → U.ended = none → (L.grid = true ∧ U.launch = T.launch ∨ L.grid = false ∧ T.partner = some u) →
          (t.team? u).bind (·.ended) = some (cause, detail) ∧ ∀ e ∈ t.gangs, e.2.team ≠ some u)) ∧
  ∀ (p : Report) (q : Nat) (s : State) (T : Team), (reportBytes p q).length = 64 ∧ (reportBytes p q)[0]? = some (BitVec.ofNat 8 p.cause) ∧
    (∀ i, i < 8 → (reportBytes p q)[0x38 + i]? = some (BitVec.ofNat 8 (q / 2 ^ (8 * i)))) ∧ (recordBytes s T).length = 256 ∧
    (∀ i, i < 8 → (recordBytes s T)[i]? = some (BitVec.ofNat 8 (T.idx / 2 ^ (8 * i)))) ∧
    (recordBytes s T)[12]? = some (match T.ended with | none => (0 : Byte) | some (c, _) => if c < 48 then 2 else 1)

/-- 18 R332, 21 R364 to R373, 22 R375, 23 R381, R382, and the model's own choices (log 15, log 30, log 31). CTXSV names an image and begins the save of the unit of a team, whose
slot it holds until the team has left; CTXLD restores, and holds its slot until the recipes of the restored gangs have run; a team whose device is out
of its slice finds no resources (log 30). Their statuses are of fixed latency (03 R63). A unit that stops gives up the waits of its word stops. A request chooses the unit's method once: drain where what is left fits the
allowance, flush and restart where that is cheaper than a save, and otherwise save; a drain that outlasts its allowance becomes a save. A
flushed team is placed back; a saved one leaves its core and stands in its image, and is restored from it. A slice that is over ends by asking each
resident unit to stop, and the next runnable device in order begins; its units that CTXSV saved are restored too (log 31). A cycle of waits that two walks find is broken with cause 50. -/
def Obligations.UnitsArePreempted : Prop :=
  (∀ (x : DkOp) (s : State) (R : Run), Issues { sysInfo x.hd [x.d] (wIs 8 x.d && x.k % 2 == 0) with svc := true } s R →
    participants s s.cur R x.hd false ≠ 0 →
    let m := participants s s.cur R x.hd false
    let core := coreOf s.cur.gang
    let panel := (panelCore s core).1
    let a := kreg s s.cur x.k
    let p := kreg s s.cur (x.k + 1)
    let ends := fun i st => ∃ t, exec i s = .next t ∧ Writes s t R x.hd (fun _ _ => [wrTo x.d st])
    (a % 4096 ≠ 0 ∨ 2 ^ 56 ≤ a ∨ 16 ≤ p → exec (.ctxsv x) s = .next (atIssue s s.cur R 2)) ∧
    (a % 4096 ≠ 0 ∨ 2 ^ 56 ≤ a ∨ p ≠ 0 → exec (.ctxld x) s = .next (atIssue s s.cur R 2)) ∧
    (a % 4096 = 0 → a < 2 ^ 56 → p < 16 →
      (teamAt s core p = none → ends (.ctxsv x) 1) ∧
      ∀ tm T L, teamAt s core p = some tm → s.team? tm = some T → s.launch? T.launch = some L →
        ((badPage s panel a (largestImage s tm T) .write).isSome = true → ends (.ctxsv x) 4) ∧
        (badPage s panel a (largestImage s tm T) .write = none → L.grid = false → T.partner = none → T.pre = .none → T.core = core →
          ∃ t, exec (.ctxsv x) s = .next t ∧ (t.slot s.cur).wait = .saving tm x.d m ∧
            t.team? tm = some { T with image := some a, pre := .save } ∧
            (∀ r ∈ t.reserved, r.team ≠ tm) ∧ t.mem = s.mem ∧ ∀ l, l < 64 → (t.gang s.cur.gang).lane l = s.here l)) ∧
    (a % 4096 = 0 → a < 2 ^ 56 → p = 0 →
      ((badPage s panel a 0x27000 .read).isSome = true → ends (.ctxld x) 4) ∧
      (badPage s panel a 0x27000 .read = none → loadedTeam s panel a core = none → ends (.ctxld x) 3) ∧
      (∀ v, badPage s panel a 0x27000 .read = none → loadedTeam s panel a core = some v →
        badPage s panel a (v.img.head s 0 % 2 ^ 32) .read = none → sliceOpen s panel v.img.launch.vd = false → ends (.ctxld x) 2) ∧
      ∀ u st ts, (s.gang s.cur.gang).window = [] → loadImage (s.setRun s.cur R) core a = (u, st, ts) →
        u.gang s.cur.gang = (s.setRun s.cur R).gang s.cur.gang →
        (recipesRun u ts = false → ∃ t, exec (.ctxld x) s = .next t ∧ Beside u t ∧
          Goes s t R x.hd.sw (s.written m (fun _ => [wrTo x.d st])) (kreg s s.cur) (cancelAll R.pends m (fun _ => [wrTo x.d st]))) ∧
        (recipesRun u ts = true → ∃ t, exec (.ctxld x) s = .next t ∧ Beside u t ∧ (t.slot s.cur).wait = .loading ts x.d m ∧
          ∀ l, l < 64 → (t.gang s.cur.gang).lane l = s.here l))) ∧
  (∀ (s : State) (r : SlotRef) (R : Run) (ts : List Loaded) (d : Opnd) (m : Mask), (s.slot r).wait = .loading ts d m → (s.slot r).run = some R →
    (recipesRun s ts = true → exec (.outsideValueArrival r) s = .next s) ∧
    (recipesRun s ts = false → ∃ t, exec (.outsideValueArrival r) s = .next t ∧ (∃ R', (t.slot r).run = some R' ∧ R'.pos = R.pos + 1) ∧ t.teams = s.teams ∧
      ∀ l, l < 64 → (t.gang r.gang).lane l = if Mask.has m l then ((s.gang r.gang).lane l).apply (wrTo d 0) else (s.gang r.gang).lane l)) ∧
  (∀ (s : State) (tm : Nat) (T : Team) (L : Launch), s.team? tm = some T → s.launch? T.launch = some L → L.grid = false → T.partner = none → T.ended = none →
    let left := L.cost T.eff.emax - chargeOf s T
    let A := fld (descWord (s.vd L.panel L.vd) 1) 0 32
    let cheap := L.idem = true ∧ chargeOf s T ≤ 2 * ((largestImage s tm T + 511) / 512)
    let gives := fun (w : Wait) => match w with | .claim .. | .bwait .. | .spawn .. | .seal _ => Wait.none | w => w
    let stops := fun (t : State) => ∀ r, (s.gang r.gang).team = some tm →
      t.slot r = if (s.slot r).mask ≠ 0 ∧ (s.slot r).hnd = none then { s.slot r with wait := gives (s.slot r).wait } else s.slot r
    let saves := fun src => exec (.preemptionRequest tm src) s = .next (beginSave s tm)
    let stays := fun src => exec (.preemptionRequest tm src) s = .next s
    (∀ src, (src = .slice ∨ src = .privileged) → T.pre = .none →
      (left ≤ A → ∃ t, exec (.preemptionRequest tm src) s = .next t ∧ t.team? tm = some { T with pre := .drain s.now } ∧ t.gangs = s.gangs ∧ t.mem = s.mem) ∧
      (A < left → cheap → ∃ t, exec (.preemptionRequest tm src) s = .next t ∧ t.team? tm = some { T with pre := .flush } ∧ stops t ∧ t.mem = s.mem) ∧
      (A < left → ¬ cheap → saves src)) ∧
    (T.pre ≠ .save → saves .ctxsv) ∧
    (∀ since, T.pre = .drain since →
      let n := s.now - since
      saves .slice ∧ stays .privileged ∧ (A ≤ n → exec (.drainAllowanceExpiry tm) s = .next (beginSave s tm)) ∧
      (n < A → exec (.drainAllowanceExpiry tm) s = .next s)) ∧
    ((T.pre = .flush ∨ T.pre = .noRoom) → stays .slice ∧ stays .privileged) ∧
    (T.pre = .save → ∀ src, stays src) ∧
    (T.image = none →
      (saveRoom s L.panel L.vd (largestImage s tm T) = none → (beginSave s tm).team? tm = some { T with pre := .noRoom }) ∧
      (∀ a, saveRoom s L.panel L.vd (largestImage s tm T) = some a → badPage s (panelCore s T.core).1 a (largestImage s tm T) .write = none →
        (beginSave s tm).team? tm = some { T with image := some a, pre := .save } ∧ stops (beginSave s tm) ∧
        (beginSave s tm).reserved = s.reserved ++ [{ vd := L.vd, panel := L.panel, team := tm, base := a, len := largestImage s tm T }] ∧
        (fld (descWord (s.vd L.panel L.vd) 2) 0 56 ≤ a ∧
          a + largestImage s tm T ≤ fld (descWord (s.vd L.panel L.vd) 2) 0 56 + 65536 * fld (descWord (s.vd L.panel L.vd) 3) 0 32) ∧
        ∀ r ∈ s.reserved, r.panel = L.panel → r.vd = L.vd → a + largestImage s tm T ≤ r.base ∨ r.base + r.len ≤ a)) ∧
    ((flushDue s tm = false → exec (.flushAndRestart tm) s = .next s) ∧
      (flushDue s tm = true → L.twin = false → ∃ t, exec (.flushAndRestart tm) s = .next t ∧ t.team? tm = none ∧ (∀ e ∈ t.gangs, e.2.team ≠ some tm) ∧
        t.mem = s.mem ∧ ∃ L', t.launch? T.launch = some L' ∧ T.cluster ∈ L'.again ∧ L'.dispatched = L.dispatched - 1 ∧
          (∀ q, findQueue s L.panel L.rcb L.queue = some q → ∃ q', findQueue t L.panel L.rcb L.queue = some q' ∧
            q'.launches = q.launches.filter (· < T.launch) ++ T.launch :: q.launches.filter (T.launch < ·)))) ∧
    (T.pre = .save →
      (saveStep s [tm] = none → exec (.save tm) s = .next s) ∧
      (saveStep s [tm] = some .loans → exec (.save tm) s = .next (revokeLoans s tm)) ∧
      (∀ a s1, saveStep s [tm] = some .remap → beginRemap s tm = (s1, none) → T.image = some a →
        ∃ T', exec (.save tm) s = .next s1 ∧ s1.team? tm = some T' ∧ T'.remap.isSome = true) ∧
      (∀ a s1, saveStep s [tm] = some .close → writeImage s tm = (s1, none) → T.image = some a →
        ∃ t, exec (.save tm) s = .next t ∧ t.team? tm = none ∧ (∀ e ∈ t.gangs, e.2.team ≠ some tm) ∧ t.mem = s1.mem ∧
          ∃ v ∈ t.saved, v.team = tm ∧ v.image = a ∧ v.body.saves = T.saves + 1 ∧ v.body.idx = T.idx)) ∧
    (T.pre = .noRoom → saveRoom s L.panel L.vd (largestImage s tm T) = none → T.image = none → exec (.save tm) s = .next s)) ∧
  (∀ (s : State) (image : Nat) (v : Saved), s.saved.find? (fun v => v.image == image && restoreDue s v) = some v → (∀ u ∈ s.saved, u.team = v.team → u = v) →
    (∀ u, tryRestore s none ((savedUnit s v).filterMap (fun u => restoringOf s u u.image)) = .ok u → exec (.restore image) s = .next u) ∧
    (∀ tm c d U, tryRestore s none ((savedUnit s v).filterMap (fun u => restoringOf s u u.image)) = .bad tm c d → U ∈ savedUnit s v → U.team = tm →
      (∀ u ∈ savedUnit s v, u.team = tm → u = U) → U.body.ended = none →
      ∃ t, exec (.restore image) s = .next t ∧ (∀ u ∈ savedUnit s v, ∀ x ∈ t.saved, x.team ≠ u.team) ∧ (t.team? tm).bind (·.ended) = some (c, d))) ∧
  (∀ (s u : State) (v : Restoring) (core : Nat) (places : List Nat), restoreTeam s v core = some (u, places) → core < 192 →
    ∃ T, u.team? v.team = some T ∧ T.core = core ∧ T.idx = v.body.idx ∧ T.launch = v.body.launch ∧ T.scratch = v.body.scratch ∧ T.pre = .none ∧
      T.resid = v.img.head s 5 ∧
      ∀ o, o < v.img.launch.scratch → u.mem.read (spadKey core (T.spadBase * 8192 + o)) =
        (sysByte s (sysCtx v.img.panel) (v.img.addr + imageHead (v.img.nrows s) + o)).1) ∧
  (∀ (s : State) (panel v since : Nat),
    let spent := sliceOver s panel = true
    let done := residents s panel = [] ∧ runnable s panel v = false
    let others := ∃ w, w < 16 ∧ w ≠ v ∧ runnable s panel w = true
    let leaders := (residents s panel).filter (fun t => (unitOf s t).all (fun u => t ≤ u))
    (tabFind s.slice panel = some (v, false, since) → spent ∨ done → others ∨ done →
      ∃ t, exec (.sliceEnd panel) s = .next t ∧ tabFind t.slice panel = some (v, true, s.mclock) ∧
        t.agenda = leaders.map (fun n => Agendum.event (.preemptionRequest n .slice)) ++ s.agenda ∧ t.teams = s.teams) ∧
    (tabFind s.slice panel = some (v, false, since) → spent → ¬ others → ¬ done →
      ∃ t, exec (.sliceEnd panel) s = .next t ∧ tabFind t.slice panel = some (v, false, s.mclock) ∧ t.agenda = s.agenda) ∧
    (tabFind s.slice panel = some (v, true, since) ∨ (tabFind s.slice panel = some (v, false, since) ∧ ¬ spent ∧ ¬ done) →
      exec (.sliceEnd panel) s = .next s) ∧
    (∀ n, tabFind s.slice panel = some (v, true, since) → residents s panel = [] → 1 ≤ n → n ≤ 16 → runnable s panel ((v + n) % 16) = true →
      (∀ i, 1 ≤ i → i < n → runnable s panel ((v + i) % 16) = false) →
      ∃ t, exec (.sliceStart panel) s = .next t ∧ tabFind t.slice panel = some ((v + n) % 16, false, s.mclock) ∧
        ∀ u ∈ t.saved, u.panel = panel → u.vd = (v + n) % 16 → u.byCtx = false) ∧
    (∀ w, tabFind s.slice panel = none → (residentVd s panel = some w ∨ (residents s panel = [] ∧ w < 16 ∧ runnable s panel w = true ∧
        ∀ i, i < w → runnable s panel i = false)) →
      ∃ t, exec (.sliceStart panel) s = .next t ∧ tabFind t.slice panel = some (w, false, s.mclock)) ∧
    (tabFind s.slice panel = some (v, true, since) → residents s panel ≠ [] → exec (.sliceStart panel) s = .next s)) ∧
  ∀ (s : State) (panel : Nat),
    let all := (s.gangs.filter (fun e => e.2.team.any (residents s panel).contains)).map (·.1)
    let now := stuck s all
    let before := tabGet [] s.deadPrev panel
    let s' := { s with deadPrev := tabSet s.deadPrev panel (agentsOf s now) }
    ((∀ g ∈ now, (agentsOf s [g]).all before.contains = false) → exec (.deadlockWalk panel) s = .next s') ∧
    (∀ tm T, s.team? tm = some T → T.ended = none → (s.gangs.map (·.1)).Nodup → (∀ e ∈ s.gangs, e.2.team = none ∨ e.2.team = some tm) →
      stuck s (now.filter (fun g => (agentsOf s [g]).all before.contains)) ≠ [] →
      ∃ t, exec (.deadlockWalk panel) s = .next t ∧ (t.team? tm).bind (·.ended) = some (50, 0) ∧ ∀ e ∈ t.gangs, e.2.team ≠ some tm)

/-- 23 R376 to R379, R383 to R387, 27 R411 to R423, and the model's own choices (log 36 to log 40, log 4, log 56, log 67). Descriptors are written whole, without their reserved bits, and not while
the panel has a team, and a spare gets what the vault held that it stands in for; meters take what has occurred to a team, and saturate; the mailbox's
commands answer in their buffer and with a result, refuse what is malformed, and do nothing before the module is ready. The host reaches the memory of
the panel that its function presents, where the decoder covers it; a peer what its window allows; a flit is taken in sequence and sound; a link that
goes down ends the teams of what it carried, with the line that was lost. A corrected error is counted, where a scrub finds it too. Functions become
ready after MGMT, the words and the accesses from outside that wait for one look again, and a twin's service gangs start. An error in a line of an L1
is fetched again where the line is clean, and stands poisoned in it where it is dirty. The model's choices: a panel's decoder begins at its memory's
address 0 (log 38); the place of T_L in the reply (log 67); the detail that a lost request gives (log 40); a cold reset keeps the memory of the host
and of the peers (log 56), and gives all else the values that memory and registers hold at reset (log 4). -/
def Obligations.ManagementAndOutsideEvents : Prop :=
  (∀ (s : State) (panel vd : Nat) (d : List (BitVec 64)), panel < 16 → vd < 16 →
    (panelBusy s panel = true → exec (.panelDescriptorWrite panel d) s = .next s) ∧
    (∀ p e, p ≠ panel → (p, e) ∈ s.panels → bit (descWord e 0) 63 = true → bit (descWord d 0) 63 = true → fld (descWord e 0) 40 12 &&& fld (descWord d 0) 40 12 ≠ 0 →
      exec (.panelDescriptorWrite panel d) s = .next s) ∧
    (panelBusy s panel = false → panelOk s panel (maskWords panelMasks d) = true → ∃ t, exec (.panelDescriptorWrite panel d) s = .next t ∧
      (∀ i, i < 8 → descWord (t.panel panel) i = descWord d i &&& (panelMasks[i]?).getD 0) ∧ (∀ p, p ≠ panel → t.panel p = s.panel p) ∧
      (newSpares s panel (maskWords panelMasks d) = [] → t.mem = s.mem) ∧
      ∀ old new, newSpares s panel (maskWords panelMasks d) = [(old, new)] → s.memOk →
        (∀ e ∈ s.cores, ∀ l ∈ e.2.l1, inVault old (l.line * 128) = false ∧ inVault new (l.line * 128) = false) →
        ∀ k, t.mem.read k = if inVault new k then s.mem.read (memKey 1 (old * 2 ^ 28 + keyAddr k % 2 ^ 28)) else s.mem.read k) ∧
    (∃ t, exec (.virtualDeviceDescriptorWrite panel vd d) s = .next t ∧
      (∀ i, i < 8 → descWord (t.vd panel vd) i = descWord d i &&& (vdMasks[i]?).getD 0) ∧
      ∀ p v, v < 16 → (p, v) ≠ (panel, vd) → t.vd p v = s.vd p v)) ∧
  (∀ (s : State) (tm n id amount : Nat) (T : Team) (l : List Nat), s.teamBody tm = some T → tabFind s.meters T.eff.meter = some l → n < 9 → l.length = 9 →
    (∀ x ∈ l, x < 2 ^ 64) → (∀ u, tabFind s.used T.eff.meter = some u → u.length = 9) → (s.tiles.map (·.1)).Nodup →
    let tiles := (tilesHeldBy s tm).filter (fun x => (if isExtent x then 2 else 1) == n && (s.tile x).passing != some .release)
    let owed := if n = 0 then chargeOf s T - T.metered else (tiles.map (fun x => s.mclock - (s.tile x).since)).sum
    let used := (((tabFind s.used T.eff.meter).getD (List.replicate 9 0))[n]?).getD 0
    (∃ t l', exec (.meterAccrual tm n amount) s = .next t ∧ tabFind t.meters T.eff.meter = some l' ∧
      l'[n]? = some (min ((l[n]?).getD 0 + min amount (used + owed)) (2 ^ 64 - 1)) ∧ usedOf t T.eff.meter n = used + owed - min amount (used + owed) ∧ (∀ i, i ≠ n → l'[i]? = l[i]?) ∧ ∀ k, k ≠ T.eff.meter → tabFind t.meters k = tabFind s.meters k) ∧
    (tabFind s.meters id = none → ∃ t, exec (.meterIdentityRegister id true) s = .next t ∧ tabFind t.meters id = some (List.replicate 9 0)) ∧
    ((tabFind s.meters id).isSome = true → exec (.meterIdentityRegister id true) s = .next s) ∧
    (∃ t, exec (.meterIdentityRegister id false) s = .next t ∧ tabFind t.meters id = none ∧ ∀ k, k ≠ id → tabFind t.meters k = tabFind s.meters k)) ∧
  (∀ (s : State) (buf : Nat),
    let host := fun (t : State) a n => t.mem.readN (memKey 4 a) n
    let panel := host s buf 4
    let on := bit (descWord (s.panel panel) 0) 63
    let done := fun (t : State) r => t.mailbox.busy = false ∧ t.mailbox.result = r
    let ready := s.ready.mgmt = true ∧ s.ready.cxl = true
    let clean := fun (t : State) p => ∀ c, (tabFind s.cores c).isSome = true → (panelCore s c).1 = p → linesSent s c = true → ∀ ln ∈ (t.core c).l1, ln.dirty = 0
    (s.mailbox.busy = true ∨ ¬ ready → ∀ i ∈ [Instr.usageReport buf, .errorCounters buf, .readiness buf], exec i s = .next s) ∧
    (s.mailbox.busy = false → ¬ ready → exec (.secondStageInvalidation buf) s = .next s) ∧
    (s.mailbox.busy = true → s.mailbox.cmd = 4 →
      (stillUnder s s.mailbox.waits ≠ [] → exec (.secondStageInvalidation buf) s = .next s) ∧
      (stillUnder s s.mailbox.waits = [] → ∃ t, exec (.secondStageInvalidation buf) s = .next t ∧ done t 0 ∧ clean t s.mailbox.panel)) ∧
    (s.mailbox.busy = false → ready → (buf % 4096 ≠ 0 ∨ 2 ^ 56 ≤ buf) →
      ∀ i ∈ [Instr.usageReport buf, .errorCounters buf, .readiness buf, .secondStageInvalidation buf], ∃ t, exec i s = .next t ∧ done t 1 ∧ t.mem = s.mem) ∧
    (s.mailbox.busy = false → ready → buf % 4096 = 0 → buf < 2 ^ 56 →
      (on = false ∨ (256 < host s (buf + 4) 4 ∧ host s (buf + 4) 4 ≠ 2 ^ 32 - 1) → ∃ t, exec (.usageReport buf) s = .next t ∧ done t 1 ∧ t.report = s.report ∧ t.mem = s.mem) ∧
      (∀ l, on = true → host s (buf + 4) 4 = 1 → tabFind s.meters (host s (buf + 64) 8) = some l → ∃ t, exec (.usageReport buf) s = .next t ∧ done t 0 ∧
        t.report = s.report + 1 ∧ t.meters = s.meters ∧
        let body := reportBody s panel (s.mem.readBytes (memKey 4 (buf + 8)) 32) [host s (buf + 64) 8]
        body.length = 208 ∧ t.mem.readBytes (memKey 4 buf) 208 = body ∧ host t (buf + 8) 8 = (s.report + 1) % 2 ^ 64 ∧
        (∀ n, n < 9 → host t (buf + 136 + 8 * n) 8 = (l[n]?).getD 0 % 2 ^ 64) ∧
        ∀ i, i < 29792 → t.mem.read (memKey 4 (buf + 208 + i)) = Config.signatureByte body i) ∧
      (∃ t, exec (.errorCounters buf) s = .next t ∧ done t 0 ∧ t.errors = [] ∧
        ∀ i u c, s.errors[i]? = some (u, c) → host t (buf + 8 + 16 * i) 8 = u % 2 ^ 64 ∧ host t (buf + 16 + 16 * i) 8 = c % 2 ^ 64) ∧
      (∃ t, exec (.readiness buf) s = .next t ∧ done t 0 ∧
        let n := host t buf 64
        bit n 0 = s.ready.mgmt ∧ bit n 1 = s.ready.cxl ∧ (∀ i, i < 12 → bit n (2 + i) = s.ready.purl.getLsbD i ∧ bit n (14 + i) = s.ready.lpg.getLsbD i) ∧
        (∀ i, i < 96 → bit n (26 + i) = s.ready.twins.getLsbD i) ∧ (∀ i, i < 384 → bit n (122 + i) = s.ready.vlayers.getLsbD i) ∧
        ∀ g, g < 12 → host t (buf + 64 + 8 * g) 8 = tabGet 0 s.train g % 2 ^ 64) ∧
      (on = false ∨ 2 ≤ host s (buf + 4) 4 ∨ host s (buf + 8) 8 % 4096 ≠ 0 ∨ (host s (buf + 4) 4 = 1 ∧ host s (buf + 8) 8 ≠ 0) →
        ∃ t, exec (.secondStageInvalidation buf) s = .next t ∧ done t 1 ∧ t.cores = s.cores) ∧
      (on = true → host s (buf + 4) 4 < 2 → host s (buf + 8) 8 % 4096 = 0 → (host s (buf + 4) 4 = 1 → host s (buf + 8) 8 = 0) → host s (buf + 16) 16 = 0 →
        ∃ t, exec (.secondStageInvalidation buf) s = .next t ∧
          (∀ c e, e ∈ (t.core c).tlb ↔ e ∈ (s.core c).tlb ∧ ¬ (e.ctx / 17 = panel ∧ ¬ (e.space = 1 ∧ ctxResident s e.ctx = true) ∧
            (host s (buf + 4) 4 = 0 → host s (buf + 8) 8 / e.size2 = e.ipa / e.size2))) ∧
          (panelUnder s panel = [] → done t 0 ∧ clean t panel) ∧ (panelUnder s panel ≠ [] → t.mailbox.busy = true ∧ t.mailbox.panel = panel)))) ∧
  (∀ (s : State) (vf p a base len src lo hi : Nat) (d : List Word64) (bs : List Byte), s.poison = [] →
    let wrote := fun (t : State) k => (∀ i, i < bs.length → t.mem.read (k + i) = (bs[i]?).getD 0) ∧
      ∀ j, (j < k ∨ k + bs.length ≤ j) → t.mem.read j = s.mem.read j
    let here := devKey p (a - base)
    let covers := fun n => base ≤ a ∧ a + n ≤ base + len
    (s.ready.cxl = false → ∀ q, exec (.hostCxlMemAccess vf q) s = .next s) ∧
    (s.ready.cxl = true → (∀ e ∈ s.panels, bit (descWord e.2 0) 63 = true → fld (descWord e.2 0) 27 5 ≠ vf) →
      ∀ q, exec (.hostCxlMemAccess vf q) s = .next { s with reply := .unsupported }) ∧
    (s.ready.cxl = true → s.panels.find? (fun e => bit (descWord e.2 0) 63 && fld (descWord e.2 0) 27 5 == vf) = some (p, d) →
      tabFind s.hdm p = some (base, len) →
      let goes := fun q => extWaits s (.hostCxlMemAccess vf q) here (extBytes q) = false
      (∀ q, extAddr q = a → covers (extBytes q) → ¬ goes q →
        exec (.hostCxlMemAccess vf q) s = .next { s with waiting := s.waiting ++ [.hostCxlMemAccess vf q] }) ∧
      (covers bs.length → goes (.write a bs) → ∃ t, exec (.hostCxlMemAccess vf (.write a bs)) s = .next t ∧ wrote t here ∧ t.reply = .none) ∧
      (¬ covers bs.length → exec (.hostCxlMemAccess vf (.write a bs)) s = .next { s with reply := .unsupported }) ∧
      (∀ n, covers n → goes (.read a n) → ∃ t, exec (.hostCxlMemAccess vf (.read a n)) s = .next t ∧ t.mem = s.mem ∧ t.reply = .data (s.mem.readBytes here n) ∧
        ∀ i, i < n → lineOf (here + i) ∈ t.hostLines) ∧
      (∀ n, ¬ covers n → exec (.hostCxlMemAccess vf (.read a n)) s = .next { s with reply := .unsupported }) ∧
      ∀ aop ty x cmp n, ty.bits = 8 * n → covers n → goes (.atomic aop ty a x cmp) → ∃ t, exec (.hostCxlMemAccess vf (.atomic aop ty a x cmp)) s = .next t ∧
        t.reply = .data (s.mem.readBytes here n) ∧ t.mem.readN here n = (atomOp aop ty (s.mem.readN here n) x cmp).v % 2 ^ (8 * n)) ∧
    (tabFind s.windows src = some (lo, hi) →
      let key := if bit a 43 then memKey 1 (a % 2 ^ 43) else devKey (Config.peerPanel src % 16) (a % 2 ^ 43)
      let goes := fun q => extWaits s (.peerRequest src q) key (extBytes q) = false
      (∀ q, extAddr q = a → lo ≤ a → a + extBytes q ≤ hi → ¬ goes q →
        exec (.peerRequest src q) s = .next { s with waiting := s.waiting ++ [.peerRequest src q] }) ∧
      (lo ≤ a → a + bs.length ≤ hi → goes (.write a bs) → ∃ t, exec (.peerRequest src (.write a bs)) s = .next t ∧ wrote t key) ∧
      (a < lo ∨ hi < a + bs.length → exec (.peerRequest src (.write a bs)) s = .next s) ∧
      (∀ aop ty x cmp n, ty.bits = 8 * n → lo ≤ a → a + n ≤ hi → goes (.atomic aop ty a x cmp) → ∃ t, exec (.peerRequest src (.atomic aop ty a x cmp)) s = .next t ∧
        t.mem.readN key n = (atomOp aop ty (s.mem.readN key n) x cmp).v % 2 ^ (8 * n) ∧ ∀ j, (j < key ∨ key + n ≤ j) → t.mem.read j = s.mem.read j)) ∧
    (∀ link seq crc q, let l := s.link link
      (l.up = true ∧ crc = true ∧ seq = l.seq → ∃ t, exec (.purlFlitReceive link seq crc src q) s = .next t ∧ t.link link = { l with seq := l.seq + 1 } ∧
        t.mem = (peerPerform s src q).mem) ∧
      (¬ (l.up = true ∧ crc = true ∧ seq = l.seq) → exec (.purlFlitReceive link seq crc src q) s = .next s)) ∧
    (∀ vault, (tabFind s.latent vault = none → exec (.patrolScrub vault) s = .next s) ∧
      ∀ n, tabFind s.latent vault = some n → ∃ t, exec (.patrolScrub vault) s = .next t ∧ tabFind t.latent vault = none ∧ t.mem = s.mem ∧
        tabGet 0 t.errors vault = tabGet 0 s.errors vault + n ∧ ∀ u, u ≠ vault → tabGet 0 t.errors u = tabGet 0 s.errors u) ∧
    (∀ rest unit, s.agenda = .error (.fixed unit) :: rest → ∃ t, step s = .next t ∧ tabGet 0 t.errors unit = tabGet 0 s.errors unit + 1 ∧ t.mem = s.mem) ∧
    ∀ rest core key ln, s.agenda = .error (.line core key) :: rest → findLine (s.core core) (lineOf key) = some ln →
      ∃ t ln', step s = .next t ∧ t.mem = s.mem ∧ findLine (t.core core) (lineOf key) = some ln' ∧ ln'.data = ln.data ∧ ln'.dirty = ln.dirty ∧
        ∀ i, i < 128 → let hurt := i / 8 = key % 128 / 8
          ln'.valid.getLsbD i = (ln.valid.getLsbD i && !(decide hurt && ln.dirty == 0)) ∧
          ln'.bad.getLsbD i = (ln.bad.getLsbD i || (decide hurt && ln.dirty != 0 && ln.valid.getLsbD i))) ∧
  (∀ (s : State) (link : Nat), link < 12 →
    ((s.link link).up = false → exec (.linkDown link) s = .next s) ∧
    ((s.link link).up = true → ∃ t, exec (.linkDown link) s = .next t ∧ (t.link link).up = false ∧ t.ready.purl.getLsbD link = false ∧ t.mem = s.mem ∧
      ∀ d ∈ s.reds, onLink link d = true → d ∉ t.reds ∧ ∀ tm, d.owner = some tm → (∃ x, Agendum.event (.poisonConsumed tm x) ∈ t.agenda) ∧
        (s.reds = [d] → doomed s (some tm) = false → t.agenda = .event (.poisonConsumed tm (keyPa (d.key / 128 * 128))) :: s.agenda))) ∧
  ∀ (s : State),
    (∃ t, exec (.functionReady .mgmt) s = .next t ∧ t.ready.mgmt = true) ∧
    (∀ n, n < 96 → s.ready.mgmt = true → s.ready.twins.getLsbD n = false → ∃ t, exec (.functionReady (.twin n)) s = .next t ∧ t.ready.twins.getLsbD n = true ∧
      ∀ c, c = 2 * n ∨ c = 2 * n + 1 → (t.core c).clock = 0 ∧ (t.gang (64 * c + 63)).a.wait = .idle ∧
        (t.gang (64 * c + 63)).a.entry = (s.core c).svec.toNat ∧ (t.gang (64 * c + 63)).a.mask = 0xFFFFFFFF#64) ∧
    (∀ f, f ≠ .mgmt → s.ready.mgmt = false → exec (.functionReady f) s = .next (lookAgain s)) ∧
    (∀ f, ∃ t, exec (.functionReady f) s = .next t ∧ t.waiting = [] ∧ t.agenda = s.waiting.map Agendum.event ++ s.agenda ∧ t.mem = s.mem) ∧
    (∀ n, n < 12 → s.ready.mgmt = true → ∃ t, exec (.functionReady (.lpgroup n)) s = .next t ∧ t.ready.lpg.getLsbD n = true) ∧
    (∀ w n, w < 96 → n < 4 → s.ready.mgmt = true → ∃ t, exec (.functionReady (.vlayer w n)) s = .next t ∧ t.ready.vlayers.getLsbD (4 * w + n) = true) ∧
    (s.ready.mgmt = true → ∃ t, exec (.functionReady .cxl) s = .next t ∧ t.ready.cxl = true) ∧
    (∀ n, n < 12 → s.ready.mgmt = true → ∃ t, exec (.functionReady (.purl n)) s = .next t ∧ (t.link n).up = true ∧ t.ready.purl.getLsbD n = true) ∧
    (∃ t, exec .throttleStart s = .next t ∧ t.throttled = true ∧ t.mem = s.mem) ∧ (∃ t, exec .throttleStop s = .next t ∧ t.throttled = false ∧ t.mem = s.mem) ∧
    ∃ t, exec .coldReset s = .next t ∧ t.gangs = [] ∧ t.teams = [] ∧ t.launches = [] ∧ t.ready = State.reset.ready ∧ t.cores = [] ∧ t.epoch = s.epoch + 1 ∧
      ∀ k, t.mem.read k = if keyRegion k = 3 ∨ keyRegion k = 4 then s.mem.read k else unlisted k

/-! ## Registers, memory and reset -/

/-- 03 R59. Stitch a + i of an operand holds bits [4i + 3:4i] of the operand's value; stitch 8n + j holds bits [4j + 3:4j] of row n; a value is the
concatenation of its stitches, the lowest-numbered on the right. -/
def Obligations.StitchesHoldTheValue : Prop :=
  ∀ L : Lane,
    (∀ (o : Opnd) (i : Nat), i < o.w.stitches → fld (L.rd o) (4 * i) 4 = L.stitch (o.start + i)) ∧
    (∀ n j, j < 8 → fld (L.row n).toNat (4 * j) 4 = L.stitch (8 * n + j)) ∧
    ∀ o : Opnd, L.rd o = (List.range o.w.stitches).foldr (fun i v => L.stitch (o.start + i) + 16 * v) 0

/-- 03 R57, R62, R71, R76, 01 R9. A write of stitches is read back, keeps every other stitch, the predicates and the flags, and takes the poison off the
rows that it covers whole and no other; a write of a predicate changes that one alone, and none to p0, which reads as true; flags are
raised and never lowered by raising others. -/
def Obligations.RegisterWritesKeepTheRest : Prop :=
  ∀ (L : Lane) (a n v : Nat), a + n ≤ 1024 →
    (L.wr a n v).rdAt a n = v % 2 ^ (4 * n) ∧
    (∀ i, i < a ∨ a + n ≤ i → (L.wr a n v).stitch i = L.stitch i) ∧
    (L.wr a n v).preds = L.preds ∧ (L.wr a n v).fpsr = L.fpsr ∧
    (∀ r, r < 128 → (L.wr a n v).poison.getLsbD r = (L.poison.getLsbD r && !(decide (a ≤ 8 * r) && decide (8 * r + 8 ≤ a + n)))) ∧
    (∀ p b q, p < 32 → q < 32 → (L.setPred p b).pred q = (if q = p ∧ p ≠ 0 then b else L.pred q) ∧ (L.setPred p b).st = L.st ∧
      (L.setPred p b).fpsr = L.fpsr ∧ L.pred 0 = true) ∧
    (∀ f i, i < 32 → (L.raise f).fpsr.getLsbD i = (L.fpsr.getLsbD i || bit f i))

/-- 00 R2; the form is the model's (log 3). Memories of the canonical form that read alike at every key are equal; a value written at a key is read back,
little-endian, and the bytes around it are kept. -/
def Obligations.MemoryHasOneForm : Prop :=
  (∀ m m' : Memory, m.wf = true → m'.wf = true → (∀ k, m.read k = m'.read k) → m = m') ∧
  (∀ (m : Memory) (k n v : Nat), (m.writeN k n v).readN k n = v % 256 ^ n ∧
    (∀ i, i < n → (m.writeN k n v).read (k + i) = BitVec.ofNat 8 (v / 256 ^ i)) ∧
    ∀ j, j < k ∨ k + n ≤ j → (m.writeN k n v).read j = m.read j) ∧
  ∀ (m : Memory) (k : Nat) (b : Byte), m.wf = true → m.read k = b → m.write k b = m

/-- 18 R315, R316, 11 R237, 12 R256, 27 R421, and the model's own values (log 4, log 5). After cold reset the control registers that the spec names are zero,
no function is ready (the management core, CXL, the 12 links, the 12 channel groups, the 96 twins, the 384 vault layers), no gang, team or launch is resident, no tile has been held; memory has its canonical form, a scale byte of a macro reads
0x7F and every other byte zero, and no core holds a line. -/
def Obligations.ResetState : Prop :=
  State.reset.memOk ∧ (∀ core, tidyL1 State.reset core) ∧
  (∀ c, let C := State.reset.core c
    C.tvec = 0 ∧ C.tframe = 0 ∧ C.sbase = 0 ∧ C.slim = 0 ∧ C.svec = 0 ∧ C.svcerr = 0 ∧ C.period = 0 ∧ C.miss = 0 ∧ C.clock = 0 ∧ C.dbg = 0 ∧
      C.dbgobj = 0 ∧ C.l1 = [] ∧ C.cc = []) ∧
  (∀ k, State.reset.mem.read k = if keyRegion k = 7 then 0x7F else 0) ∧
  State.reset.ready.mgmt = false ∧ State.reset.ready.cxl = false ∧ State.reset.ready.purl = 0 ∧ State.reset.ready.lpg = 0 ∧ State.reset.ready.twins = 0 ∧
  State.reset.ready.vlayers = 0 ∧ (∀ n, (State.reset.link n).up = false) ∧ State.reset.gangs = [] ∧ State.reset.teams = [] ∧ State.reset.launches = [] ∧
  ∀ t, (State.reset.tile t).holder = none ∧ (State.reset.tile t).last = none

/-- The model's memory keeps its canonical form (log 3): whatever a step does, from every state. -/
def Obligations.StepsKeepTheMemoryForm : Prop :=
  ∀ s t : State, s.memOk → step s = .next t → t.memOk

/-! ## Words -/

/-- 07 R144 to R159, and the encoding tables of 08 to 13 and 18. Words written out from the spec's encodings decode to the instructions that they
stand for, and words with reserved values to none. -/
def Obligations.DecodedWords : Prop :=
  let hd : Hd := { sw := false, neg := false, pg := 0 }
  (∀ p ∈ ([
      (0x1000021400A002B0, Instr.addi ⟨hd, ⟨16, .w8⟩, ⟨0, .w8⟩, 1, .n32, false⟩),
      (0x10E0000400A018B2, .cmpi ⟨hd, 1, ⟨0, .w8⟩, 12, .n32, .lt⟩),
      (0x0920031408A08558, .mul ⟨hd, ⟨24, .w8⟩, ⟨8, .w8⟩, ⟨16, .w8⟩, .n32, false⟩),
      (0x0BA0011400200001, .mov ⟨hd, ⟨8, .w8⟩, .special 1, .none, false⟩),
      (0x8140000000810000 + 2 ^ 64 * 0x07C000001400000D, .jsel ⟨true, ⟨false, 1⟩, 2, 10, 13⟩),
      (0x8120000001C00000, .jmp ⟨true, 7⟩),
      (0x0040000000820000, .grd ⟨hd, ⟨false, 2⟩, 2⟩),
      (0x3120011400A00B90, .cvti ⟨hd, ⟨8, .w8⟩, ⟨0, .w8⟩, .f32, .n32, .rne, false⟩),
      (0x4880021800A0801A, .sts ⟨hd, ⟨16, .w16⟩, ⟨0, .w8⟩, 1, 0, .n64, false⟩),
      (0x5600011400A08016, .reds ⟨hd, .add, ⟨8, .w8⟩, ⟨0, .w8⟩, 1, 0, .n32⟩),
      (0x57E0000000000070, .fence ⟨hd, .d, .rel⟩),
      (0x5820101141800000, .mma ⟨hd, 8, 2, 10, .team 3, false⟩),
      (0x5800181142000300, .charge ⟨hd, 12, 2, 10, .team 4, true, true⟩),
      (0x6000083101000000, .cpy ⟨hd, 4, 6, 8, .team 2⟩),
      (0x6080860000000000, .bseal ⟨⟨false, false, 1⟩, 3⟩),
      (0x6160000008800000, .cbar ⟨hd, 1⟩),
      (0x6800145800081C00, .spawn ⟨hd, 10, ⟨64, .w32⟩, 11⟩),
      (0x6820082860011580, .claim ⟨hd, ⟨8, .w8⟩, 3, 5, 4, .neg, true⟩),
      (0xE920000000090000, .cosumm ⟨true, 9⟩),
      (0x7000800000000700, .trapi ⟨⟨false, false, 1⟩, 7⟩),
      (0x7040021800C00000, .ctlr ⟨hd, ⟨16, .w16⟩, .tframe⟩),
      (0x7060000011C10000, .resumeWrite ⟨hd, 1⟩),
      (0xF020000000000000, .eret ⟨true⟩)] : List (Nat × Instr)), decodeTableWord 64 p.1 = some p.2) ∧
  decodeTableWord 64 0 = none ∧ decodeTableWord 64 0x0060000000000001 = none

/-- 07 R144 to R158. Every well-formed instruction that has words is the instruction that its words decode to, whatever follows them. -/
def Obligations.DecodingEncodedWordsGivesThemBack : Prop :=
  ∀ (i : Instr) (ws rest : List Nat), i.wf = true → encode i = some ws → decode (ws ++ rest) = .ok (i, rest)

/-- 04 R78, R79, 07 R159, 19 R345. A step in which a scheduler selects a slot runs the word at which the slot stands: its header once its trace is taken,
or the instruction that the word decodes to; a word that has no place there is a trace-limit trap, and one that decodes to nothing an illegal
instruction. A scheduler selects one word in a cycle, and of the words that the schedulers of a twin select the first in the model's order of turns (log 70)
issues first; a header waits where the module cannot yet fetch it (27 R421), and until its trace, which is then in the trace cache, has arrived. An event of the agenda takes place as
its row; where nothing is due and nothing issues, a cycle passes. What comes first of what is due is log 1. -/
def Obligations.StepsRunTheDecodedWord : Prop :=
  ∀ (s : State),
    (∀ (c k : Nat) (rest : List Agendum), s.agenda = .issue c k :: rest →
      (∀ r, twinIssue { s with agenda := rest } (c / 2) = some r → ¬ (coreOf r.gang = c ∧ schedOf r.gang = k)) → step s = .next { s with agenda := rest }) ∧
    (∀ (twin : Nat) (r : SlotRef), twinIssue s twin = some r → coreOf r.gang / 2 = twin ∧ schedTaken (s.core (coreOf r.gang)) (schedOf r.gang) = false ∧
      selectSlot s (coreOf r.gang) (schedOf r.gang) = some r ∧
      ∀ c k r', c / 2 = twin → k < 4 → schedTaken (s.core c) k = false → selectSlot s c k = some r' → turnOf s r ≤ turnOf s r') ∧
    (∀ (c k : Nat) (rest : List Agendum) (r : SlotRef), s.agenda = .issue c k :: rest → twinIssue { s with agenda := rest } (c / 2) = some r →
      coreOf r.gang = c → schedOf r.gang = k →
      let u := { s with agenda := rest, cur := r }
      (∀ R i, (s.slot r).run = some R →
        let w := ((R.words[R.pos]?).getD 0).toNat
        let placed := if R.pos < R.hdr.len then opIsHeader (opOf w) = false ∧ opIsTerm (opOf w) = false else opIsTerm (opOf w) = true
        (placed → decodeWord w ((R.words[R.pos + 1]?).getD 0).toNat = some i → step s = exec i u) ∧
        (placed → opOf w ≠ 0x00A → decodeWord w ((R.words[R.pos + 1]?).getD 0).toNat = none → step s = .next (atIssue u r R 1)) ∧
        (¬ placed → step s = .next (atIssue u r R 3))) ∧
      ((s.slot r).run = none → fetchUnready u r = true → step s = .next (u.setWait r .unready)) ∧
      ((s.slot r).run = none → fetchUnready u r = false →
        (∀ u' h ws, fetchTrace u r = (u', .inr (h, ws)) →
          let held := fun (t : State) => cachedTrace t (coreOf r.gang) (gangCtx t r).1 (t.slot r).entry
          (∀ e, held u' = some e → (e.ready ≤ u'.now → step s = exec (.trace h) u') ∧
            (u'.now < e.ready → step s = .next (u'.setSlot r ((u'.slot r).heldTill e.ready 9)))) ∧
          (held u' = none → ∃ t e, step s = .next t ∧ held t = some e ∧ e.words = BitVec.ofNat 64 h.word :: ws ∧ u'.now ≤ e.ready ∧ t.mem = u'.mem ∧
            (t.slot r).run = none)) ∧
        (∀ u' cause d, fetchTrace u r = (u', .inl (cause, d)) → step s = .next (entryTrap u' r cause noOrd d)))) ∧
    (∀ i rest, s.agenda = .event i :: rest → step s = exec i { s with agenda := rest }) ∧
    (∀ i, s.agenda = [] → nextEvent s = some i → step s = exec i s) ∧
    (s.agenda = [] → nextEvent s = none → nextIssue s = none → step s = .next (cycleAll s)) ∧
    (∀ r R i, s.agenda = [] → nextEvent s = none → nextIssue s = some r → (s.slot r).run = some R →
      R.pos < R.hdr.len → opIsHeader (opOf ((R.words[R.pos]?).getD 0).toNat) = false → opIsTerm (opOf ((R.words[R.pos]?).getD 0).toNat) = false →
      decodeWord ((R.words[R.pos]?).getD 0).toNat ((R.words[R.pos + 1]?).getD 0).toNat = some i → step s = exec i { s with cur := r })

/-- 07 R159, 01 R17, 18 R309, 03 R56, 04 R79, R87, R97. The checks of a body word, in their order, and what a trap at issue leaves: the slot stands trapped at
its entry, nothing of the word has happened, and in a guarded trace every lane is as before the trace; in a plain trace the results on their way return
first (03 R67). A word that names an overflow row waits for its fill (03 R70); one that reads a poisoned row ends its team (03 R57). A system word in
user mode is an illegal instruction. -/
def Obligations.WordsAreCheckedAtIssue : Prop :=
  (∀ (w : WordInfo) (eff : State → SlotRef → Run → Mask → Eff) (s : State) (R : Run) (cause : Nat),
    let X := s.slot s.cur
    let G := s.gang s.cur.gang
    let low := R.hdr.guarded && w.noGuard
    let bad := !(w.ok && (w.srcs ++ w.dsts).all (opndOk (stitchLimit s s.cur)))
    let fails := (cause = 1 ∧ (w.allowed s s.cur = false ∨ low = true)) ∨ (cause = 2 ∧ w.allowed s s.cur = true ∧ low = false ∧ bad = true) ∨
      (cause = 3 ∧ w.allowed s s.cur = true ∧ low = false ∧ bad = false ∧ w.within R = false)
    liveRun s s.cur = some R → overBound G 1 = false →
    (fails → R.hdr.guarded = false → returned s R = false →
      ∃ t, bodyWord w eff s = .next t ∧ t.slot s.cur = { X with wait := .trapping cause (R.pos + 1) } ∧ t.rest = s.rest ∧
        ∀ l, l < 64 → (t.gang s.cur.gang).lane l = s.here l) ∧
    (w.allowed s s.cur = true → low = false → bad = false → w.within R = true →
      (∀ n, missingRow s s.cur.gang (w.srcs ++ w.dsts) = some n → bodyWord w eff s = .next (s.setWait s.cur (.fill n))) ∧
      (missingRow s s.cur.gang (w.srcs ++ w.dsts) = none → readsPoison G (w.readers (participants s s.cur R w.hd w.memory)) w.srcs = true →
        (∀ tm, G.team = some tm → bodyWord w eff s = .next (s.before (.poisonConsumed tm 0))) ∧
        (G.team = none → bodyWord w eff s = .next (atIssue s s.cur R 48)))) ∧
    (fails → (R.hdr.guarded = true ∨ returned s R = true) → isSvc s.cur.gang = false → G.co = none → G.rebuild = none → X.hnd = none →
    ∃ t, bodyWord w eff s = .next t ∧ t.mem = s.mem ∧
      t.slot s.cur = { X with run := none, pair := false, wait := .trapped {
        cause, ord := R.hdr.ord, off := R.pos + 1, kept := R.hdr.guarded || decide (min (R.pos + 1) (R.hdr.len + 1) ≤ 1), code := 0, detail := 0,
        resume := X.entry } } ∧
      (R.hdr.guarded = true → ∀ l, l < 64 → (t.gang s.cur.gang).lane l = if Mask.has X.mask l then restoreLane R l (s.here l) else s.here l) ∧
      (R.hdr.guarded = false → R.pends = [] → ∀ l, l < 64 → (t.gang s.cur.gang).lane l = s.here l))) ∧
  ∀ (s : State) (R : Run) (hd : Hd) (d : Opnd) (k n : Nat) (all : Bool) (cr : Cr),
    liveRun s s.cur = some R → overBound (s.gang s.cur.gang) 1 = false → sysMode s s.cur = false →
    ∀ i ∈ [Instr.ctlr ⟨hd, d, cr⟩, .ctlw ⟨hd, cr, k⟩, .timerWrite ⟨hd, k⟩, .rflagClear ⟨hd, k⟩, .resumeWrite ⟨hd, k⟩, .tlbi ⟨hd, k, all⟩,
           .tlbsync ⟨hd⟩, .icinv ⟨hd, k, all⟩, .sample ⟨hd, d, k⟩, .meterr ⟨hd, d, k, n⟩, .ctxsv ⟨hd, d, k⟩, .ctxld ⟨hd, d, k⟩, .idle ⟨hd⟩],
      exec i s = .next (atIssue s s.cur R 1)

/-- 08 R169. LOOP takes one from its register modulo 2^64, once for the gang each time it issues, and branches back where the register has not become zero: a
LOOP that issues with zero leaves 2^64 - 1 and branches back; the decrement is a uniform write that restoring lanes does not undo. -/
def Obligations.LoopsCountDown : Prop :=
  (∀ (x : LoopOp) (s : State) (R : Run), x.k < 64 → TermIssues { TermInfo.plain with withWatch := true } s R →
    let k := (kreg s s.cur x.k + (2 ^ 64 - 1)) % 2 ^ 64
    ∃ t R', exec (.loop x) s = .next t ∧ kreg t s.cur x.k = k ∧ (∀ i, i < 64 → i ≠ x.k → kreg t s.cur i = kreg s s.cur i) ∧
      (t.slot s.cur).run = some R' ∧ R'.term = some (if k = 0 then .next else .jmp x.off, R.pos + 1)) ∧
  (∀ (s : State) (r : SlotRef) (R : Run) (x : Term) (off : Nat), Ends s r R x off → (s.gang r.gang).stack = [] →
    (∀ o, x = .jmp o → ∃ t, exec (.traceResolution r) s = .next t ∧ (t.slot r).entry = pcAdd (pcAdd (s.slot r).entry off) o) ∧
    (x = .next → ∃ t, exec (.traceResolution r) s = .next t ∧ (t.slot r).entry = pcAdd (pcAdd (s.slot r).entry off) 1)) ∧
  ∀ (s : State) (r : SlotRef) (R : Run) (m : Mask) (k : Nat), kreg (restoreLanes s r R m) r k = kreg s r k
end

