-- ==== Sys2Proof/Laws/Enc.lean ====
section
/-! SUPPORT. Fields of concatenated fields: what the decoder reads from a word that the encoder wrote. -/

set_option Elab.async false

namespace Sys2Proof

theorem cat_zero (n : Nat) : cat n 0 0 = 0 := by simp [cat]

theorem fld_head {n v r : Nat} (h : v < 2 ^ n) : fld (cat n v r) 0 n = v := by
  simp [fld, cat, Nat.add_mul_mod_self_left, Nat.mod_eq_of_lt h]

theorem fld_skip {n v r lo m : Nat} (h : v < 2 ^ n) (hn : n ≤ lo) : fld (cat n v r) lo m = fld r (lo - n) m := by
  unfold fld cat
  congr 1
  obtain ⟨k, rfl⟩ := Nat.exists_eq_add_of_le hn
  rw [Nat.pow_add, ← Nat.div_div_eq_div_mul, Nat.add_mul_div_left _ _ (Nat.two_pow_pos n), Nat.div_eq_of_lt h]
  simp

theorem fld_within {n v r lo m : Nat} (hn : lo + m ≤ n) : fld (cat n v r) lo m = fld v lo m := by
  unfold fld cat
  obtain ⟨k, rfl⟩ := Nat.exists_eq_add_of_le hn
  have : v + 2 ^ (lo + m + k) * r = v + 2 ^ lo * (2 ^ m * (2 ^ k * r)) := by
    rw [Nat.pow_add, Nat.pow_add, Nat.mul_assoc, Nat.mul_assoc]
  rw [this, Nat.add_mul_div_left _ _ (Nat.two_pow_pos lo), Nat.add_mul_mod_self_left]

theorem fld_span {n v r m : Nat} (h : v < 2 ^ n) (hn : n ≤ m) : fld (cat n v r) 0 m = cat n v (fld r 0 (m - n)) := by
  unfold fld cat
  obtain ⟨k, rfl⟩ := Nat.exists_eq_add_of_le hn
  simp only [Nat.pow_zero, Nat.div_one, Nat.add_sub_cancel_left]
  rw [Nat.pow_add, Nat.mod_mul, Nat.add_mul_mod_self_left, Nat.mod_eq_of_lt h,
    Nat.add_mul_div_left _ _ (Nat.two_pow_pos n), Nat.div_eq_of_lt h, Nat.zero_add]

theorem fld_small {v n : Nat} (h : v < 2 ^ n) : fld v 0 n = v := by
  simp [fld, Nat.mod_eq_of_lt h]

theorem bit_b2n (b : Bool) : bit (b2n b) 0 = b := by cases b <;> rfl

theorem b2n_lt (b : Bool) : b2n b < 2 ^ 1 := by cases b <;> decide

theorem bit_head {b : Bool} {r : Nat} : bit (cat 1 (b2n b) r) 0 = b := by
  unfold bit; rw [fld_head (b2n_lt b)]; cases b <;> rfl

theorem cat_lt {n m v r : Nat} (h : v < 2 ^ n) (hr : r < 2 ^ m) : cat n v r < 2 ^ (n + m) := by
  unfold cat
  rw [Nat.pow_add]
  have h2 : 2 ^ n * (r + 1) ≤ 2 ^ n * 2 ^ m := Nat.mul_le_mul_left _ hr
  rw [Nat.mul_add] at h2
  omega

theorem pat_lt (v : Int) (n : Nat) : pat v n < 2 ^ n := by
  unfold pat
  have : (0:Int) < (2 ^ n : Nat) := by exact_mod_cast Nat.two_pow_pos n
  have h1 := Int.emod_nonneg v (by omega : ((2 ^ n : Nat) : Int) ≠ 0)
  have h2 := Int.emod_lt_of_pos v this
  omega

theorem extS_pat {v : Int} {n : Nat} (hn : 0 < n) (h : sFits v n = true) : extS (pat v n) n = v := by
  simp only [sFits, Bool.and_eq_true, decide_eq_true_eq] at h
  obtain ⟨k, rfl⟩ : ∃ k, n = k + 1 := ⟨n - 1, by omega⟩
  simp only [Nat.add_sub_cancel] at h
  have hp : (2 ^ (k + 1) : Nat) = 2 * 2 ^ k := by rw [Nat.pow_succ]; omega
  have hpos : 0 < 2 ^ k := Nat.two_pow_pos k
  unfold extS pat
  simp only [Nat.add_sub_cancel]
  have e1 : ((2 ^ (k + 1) : Nat) : Int) = 2 * ((2 ^ k : Nat) : Int) := by exact_mod_cast hp
  have e2 : (2 : Int) ^ (k + 1) = 2 * ((2 ^ k : Nat) : Int) := by rw [← e1]; simp
  rw [e1, e2, hp]
  generalize 2 ^ k = K at *
  by_cases hv : 0 ≤ v
  · have : v % (2 * (K : Int)) = v := Int.emod_eq_of_lt hv (by omega)
    rw [this, Nat.mod_eq_of_lt (by omega)]
    rw [if_pos (by omega)]; omega
  · have : v % (2 * (K : Int)) = v + 2 * K := by
      rw [← Int.add_emod_right v]; exact Int.emod_eq_of_lt (by omega) (by omega)
    rw [this, Nat.mod_eq_of_lt (by omega)]
    rw [if_neg (by omega)]; omega

theorem WCode.ofCode_code (c : WCode) : WCode.ofCode c.code = c := by cases c <;> rfl
theorem WCode.code_lt (c : WCode) : c.code < 8 := by cases c <;> decide
theorem Ty.ofCode_code (t : Ty) : Ty.ofCode t.code = some t := by cases t <;> rfl
theorem Ty.code_lt (t : Ty) : t.code < 2 ^ 5 := by cases t <;> decide
theorem Rm.ofCode_code (r : Rm) : Rm.ofCode r.code = r := by cases r <;> rfl
theorem Rm.code_lt (r : Rm) : r.code < 2 ^ 2 := by cases r <;> decide

theorem Opnd.ofField_field (o : Opnd) : Opnd.ofField o.field = o := by
  obtain ⟨s, w⟩ := o
  have := w.code_lt
  unfold Opnd.ofField Opnd.field
  simp only [Opnd.mk.injEq]
  constructor
  · omega
  · rw [show (8 * s + w.code) % 8 = w.code by omega]; exact w.ofCode_code

theorem Opnd.field_lt {o : Opnd} (h : o.wf = true) : o.field < 2 ^ 13 := by
  have := o.w.code_lt
  simp only [Opnd.wf, decide_eq_true_eq] at h
  unfold Opnd.field; omega

theorem PSrc.ofField_field {p : PSrc} (h : p.wf = true) : PSrc.ofField p.field = some p := by
  obtain ⟨b, n⟩ := p
  simp only [PSrc.wf, decide_eq_true_eq] at h
  cases b <;> simp [PSrc.ofField, PSrc.field, b2n, bit, fld] <;> omega

theorem PSrc.field_lt {p : PSrc} (h : p.wf = true) : p.field < 2 ^ 13 := by
  simp only [PSrc.wf, decide_eq_true_eq] at h
  unfold PSrc.field b2n; split <;> omega

end Sys2Proof
end

