-- ==== Sys2Proof/Laws/Mem.lean ====
section
/-! SUPPORT. Laws of tables and of memory: reads after writes, and the canonical form. -/

set_option Elab.async false

namespace Sys2Proof
namespace Machine

theorem tabFind_tabSet_same {α : Type} (t : Tab α) (k : Nat) (v : α) : tabFind (tabSet t k v) k = some v := by
  induction t with
  | nil => simp [tabSet, tabFind]
  | cons e t ih =>
    obtain ⟨k', v'⟩ := e
    simp only [tabSet]
    split
    · simp [tabFind]
    · split
      · simp [tabFind]
      · have : k' ≠ k := by omega
        simp [tabFind, this, ih]

theorem tabFind_tabSet_other {α : Type} (t : Tab α) (k j : Nat) (v : α) (h : j ≠ k) :
    tabFind (tabSet t k v) j = tabFind t j := by
  induction t with
  | nil => simp [tabSet, tabFind, Ne.symm h]
  | cons e t ih =>
    obtain ⟨k', v'⟩ := e
    simp only [tabSet]
    split
    · simp [tabFind, Ne.symm h]
    · split
      · next hk => subst hk; simp [tabFind, Ne.symm h]
      · simp only [tabFind]; split <;> simp [ih]

@[simp] theorem tabGet_tabSet_same {α : Type} (d : α) (t : Tab α) (k : Nat) (v : α) : tabGet d (tabSet t k v) k = v := by
  simp [tabGet, tabFind_tabSet_same]

theorem tabGet_tabSet_other {α : Type} (d : α) (t : Tab α) (k j : Nat) (v : α) (h : j ≠ k) :
    tabGet d (tabSet t k v) j = tabGet d t j := by
  simp [tabGet, tabFind_tabSet_other _ _ _ _ h]

theorem tabFind_append {α : Type} (s t : Tab α) (k : Nat) : tabFind (s ++ t) k = (tabFind s k).or (tabFind t k) := by
  induction s with
  | nil => simp [tabFind]
  | cons e s ih => obtain ⟨k', v⟩ := e; simp only [List.cons_append, tabFind]; split <;> simp [ih]

theorem tabFind_filter_key {α : Type} (t : Tab α) (p : Nat → Bool) (k : Nat) :
    tabFind (t.filter (fun e => p e.1)) k = if p k then tabFind t k else none := by
  induction t with
  | nil => simp [tabFind]
  | cons e t ih =>
    obtain ⟨k', v⟩ := e
    simp only [List.filter_cons]
    by_cases hp : p k'
    · simp only [hp, if_true, tabFind, ih]
      by_cases hk : k' = k
      · subst hk; simp [hp]
      · simp [hk]
    · simp only [hp, Bool.false_eq_true, if_false, ih, tabFind]
      by_cases hk : k' = k
      · subst hk; simp [hp]
      · simp [hk]

theorem tabFind_cellsOf (bs : List Byte) (k a : Nat) :
    tabFind (cellsOf k bs) a =
      if k ≤ a then (bs[a - k]?).bind (fun b => if b = unlisted a then none else some b) else none := by
  induction bs generalizing k with
  | nil => simp [cellsOf, tabFind]
  | cons b bs ih =>
    simp only [cellsOf]
    by_cases hka : k = a
    · subst hka
      by_cases hb : b = unlisted k
      · simp only [hb, if_true, ih]
        have : ¬ (k + 1 ≤ k) := by omega
        simp [this]
      · simp [hb, tabFind]
    · have e : (if b = unlisted k then cellsOf (k + 1) bs else (k, b) :: cellsOf (k + 1) bs) = cellsOf (k + 1) bs ∨
          tabFind (if b = unlisted k then cellsOf (k + 1) bs else (k, b) :: cellsOf (k + 1) bs) a =
            tabFind (cellsOf (k + 1) bs) a := by
        by_cases hb : b = unlisted k
        · left; simp [hb]
        · right; simp [hb, tabFind, hka]
      have e' : tabFind (if b = unlisted k then cellsOf (k + 1) bs else (k, b) :: cellsOf (k + 1) bs) a =
            tabFind (cellsOf (k + 1) bs) a := by
        rcases e with e | e
        · rw [e]
        · exact e
      rw [e', ih]
      by_cases h1 : k + 1 ≤ a
      · have h2 : k ≤ a := by omega
        have h3 : a - k = (a - (k + 1)) + 1 := by omega
        simp [h1, h2, h3]
      · have h2 : ¬ k ≤ a := by omega
        simp [h1, h2]

/-- A read after a write of a run of bytes: the written byte inside the run, the old byte outside it. -/
theorem Memory.read_writeRange (m : Memory) (k : Nat) (bs : List Byte) (a : Nat) :
    (m.writeRange k bs).read a = if k ≤ a ∧ a < k + bs.length then bs.getD (a - k) 0 else m.read a := by
  have hf : ∀ p : Nat → Bool, tabFind (List.filter (fun c : Host.Cell => p c.1) m) a = if p a then tabFind m a else none :=
    fun p => tabFind_filter_key m p a
  have h1 := hf (fun x => decide (x < k))
  have h2 := hf (fun x => decide (k + bs.length ≤ x))
  simp only [decide_eq_true_eq] at h1 h2
  simp only [Memory.read, Memory.writeRange, tabGet, tabFind_append, h1, h2, tabFind_cellsOf]
  by_cases ha : a < k
  · have n1 : ¬ k ≤ a := by omega
    have n2 : ¬ (k + bs.length ≤ a) := by omega
    simp [ha, n1, n2]
  · have y1 : k ≤ a := by omega
    by_cases hb : a < k + bs.length
    · have n2 : ¬ (k + bs.length ≤ a) := by omega
      have hl : a - k < bs.length := by omega
      simp only [ha, y1, hb, n2, if_true, if_false, and_self, Option.none_or, Option.or_none, List.getElem?_eq_getElem hl,
        Option.bind_some, List.getD_eq_getElem?_getD, Option.getD_some]
      split
      · next h => simp [h]
      · simp
    · have y2 : k + bs.length ≤ a := by omega
      have hl : bs[a - k]? = none := List.getElem?_eq_none (by omega)
      simp [ha, y1, hb, y2, hl]

theorem Memory.read_write (m : Memory) (k a : Nat) (b : Byte) :
    (m.write k b).read a = if a = k then b else m.read a := by
  rw [Memory.write, Memory.read_writeRange]
  by_cases h : a = k
  · subst h; simp
  · rw [if_neg h, if_neg (by simp only [List.length_cons, List.length_nil]; omega)]

theorem keysRise_iff (m : Memory) : keysRise m = true ↔ m.Pairwise (fun a b => a.1 < b.1) := by
  induction m with
  | nil => simp [keysRise]
  | cons a t ih =>
    cases t with
    | nil => simp [keysRise]
    | cons b t =>
      simp only [keysRise, Bool.and_eq_true, decide_eq_true_eq, ih, List.pairwise_cons]
      constructor
      · rintro ⟨h1, h2, h3⟩
        refine ⟨?_, h2, h3⟩
        intro c hc
        rcases List.mem_cons.1 hc with rfl | hc
        · exact h1
        · exact Nat.lt_trans h1 (h2 c hc)
      · rintro ⟨h1, h2, h3⟩
        exact ⟨h1 b (List.mem_cons_self), h2, h3⟩

theorem cellsOf_bounds (bs : List Byte) (k : Nat) : ∀ c ∈ cellsOf k bs, k ≤ c.1 ∧ c.1 < k + bs.length := by
  induction bs generalizing k with
  | nil => simp [cellsOf]
  | cons b bs ih =>
    intro c hc
    simp only [cellsOf] at hc
    have step : c ∈ cellsOf (k + 1) bs → k ≤ c.1 ∧ c.1 < k + (b :: bs).length := by
      intro h; have := ih (k + 1) c h; simp only [List.length_cons]; omega
    split at hc
    · exact step hc
    · rcases List.mem_cons.1 hc with rfl | hc
      · simp
      · exact step hc

theorem cellsOf_pairwise (bs : List Byte) (k : Nat) : (cellsOf k bs).Pairwise (fun a b => a.1 < b.1) := by
  induction bs generalizing k with
  | nil => simp [cellsOf]
  | cons b bs ih =>
    simp only [cellsOf]
    split
    · exact ih (k + 1)
    · refine List.pairwise_cons.2 ⟨?_, ih (k + 1)⟩
      intro c hc
      have := cellsOf_bounds bs (k + 1) c hc
      show k < c.1
      omega

theorem cellsOf_listed (bs : List Byte) (k : Nat) : ∀ c ∈ cellsOf k bs, c.2 ≠ unlisted c.1 := by
  induction bs generalizing k with
  | nil => simp [cellsOf]
  | cons b bs ih =>
    intro c hc
    simp only [cellsOf] at hc
    split at hc
    · exact ih _ c hc
    · next h =>
      rcases List.mem_cons.1 hc with rfl | hc
      · exact h
      · exact ih _ c hc

/-- Every write keeps the canonical form of memory. -/
theorem Memory.wf_writeRange (m : Memory) (k : Nat) (bs : List Byte) (h : m.wf = true) : (m.writeRange k bs).wf = true := by
  simp only [Memory.wf, Bool.and_eq_true, keysRise_iff, List.all_eq_true, bne_iff_ne] at h ⊢
  obtain ⟨hs, hu⟩ := h
  constructor
  · simp only [Memory.writeRange, List.pairwise_append, List.mem_append, List.mem_filter, decide_eq_true_eq]
    refine ⟨⟨hs.filter _, cellsOf_pairwise bs k, ?_⟩, hs.filter _, ?_⟩
    · rintro a ⟨_, ha⟩ b hb
      have := cellsOf_bounds bs k b hb
      omega
    · rintro a (⟨_, ha⟩ | ha) b ⟨_, hb⟩
      · omega
      · have := cellsOf_bounds bs k a ha
        omega
  · intro c hc
    simp only [Memory.writeRange, List.mem_append, List.mem_filter] at hc
    rcases hc with (⟨hc, _⟩ | hc) | ⟨hc, _⟩
    · exact hu c hc
    · exact cellsOf_listed bs k c hc
    · exact hu c hc

theorem Memory.wf_write (m : Memory) (k : Nat) (b : Byte) (h : m.wf = true) : (m.write k b).wf = true :=
  Memory.wf_writeRange m k [b] h

theorem Memory.wf_writeN (m : Memory) (k n v : Nat) (h : m.wf = true) : (m.writeN k n v).wf = true :=
  Memory.wf_writeRange m k _ h

theorem State.reset_mem_wf : Memory.wf State.reset.mem = true := rfl

end Machine
end Sys2Proof
end

