-- ==== Sys2Proof/Laws/State.lean ====
section
/-! SUPPORT. Laws of the state: what each update of one part leaves of every other part, and what a look-up after an update gives. -/

set_option Elab.async false

namespace Sys2Proof
namespace Machine

/-! ## Every field after every update -/

@[simp] theorem State.setCore_agenda (s : State) (c : Nat) (x : Core) : (s.setCore c x).agenda = s.agenda := rfl
@[simp] theorem State.setCore_fresh (s : State) (c : Nat) (x : Core) : (s.setCore c x).fresh = s.fresh := rfl
@[simp] theorem State.setCore_cur (s : State) (c : Nat) (x : Core) : (s.setCore c x).cur = s.cur := rfl
@[simp] theorem State.setCore_mem (s : State) (c : Nat) (x : Core) : (s.setCore c x).mem = s.mem := rfl
@[simp] theorem State.setCore_poison (s : State) (c : Nat) (x : Core) : (s.setCore c x).poison = s.poison := rfl
@[simp] theorem State.setCore_gangs (s : State) (c : Nat) (x : Core) : (s.setCore c x).gangs = s.gangs := rfl
@[simp] theorem State.setCore_teams (s : State) (c : Nat) (x : Core) : (s.setCore c x).teams = s.teams := rfl
@[simp] theorem State.setCore_launches (s : State) (c : Nat) (x : Core) : (s.setCore c x).launches = s.launches := rfl
@[simp] theorem State.setCore_past (s : State) (c : Nat) (x : Core) : (s.setCore c x).past = s.past := rfl
@[simp] theorem State.setCore_tiles (s : State) (c : Nat) (x : Core) : (s.setCore c x).tiles = s.tiles := rfl
@[simp] theorem State.setCore_quarters (s : State) (c : Nat) (x : Core) : (s.setCore c x).quarters = s.quarters := rfl
@[simp] theorem State.setCore_mats (s : State) (c : Nat) (x : Core) : (s.setCore c x).mats = s.mats := rfl
@[simp] theorem State.setCore_copies (s : State) (c : Nat) (x : Core) : (s.setCore c x).copies = s.copies := rfl
@[simp] theorem State.setCore_reds (s : State) (c : Nat) (x : Core) : (s.setCore c x).reds = s.reds := rfl
@[simp] theorem State.setCore_tables (s : State) (c : Nat) (x : Core) : (s.setCore c x).tables = s.tables := rfl
@[simp] theorem State.setCore_home (s : State) (c : Nat) (x : Core) : (s.setCore c x).home = s.home := rfl
@[simp] theorem State.setCore_owners (s : State) (c : Nat) (x : Core) : (s.setCore c x).owners = s.owners := rfl
@[simp] theorem State.setCore_rflags (s : State) (c : Nat) (x : Core) : (s.setCore c x).rflags = s.rflags := rfl
@[simp] theorem State.setCore_rcbs (s : State) (c : Nat) (x : Core) : (s.setCore c x).rcbs = s.rcbs := rfl
@[simp] theorem State.setCore_queues (s : State) (c : Nat) (x : Core) : (s.setCore c x).queues = s.queues := rfl
@[simp] theorem State.setCore_visit (s : State) (c : Nat) (x : Core) : (s.setCore c x).visit = s.visit := rfl
@[simp] theorem State.setCore_quiet (s : State) (c : Nat) (x : Core) : (s.setCore c x).quiet = s.quiet := rfl
@[simp] theorem State.setCore_handles (s : State) (c : Nat) (x : Core) : (s.setCore c x).handles = s.handles := rfl
@[simp] theorem State.setCore_panels (s : State) (c : Nat) (x : Core) : (s.setCore c x).panels = s.panels := rfl
@[simp] theorem State.setCore_vds (s : State) (c : Nat) (x : Core) : (s.setCore c x).vds = s.vds := rfl
@[simp] theorem State.setCore_slice (s : State) (c : Nat) (x : Core) : (s.setCore c x).slice = s.slice := rfl
@[simp] theorem State.setCore_saved (s : State) (c : Nat) (x : Core) : (s.setCore c x).saved = s.saved := rfl
@[simp] theorem State.setCore_reserved (s : State) (c : Nat) (x : Core) : (s.setCore c x).reserved = s.reserved := rfl
@[simp] theorem State.setCore_meters (s : State) (c : Nat) (x : Core) : (s.setCore c x).meters = s.meters := rfl
@[simp] theorem State.setCore_used (s : State) (c : Nat) (x : Core) : (s.setCore c x).used = s.used := rfl
@[simp] theorem State.setCore_report (s : State) (c : Nat) (x : Core) : (s.setCore c x).report = s.report := rfl
@[simp] theorem State.setCore_epoch (s : State) (c : Nat) (x : Core) : (s.setCore c x).epoch = s.epoch := rfl
@[simp] theorem State.setCore_highWater (s : State) (c : Nat) (x : Core) : (s.setCore c x).highWater = s.highWater := rfl
@[simp] theorem State.setCore_mailbox (s : State) (c : Nat) (x : Core) : (s.setCore c x).mailbox = s.mailbox := rfl
@[simp] theorem State.setCore_ready (s : State) (c : Nat) (x : Core) : (s.setCore c x).ready = s.ready := rfl
@[simp] theorem State.setCore_train (s : State) (c : Nat) (x : Core) : (s.setCore c x).train = s.train := rfl
@[simp] theorem State.setCore_links (s : State) (c : Nat) (x : Core) : (s.setCore c x).links = s.links := rfl
@[simp] theorem State.setCore_windows (s : State) (c : Nat) (x : Core) : (s.setCore c x).windows = s.windows := rfl
@[simp] theorem State.setCore_routes (s : State) (c : Nat) (x : Core) : (s.setCore c x).routes = s.routes := rfl
@[simp] theorem State.setCore_refused (s : State) (c : Nat) (x : Core) : (s.setCore c x).refused = s.refused := rfl
@[simp] theorem State.setCore_hdm (s : State) (c : Nat) (x : Core) : (s.setCore c x).hdm = s.hdm := rfl
@[simp] theorem State.setCore_hostLines (s : State) (c : Nat) (x : Core) : (s.setCore c x).hostLines = s.hostLines := rfl
@[simp] theorem State.setCore_reply (s : State) (c : Nat) (x : Core) : (s.setCore c x).reply = s.reply := rfl
@[simp] theorem State.setCore_waiting (s : State) (c : Nat) (x : Core) : (s.setCore c x).waiting = s.waiting := rfl
@[simp] theorem State.setCore_errors (s : State) (c : Nat) (x : Core) : (s.setCore c x).errors = s.errors := rfl
@[simp] theorem State.setCore_latent (s : State) (c : Nat) (x : Core) : (s.setCore c x).latent = s.latent := rfl
@[simp] theorem State.setCore_reportSeq (s : State) (c : Nat) (x : Core) : (s.setCore c x).reportSeq = s.reportSeq := rfl
@[simp] theorem State.setCore_deadPrev (s : State) (c : Nat) (x : Core) : (s.setCore c x).deadPrev = s.deadPrev := rfl
@[simp] theorem State.setCore_kept (s : State) (c : Nat) (x : Core) : (s.setCore c x).kept = s.kept := rfl
@[simp] theorem State.setCore_throttled (s : State) (c : Nat) (x : Core) : (s.setCore c x).throttled = s.throttled := rfl
@[simp] theorem State.setCore_nextTeam (s : State) (c : Nat) (x : Core) : (s.setCore c x).nextTeam = s.nextTeam := rfl
@[simp] theorem State.setCore_nextLaunch (s : State) (c : Nat) (x : Core) : (s.setCore c x).nextLaunch = s.nextLaunch := rfl
@[simp] theorem State.setCore_nextCmd (s : State) (c : Nat) (x : Core) : (s.setCore c x).nextCmd = s.nextCmd := rfl
@[simp] theorem State.setCore_mclock (s : State) (c : Nat) (x : Core) : (s.setCore c x).mclock = s.mclock := rfl

@[simp] theorem State.setGang_agenda (s : State) (g : Nat) (x : Gang) : (s.setGang g x).agenda = s.agenda := rfl
@[simp] theorem State.setGang_fresh (s : State) (g : Nat) (x : Gang) : (s.setGang g x).fresh = s.fresh := rfl
@[simp] theorem State.setGang_cur (s : State) (g : Nat) (x : Gang) : (s.setGang g x).cur = s.cur := rfl
@[simp] theorem State.setGang_mem (s : State) (g : Nat) (x : Gang) : (s.setGang g x).mem = s.mem := rfl
@[simp] theorem State.setGang_poison (s : State) (g : Nat) (x : Gang) : (s.setGang g x).poison = s.poison := rfl
@[simp] theorem State.setGang_cores (s : State) (g : Nat) (x : Gang) : (s.setGang g x).cores = s.cores := rfl
@[simp] theorem State.setGang_teams (s : State) (g : Nat) (x : Gang) : (s.setGang g x).teams = s.teams := rfl
@[simp] theorem State.setGang_launches (s : State) (g : Nat) (x : Gang) : (s.setGang g x).launches = s.launches := rfl
@[simp] theorem State.setGang_past (s : State) (g : Nat) (x : Gang) : (s.setGang g x).past = s.past := rfl
@[simp] theorem State.setGang_tiles (s : State) (g : Nat) (x : Gang) : (s.setGang g x).tiles = s.tiles := rfl
@[simp] theorem State.setGang_quarters (s : State) (g : Nat) (x : Gang) : (s.setGang g x).quarters = s.quarters := rfl
@[simp] theorem State.setGang_mats (s : State) (g : Nat) (x : Gang) : (s.setGang g x).mats = s.mats := rfl
@[simp] theorem State.setGang_copies (s : State) (g : Nat) (x : Gang) : (s.setGang g x).copies = s.copies := rfl
@[simp] theorem State.setGang_reds (s : State) (g : Nat) (x : Gang) : (s.setGang g x).reds = s.reds := rfl
@[simp] theorem State.setGang_tables (s : State) (g : Nat) (x : Gang) : (s.setGang g x).tables = s.tables := rfl
@[simp] theorem State.setGang_home (s : State) (g : Nat) (x : Gang) : (s.setGang g x).home = s.home := rfl
@[simp] theorem State.setGang_owners (s : State) (g : Nat) (x : Gang) : (s.setGang g x).owners = s.owners := rfl
@[simp] theorem State.setGang_rflags (s : State) (g : Nat) (x : Gang) : (s.setGang g x).rflags = s.rflags := rfl
@[simp] theorem State.setGang_rcbs (s : State) (g : Nat) (x : Gang) : (s.setGang g x).rcbs = s.rcbs := rfl
@[simp] theorem State.setGang_queues (s : State) (g : Nat) (x : Gang) : (s.setGang g x).queues = s.queues := rfl
@[simp] theorem State.setGang_visit (s : State) (g : Nat) (x : Gang) : (s.setGang g x).visit = s.visit := rfl
@[simp] theorem State.setGang_quiet (s : State) (g : Nat) (x : Gang) : (s.setGang g x).quiet = s.quiet := rfl
@[simp] theorem State.setGang_handles (s : State) (g : Nat) (x : Gang) : (s.setGang g x).handles = s.handles := rfl
@[simp] theorem State.setGang_panels (s : State) (g : Nat) (x : Gang) : (s.setGang g x).panels = s.panels := rfl
@[simp] theorem State.setGang_vds (s : State) (g : Nat) (x : Gang) : (s.setGang g x).vds = s.vds := rfl
@[simp] theorem State.setGang_slice (s : State) (g : Nat) (x : Gang) : (s.setGang g x).slice = s.slice := rfl
@[simp] theorem State.setGang_saved (s : State) (g : Nat) (x : Gang) : (s.setGang g x).saved = s.saved := rfl
@[simp] theorem State.setGang_reserved (s : State) (g : Nat) (x : Gang) : (s.setGang g x).reserved = s.reserved := rfl
@[simp] theorem State.setGang_meters (s : State) (g : Nat) (x : Gang) : (s.setGang g x).meters = s.meters := rfl
@[simp] theorem State.setGang_used (s : State) (g : Nat) (x : Gang) : (s.setGang g x).used = s.used := rfl
@[simp] theorem State.setGang_report (s : State) (g : Nat) (x : Gang) : (s.setGang g x).report = s.report := rfl
@[simp] theorem State.setGang_epoch (s : State) (g : Nat) (x : Gang) : (s.setGang g x).epoch = s.epoch := rfl
@[simp] theorem State.setGang_highWater (s : State) (g : Nat) (x : Gang) : (s.setGang g x).highWater = s.highWater := rfl
@[simp] theorem State.setGang_mailbox (s : State) (g : Nat) (x : Gang) : (s.setGang g x).mailbox = s.mailbox := rfl
@[simp] theorem State.setGang_ready (s : State) (g : Nat) (x : Gang) : (s.setGang g x).ready = s.ready := rfl
@[simp] theorem State.setGang_train (s : State) (g : Nat) (x : Gang) : (s.setGang g x).train = s.train := rfl
@[simp] theorem State.setGang_links (s : State) (g : Nat) (x : Gang) : (s.setGang g x).links = s.links := rfl
@[simp] theorem State.setGang_windows (s : State) (g : Nat) (x : Gang) : (s.setGang g x).windows = s.windows := rfl
@[simp] theorem State.setGang_routes (s : State) (g : Nat) (x : Gang) : (s.setGang g x).routes = s.routes := rfl
@[simp] theorem State.setGang_refused (s : State) (g : Nat) (x : Gang) : (s.setGang g x).refused = s.refused := rfl
@[simp] theorem State.setGang_hdm (s : State) (g : Nat) (x : Gang) : (s.setGang g x).hdm = s.hdm := rfl
@[simp] theorem State.setGang_hostLines (s : State) (g : Nat) (x : Gang) : (s.setGang g x).hostLines = s.hostLines := rfl
@[simp] theorem State.setGang_reply (s : State) (g : Nat) (x : Gang) : (s.setGang g x).reply = s.reply := rfl
@[simp] theorem State.setGang_waiting (s : State) (g : Nat) (x : Gang) : (s.setGang g x).waiting = s.waiting := rfl
@[simp] theorem State.setGang_errors (s : State) (g : Nat) (x : Gang) : (s.setGang g x).errors = s.errors := rfl
@[simp] theorem State.setGang_latent (s : State) (g : Nat) (x : Gang) : (s.setGang g x).latent = s.latent := rfl
@[simp] theorem State.setGang_reportSeq (s : State) (g : Nat) (x : Gang) : (s.setGang g x).reportSeq = s.reportSeq := rfl
@[simp] theorem State.setGang_deadPrev (s : State) (g : Nat) (x : Gang) : (s.setGang g x).deadPrev = s.deadPrev := rfl
@[simp] theorem State.setGang_kept (s : State) (g : Nat) (x : Gang) : (s.setGang g x).kept = s.kept := rfl
@[simp] theorem State.setGang_throttled (s : State) (g : Nat) (x : Gang) : (s.setGang g x).throttled = s.throttled := rfl
@[simp] theorem State.setGang_nextTeam (s : State) (g : Nat) (x : Gang) : (s.setGang g x).nextTeam = s.nextTeam := rfl
@[simp] theorem State.setGang_nextLaunch (s : State) (g : Nat) (x : Gang) : (s.setGang g x).nextLaunch = s.nextLaunch := rfl
@[simp] theorem State.setGang_nextCmd (s : State) (g : Nat) (x : Gang) : (s.setGang g x).nextCmd = s.nextCmd := rfl
@[simp] theorem State.setGang_mclock (s : State) (g : Nat) (x : Gang) : (s.setGang g x).mclock = s.mclock := rfl

@[simp] theorem State.setTeam_agenda (s : State) (n : Nat) (x : Team) : (s.setTeam n x).agenda = s.agenda := rfl
@[simp] theorem State.setTeam_fresh (s : State) (n : Nat) (x : Team) : (s.setTeam n x).fresh = s.fresh := rfl
@[simp] theorem State.setTeam_cur (s : State) (n : Nat) (x : Team) : (s.setTeam n x).cur = s.cur := rfl
@[simp] theorem State.setTeam_mem (s : State) (n : Nat) (x : Team) : (s.setTeam n x).mem = s.mem := rfl
@[simp] theorem State.setTeam_poison (s : State) (n : Nat) (x : Team) : (s.setTeam n x).poison = s.poison := rfl
@[simp] theorem State.setTeam_cores (s : State) (n : Nat) (x : Team) : (s.setTeam n x).cores = s.cores := rfl
@[simp] theorem State.setTeam_gangs (s : State) (n : Nat) (x : Team) : (s.setTeam n x).gangs = s.gangs := rfl
@[simp] theorem State.setTeam_launches (s : State) (n : Nat) (x : Team) : (s.setTeam n x).launches = s.launches := rfl
@[simp] theorem State.setTeam_past (s : State) (n : Nat) (x : Team) : (s.setTeam n x).past = s.past := rfl
@[simp] theorem State.setTeam_tiles (s : State) (n : Nat) (x : Team) : (s.setTeam n x).tiles = s.tiles := rfl
@[simp] theorem State.setTeam_quarters (s : State) (n : Nat) (x : Team) : (s.setTeam n x).quarters = s.quarters := rfl
@[simp] theorem State.setTeam_mats (s : State) (n : Nat) (x : Team) : (s.setTeam n x).mats = s.mats := rfl
@[simp] theorem State.setTeam_copies (s : State) (n : Nat) (x : Team) : (s.setTeam n x).copies = s.copies := rfl
@[simp] theorem State.setTeam_reds (s : State) (n : Nat) (x : Team) : (s.setTeam n x).reds = s.reds := rfl
@[simp] theorem State.setTeam_tables (s : State) (n : Nat) (x : Team) : (s.setTeam n x).tables = s.tables := rfl
@[simp] theorem State.setTeam_home (s : State) (n : Nat) (x : Team) : (s.setTeam n x).home = s.home := rfl
@[simp] theorem State.setTeam_owners (s : State) (n : Nat) (x : Team) : (s.setTeam n x).owners = s.owners := rfl
@[simp] theorem State.setTeam_rflags (s : State) (n : Nat) (x : Team) : (s.setTeam n x).rflags = s.rflags := rfl
@[simp] theorem State.setTeam_rcbs (s : State) (n : Nat) (x : Team) : (s.setTeam n x).rcbs = s.rcbs := rfl
@[simp] theorem State.setTeam_queues (s : State) (n : Nat) (x : Team) : (s.setTeam n x).queues = s.queues := rfl
@[simp] theorem State.setTeam_visit (s : State) (n : Nat) (x : Team) : (s.setTeam n x).visit = s.visit := rfl
@[simp] theorem State.setTeam_quiet (s : State) (n : Nat) (x : Team) : (s.setTeam n x).quiet = s.quiet := rfl
@[simp] theorem State.setTeam_handles (s : State) (n : Nat) (x : Team) : (s.setTeam n x).handles = s.handles := rfl
@[simp] theorem State.setTeam_panels (s : State) (n : Nat) (x : Team) : (s.setTeam n x).panels = s.panels := rfl
@[simp] theorem State.setTeam_vds (s : State) (n : Nat) (x : Team) : (s.setTeam n x).vds = s.vds := rfl
@[simp] theorem State.setTeam_slice (s : State) (n : Nat) (x : Team) : (s.setTeam n x).slice = s.slice := rfl
@[simp] theorem State.setTeam_saved (s : State) (n : Nat) (x : Team) : (s.setTeam n x).saved = s.saved := rfl
@[simp] theorem State.setTeam_reserved (s : State) (n : Nat) (x : Team) : (s.setTeam n x).reserved = s.reserved := rfl
@[simp] theorem State.setTeam_meters (s : State) (n : Nat) (x : Team) : (s.setTeam n x).meters = s.meters := rfl
@[simp] theorem State.setTeam_used (s : State) (n : Nat) (x : Team) : (s.setTeam n x).used = s.used := rfl
@[simp] theorem State.setTeam_report (s : State) (n : Nat) (x : Team) : (s.setTeam n x).report = s.report := rfl
@[simp] theorem State.setTeam_epoch (s : State) (n : Nat) (x : Team) : (s.setTeam n x).epoch = s.epoch := rfl
@[simp] theorem State.setTeam_highWater (s : State) (n : Nat) (x : Team) : (s.setTeam n x).highWater = s.highWater := rfl
@[simp] theorem State.setTeam_mailbox (s : State) (n : Nat) (x : Team) : (s.setTeam n x).mailbox = s.mailbox := rfl
@[simp] theorem State.setTeam_ready (s : State) (n : Nat) (x : Team) : (s.setTeam n x).ready = s.ready := rfl
@[simp] theorem State.setTeam_train (s : State) (n : Nat) (x : Team) : (s.setTeam n x).train = s.train := rfl
@[simp] theorem State.setTeam_links (s : State) (n : Nat) (x : Team) : (s.setTeam n x).links = s.links := rfl
@[simp] theorem State.setTeam_windows (s : State) (n : Nat) (x : Team) : (s.setTeam n x).windows = s.windows := rfl
@[simp] theorem State.setTeam_routes (s : State) (n : Nat) (x : Team) : (s.setTeam n x).routes = s.routes := rfl
@[simp] theorem State.setTeam_refused (s : State) (n : Nat) (x : Team) : (s.setTeam n x).refused = s.refused := rfl
@[simp] theorem State.setTeam_hdm (s : State) (n : Nat) (x : Team) : (s.setTeam n x).hdm = s.hdm := rfl
@[simp] theorem State.setTeam_hostLines (s : State) (n : Nat) (x : Team) : (s.setTeam n x).hostLines = s.hostLines := rfl
@[simp] theorem State.setTeam_reply (s : State) (n : Nat) (x : Team) : (s.setTeam n x).reply = s.reply := rfl
@[simp] theorem State.setTeam_waiting (s : State) (n : Nat) (x : Team) : (s.setTeam n x).waiting = s.waiting := rfl
@[simp] theorem State.setTeam_errors (s : State) (n : Nat) (x : Team) : (s.setTeam n x).errors = s.errors := rfl
@[simp] theorem State.setTeam_latent (s : State) (n : Nat) (x : Team) : (s.setTeam n x).latent = s.latent := rfl
@[simp] theorem State.setTeam_reportSeq (s : State) (n : Nat) (x : Team) : (s.setTeam n x).reportSeq = s.reportSeq := rfl
@[simp] theorem State.setTeam_deadPrev (s : State) (n : Nat) (x : Team) : (s.setTeam n x).deadPrev = s.deadPrev := rfl
@[simp] theorem State.setTeam_kept (s : State) (n : Nat) (x : Team) : (s.setTeam n x).kept = s.kept := rfl
@[simp] theorem State.setTeam_throttled (s : State) (n : Nat) (x : Team) : (s.setTeam n x).throttled = s.throttled := rfl
@[simp] theorem State.setTeam_nextTeam (s : State) (n : Nat) (x : Team) : (s.setTeam n x).nextTeam = s.nextTeam := rfl
@[simp] theorem State.setTeam_nextLaunch (s : State) (n : Nat) (x : Team) : (s.setTeam n x).nextLaunch = s.nextLaunch := rfl
@[simp] theorem State.setTeam_nextCmd (s : State) (n : Nat) (x : Team) : (s.setTeam n x).nextCmd = s.nextCmd := rfl
@[simp] theorem State.setTeam_mclock (s : State) (n : Nat) (x : Team) : (s.setTeam n x).mclock = s.mclock := rfl

@[simp] theorem State.setLaunch_agenda (s : State) (n : Nat) (x : Launch) : (s.setLaunch n x).agenda = s.agenda := rfl
@[simp] theorem State.setLaunch_fresh (s : State) (n : Nat) (x : Launch) : (s.setLaunch n x).fresh = s.fresh := rfl
@[simp] theorem State.setLaunch_cur (s : State) (n : Nat) (x : Launch) : (s.setLaunch n x).cur = s.cur := rfl
@[simp] theorem State.setLaunch_mem (s : State) (n : Nat) (x : Launch) : (s.setLaunch n x).mem = s.mem := rfl
@[simp] theorem State.setLaunch_poison (s : State) (n : Nat) (x : Launch) : (s.setLaunch n x).poison = s.poison := rfl
@[simp] theorem State.setLaunch_cores (s : State) (n : Nat) (x : Launch) : (s.setLaunch n x).cores = s.cores := rfl
@[simp] theorem State.setLaunch_gangs (s : State) (n : Nat) (x : Launch) : (s.setLaunch n x).gangs = s.gangs := rfl
@[simp] theorem State.setLaunch_teams (s : State) (n : Nat) (x : Launch) : (s.setLaunch n x).teams = s.teams := rfl
@[simp] theorem State.setLaunch_past (s : State) (n : Nat) (x : Launch) : (s.setLaunch n x).past = s.past := rfl
@[simp] theorem State.setLaunch_tiles (s : State) (n : Nat) (x : Launch) : (s.setLaunch n x).tiles = s.tiles := rfl
@[simp] theorem State.setLaunch_quarters (s : State) (n : Nat) (x : Launch) : (s.setLaunch n x).quarters = s.quarters := rfl
@[simp] theorem State.setLaunch_mats (s : State) (n : Nat) (x : Launch) : (s.setLaunch n x).mats = s.mats := rfl
@[simp] theorem State.setLaunch_copies (s : State) (n : Nat) (x : Launch) : (s.setLaunch n x).copies = s.copies := rfl
@[simp] theorem State.setLaunch_reds (s : State) (n : Nat) (x : Launch) : (s.setLaunch n x).reds = s.reds := rfl
@[simp] theorem State.setLaunch_tables (s : State) (n : Nat) (x : Launch) : (s.setLaunch n x).tables = s.tables := rfl
@[simp] theorem State.setLaunch_home (s : State) (n : Nat) (x : Launch) : (s.setLaunch n x).home = s.home := rfl
@[simp] theorem State.setLaunch_owners (s : State) (n : Nat) (x : Launch) : (s.setLaunch n x).owners = s.owners := rfl
@[simp] theorem State.setLaunch_rflags (s : State) (n : Nat) (x : Launch) : (s.setLaunch n x).rflags = s.rflags := rfl
@[simp] theorem State.setLaunch_rcbs (s : State) (n : Nat) (x : Launch) : (s.setLaunch n x).rcbs = s.rcbs := rfl
@[simp] theorem State.setLaunch_queues (s : State) (n : Nat) (x : Launch) : (s.setLaunch n x).queues = s.queues := rfl
@[simp] theorem State.setLaunch_visit (s : State) (n : Nat) (x : Launch) : (s.setLaunch n x).visit = s.visit := rfl
@[simp] theorem State.setLaunch_quiet (s : State) (n : Nat) (x : Launch) : (s.setLaunch n x).quiet = s.quiet := rfl
@[simp] theorem State.setLaunch_handles (s : State) (n : Nat) (x : Launch) : (s.setLaunch n x).handles = s.handles := rfl
@[simp] theorem State.setLaunch_panels (s : State) (n : Nat) (x : Launch) : (s.setLaunch n x).panels = s.panels := rfl
@[simp] theorem State.setLaunch_vds (s : State) (n : Nat) (x : Launch) : (s.setLaunch n x).vds = s.vds := rfl
@[simp] theorem State.setLaunch_slice (s : State) (n : Nat) (x : Launch) : (s.setLaunch n x).slice = s.slice := rfl
@[simp] theorem State.setLaunch_saved (s : State) (n : Nat) (x : Launch) : (s.setLaunch n x).saved = s.saved := rfl
@[simp] theorem State.setLaunch_reserved (s : State) (n : Nat) (x : Launch) : (s.setLaunch n x).reserved = s.reserved := rfl
@[simp] theorem State.setLaunch_meters (s : State) (n : Nat) (x : Launch) : (s.setLaunch n x).meters = s.meters := rfl
@[simp] theorem State.setLaunch_used (s : State) (n : Nat) (x : Launch) : (s.setLaunch n x).used = s.used := rfl
@[simp] theorem State.setLaunch_report (s : State) (n : Nat) (x : Launch) : (s.setLaunch n x).report = s.report := rfl
@[simp] theorem State.setLaunch_epoch (s : State) (n : Nat) (x : Launch) : (s.setLaunch n x).epoch = s.epoch := rfl
@[simp] theorem State.setLaunch_highWater (s : State) (n : Nat) (x : Launch) : (s.setLaunch n x).highWater = s.highWater := rfl
@[simp] theorem State.setLaunch_mailbox (s : State) (n : Nat) (x : Launch) : (s.setLaunch n x).mailbox = s.mailbox := rfl
@[simp] theorem State.setLaunch_ready (s : State) (n : Nat) (x : Launch) : (s.setLaunch n x).ready = s.ready := rfl
@[simp] theorem State.setLaunch_train (s : State) (n : Nat) (x : Launch) : (s.setLaunch n x).train = s.train := rfl
@[simp] theorem State.setLaunch_links (s : State) (n : Nat) (x : Launch) : (s.setLaunch n x).links = s.links := rfl
@[simp] theorem State.setLaunch_windows (s : State) (n : Nat) (x : Launch) : (s.setLaunch n x).windows = s.windows := rfl
@[simp] theorem State.setLaunch_routes (s : State) (n : Nat) (x : Launch) : (s.setLaunch n x).routes = s.routes := rfl
@[simp] theorem State.setLaunch_refused (s : State) (n : Nat) (x : Launch) : (s.setLaunch n x).refused = s.refused := rfl
@[simp] theorem State.setLaunch_hdm (s : State) (n : Nat) (x : Launch) : (s.setLaunch n x).hdm = s.hdm := rfl
@[simp] theorem State.setLaunch_hostLines (s : State) (n : Nat) (x : Launch) : (s.setLaunch n x).hostLines = s.hostLines := rfl
@[simp] theorem State.setLaunch_reply (s : State) (n : Nat) (x : Launch) : (s.setLaunch n x).reply = s.reply := rfl
@[simp] theorem State.setLaunch_waiting (s : State) (n : Nat) (x : Launch) : (s.setLaunch n x).waiting = s.waiting := rfl
@[simp] theorem State.setLaunch_errors (s : State) (n : Nat) (x : Launch) : (s.setLaunch n x).errors = s.errors := rfl
@[simp] theorem State.setLaunch_latent (s : State) (n : Nat) (x : Launch) : (s.setLaunch n x).latent = s.latent := rfl
@[simp] theorem State.setLaunch_reportSeq (s : State) (n : Nat) (x : Launch) : (s.setLaunch n x).reportSeq = s.reportSeq := rfl
@[simp] theorem State.setLaunch_deadPrev (s : State) (n : Nat) (x : Launch) : (s.setLaunch n x).deadPrev = s.deadPrev := rfl
@[simp] theorem State.setLaunch_kept (s : State) (n : Nat) (x : Launch) : (s.setLaunch n x).kept = s.kept := rfl
@[simp] theorem State.setLaunch_throttled (s : State) (n : Nat) (x : Launch) : (s.setLaunch n x).throttled = s.throttled := rfl
@[simp] theorem State.setLaunch_nextTeam (s : State) (n : Nat) (x : Launch) : (s.setLaunch n x).nextTeam = s.nextTeam := rfl
@[simp] theorem State.setLaunch_nextLaunch (s : State) (n : Nat) (x : Launch) : (s.setLaunch n x).nextLaunch = s.nextLaunch := rfl
@[simp] theorem State.setLaunch_nextCmd (s : State) (n : Nat) (x : Launch) : (s.setLaunch n x).nextCmd = s.nextCmd := rfl
@[simp] theorem State.setLaunch_mclock (s : State) (n : Nat) (x : Launch) : (s.setLaunch n x).mclock = s.mclock := rfl

@[simp] theorem State.setTile_agenda (s : State) (n : Nat) (x : Tile) : (s.setTile n x).agenda = s.agenda := rfl
@[simp] theorem State.setTile_fresh (s : State) (n : Nat) (x : Tile) : (s.setTile n x).fresh = s.fresh := rfl
@[simp] theorem State.setTile_cur (s : State) (n : Nat) (x : Tile) : (s.setTile n x).cur = s.cur := rfl
@[simp] theorem State.setTile_mem (s : State) (n : Nat) (x : Tile) : (s.setTile n x).mem = s.mem := rfl
@[simp] theorem State.setTile_poison (s : State) (n : Nat) (x : Tile) : (s.setTile n x).poison = s.poison := rfl
@[simp] theorem State.setTile_cores (s : State) (n : Nat) (x : Tile) : (s.setTile n x).cores = s.cores := rfl
@[simp] theorem State.setTile_gangs (s : State) (n : Nat) (x : Tile) : (s.setTile n x).gangs = s.gangs := rfl
@[simp] theorem State.setTile_teams (s : State) (n : Nat) (x : Tile) : (s.setTile n x).teams = s.teams := rfl
@[simp] theorem State.setTile_launches (s : State) (n : Nat) (x : Tile) : (s.setTile n x).launches = s.launches := rfl
@[simp] theorem State.setTile_past (s : State) (n : Nat) (x : Tile) : (s.setTile n x).past = s.past := rfl
@[simp] theorem State.setTile_quarters (s : State) (n : Nat) (x : Tile) : (s.setTile n x).quarters = s.quarters := rfl
@[simp] theorem State.setTile_mats (s : State) (n : Nat) (x : Tile) : (s.setTile n x).mats = s.mats := rfl
@[simp] theorem State.setTile_copies (s : State) (n : Nat) (x : Tile) : (s.setTile n x).copies = s.copies := rfl
@[simp] theorem State.setTile_reds (s : State) (n : Nat) (x : Tile) : (s.setTile n x).reds = s.reds := rfl
@[simp] theorem State.setTile_tables (s : State) (n : Nat) (x : Tile) : (s.setTile n x).tables = s.tables := rfl
@[simp] theorem State.setTile_home (s : State) (n : Nat) (x : Tile) : (s.setTile n x).home = s.home := rfl
@[simp] theorem State.setTile_owners (s : State) (n : Nat) (x : Tile) : (s.setTile n x).owners = s.owners := rfl
@[simp] theorem State.setTile_rflags (s : State) (n : Nat) (x : Tile) : (s.setTile n x).rflags = s.rflags := rfl
@[simp] theorem State.setTile_rcbs (s : State) (n : Nat) (x : Tile) : (s.setTile n x).rcbs = s.rcbs := rfl
@[simp] theorem State.setTile_queues (s : State) (n : Nat) (x : Tile) : (s.setTile n x).queues = s.queues := rfl
@[simp] theorem State.setTile_visit (s : State) (n : Nat) (x : Tile) : (s.setTile n x).visit = s.visit := rfl
@[simp] theorem State.setTile_quiet (s : State) (n : Nat) (x : Tile) : (s.setTile n x).quiet = s.quiet := rfl
@[simp] theorem State.setTile_handles (s : State) (n : Nat) (x : Tile) : (s.setTile n x).handles = s.handles := rfl
@[simp] theorem State.setTile_panels (s : State) (n : Nat) (x : Tile) : (s.setTile n x).panels = s.panels := rfl
@[simp] theorem State.setTile_vds (s : State) (n : Nat) (x : Tile) : (s.setTile n x).vds = s.vds := rfl
@[simp] theorem State.setTile_slice (s : State) (n : Nat) (x : Tile) : (s.setTile n x).slice = s.slice := rfl
@[simp] theorem State.setTile_saved (s : State) (n : Nat) (x : Tile) : (s.setTile n x).saved = s.saved := rfl
@[simp] theorem State.setTile_reserved (s : State) (n : Nat) (x : Tile) : (s.setTile n x).reserved = s.reserved := rfl
@[simp] theorem State.setTile_meters (s : State) (n : Nat) (x : Tile) : (s.setTile n x).meters = s.meters := rfl
@[simp] theorem State.setTile_used (s : State) (n : Nat) (x : Tile) : (s.setTile n x).used = s.used := rfl
@[simp] theorem State.setTile_report (s : State) (n : Nat) (x : Tile) : (s.setTile n x).report = s.report := rfl
@[simp] theorem State.setTile_epoch (s : State) (n : Nat) (x : Tile) : (s.setTile n x).epoch = s.epoch := rfl
@[simp] theorem State.setTile_highWater (s : State) (n : Nat) (x : Tile) : (s.setTile n x).highWater = s.highWater := rfl
@[simp] theorem State.setTile_mailbox (s : State) (n : Nat) (x : Tile) : (s.setTile n x).mailbox = s.mailbox := rfl
@[simp] theorem State.setTile_ready (s : State) (n : Nat) (x : Tile) : (s.setTile n x).ready = s.ready := rfl
@[simp] theorem State.setTile_train (s : State) (n : Nat) (x : Tile) : (s.setTile n x).train = s.train := rfl
@[simp] theorem State.setTile_links (s : State) (n : Nat) (x : Tile) : (s.setTile n x).links = s.links := rfl
@[simp] theorem State.setTile_windows (s : State) (n : Nat) (x : Tile) : (s.setTile n x).windows = s.windows := rfl
@[simp] theorem State.setTile_routes (s : State) (n : Nat) (x : Tile) : (s.setTile n x).routes = s.routes := rfl
@[simp] theorem State.setTile_refused (s : State) (n : Nat) (x : Tile) : (s.setTile n x).refused = s.refused := rfl
@[simp] theorem State.setTile_hdm (s : State) (n : Nat) (x : Tile) : (s.setTile n x).hdm = s.hdm := rfl
@[simp] theorem State.setTile_hostLines (s : State) (n : Nat) (x : Tile) : (s.setTile n x).hostLines = s.hostLines := rfl
@[simp] theorem State.setTile_reply (s : State) (n : Nat) (x : Tile) : (s.setTile n x).reply = s.reply := rfl
@[simp] theorem State.setTile_waiting (s : State) (n : Nat) (x : Tile) : (s.setTile n x).waiting = s.waiting := rfl
@[simp] theorem State.setTile_errors (s : State) (n : Nat) (x : Tile) : (s.setTile n x).errors = s.errors := rfl
@[simp] theorem State.setTile_latent (s : State) (n : Nat) (x : Tile) : (s.setTile n x).latent = s.latent := rfl
@[simp] theorem State.setTile_reportSeq (s : State) (n : Nat) (x : Tile) : (s.setTile n x).reportSeq = s.reportSeq := rfl
@[simp] theorem State.setTile_deadPrev (s : State) (n : Nat) (x : Tile) : (s.setTile n x).deadPrev = s.deadPrev := rfl
@[simp] theorem State.setTile_kept (s : State) (n : Nat) (x : Tile) : (s.setTile n x).kept = s.kept := rfl
@[simp] theorem State.setTile_throttled (s : State) (n : Nat) (x : Tile) : (s.setTile n x).throttled = s.throttled := rfl
@[simp] theorem State.setTile_nextTeam (s : State) (n : Nat) (x : Tile) : (s.setTile n x).nextTeam = s.nextTeam := rfl
@[simp] theorem State.setTile_nextLaunch (s : State) (n : Nat) (x : Tile) : (s.setTile n x).nextLaunch = s.nextLaunch := rfl
@[simp] theorem State.setTile_nextCmd (s : State) (n : Nat) (x : Tile) : (s.setTile n x).nextCmd = s.nextCmd := rfl
@[simp] theorem State.setTile_mclock (s : State) (n : Nat) (x : Tile) : (s.setTile n x).mclock = s.mclock := rfl

@[simp] theorem State.setQuarter_agenda (s : State) (n : Nat) (x : Quarter) : (s.setQuarter n x).agenda = s.agenda := rfl
@[simp] theorem State.setQuarter_fresh (s : State) (n : Nat) (x : Quarter) : (s.setQuarter n x).fresh = s.fresh := rfl
@[simp] theorem State.setQuarter_cur (s : State) (n : Nat) (x : Quarter) : (s.setQuarter n x).cur = s.cur := rfl
@[simp] theorem State.setQuarter_mem (s : State) (n : Nat) (x : Quarter) : (s.setQuarter n x).mem = s.mem := rfl
@[simp] theorem State.setQuarter_poison (s : State) (n : Nat) (x : Quarter) : (s.setQuarter n x).poison = s.poison := rfl
@[simp] theorem State.setQuarter_cores (s : State) (n : Nat) (x : Quarter) : (s.setQuarter n x).cores = s.cores := rfl
@[simp] theorem State.setQuarter_gangs (s : State) (n : Nat) (x : Quarter) : (s.setQuarter n x).gangs = s.gangs := rfl
@[simp] theorem State.setQuarter_teams (s : State) (n : Nat) (x : Quarter) : (s.setQuarter n x).teams = s.teams := rfl
@[simp] theorem State.setQuarter_launches (s : State) (n : Nat) (x : Quarter) : (s.setQuarter n x).launches = s.launches := rfl
@[simp] theorem State.setQuarter_past (s : State) (n : Nat) (x : Quarter) : (s.setQuarter n x).past = s.past := rfl
@[simp] theorem State.setQuarter_tiles (s : State) (n : Nat) (x : Quarter) : (s.setQuarter n x).tiles = s.tiles := rfl
@[simp] theorem State.setQuarter_mats (s : State) (n : Nat) (x : Quarter) : (s.setQuarter n x).mats = s.mats := rfl
@[simp] theorem State.setQuarter_copies (s : State) (n : Nat) (x : Quarter) : (s.setQuarter n x).copies = s.copies := rfl
@[simp] theorem State.setQuarter_reds (s : State) (n : Nat) (x : Quarter) : (s.setQuarter n x).reds = s.reds := rfl
@[simp] theorem State.setQuarter_tables (s : State) (n : Nat) (x : Quarter) : (s.setQuarter n x).tables = s.tables := rfl
@[simp] theorem State.setQuarter_home (s : State) (n : Nat) (x : Quarter) : (s.setQuarter n x).home = s.home := rfl
@[simp] theorem State.setQuarter_owners (s : State) (n : Nat) (x : Quarter) : (s.setQuarter n x).owners = s.owners := rfl
@[simp] theorem State.setQuarter_rflags (s : State) (n : Nat) (x : Quarter) : (s.setQuarter n x).rflags = s.rflags := rfl
@[simp] theorem State.setQuarter_rcbs (s : State) (n : Nat) (x : Quarter) : (s.setQuarter n x).rcbs = s.rcbs := rfl
@[simp] theorem State.setQuarter_queues (s : State) (n : Nat) (x : Quarter) : (s.setQuarter n x).queues = s.queues := rfl
@[simp] theorem State.setQuarter_visit (s : State) (n : Nat) (x : Quarter) : (s.setQuarter n x).visit = s.visit := rfl
@[simp] theorem State.setQuarter_quiet (s : State) (n : Nat) (x : Quarter) : (s.setQuarter n x).quiet = s.quiet := rfl
@[simp] theorem State.setQuarter_handles (s : State) (n : Nat) (x : Quarter) : (s.setQuarter n x).handles = s.handles := rfl
@[simp] theorem State.setQuarter_panels (s : State) (n : Nat) (x : Quarter) : (s.setQuarter n x).panels = s.panels := rfl
@[simp] theorem State.setQuarter_vds (s : State) (n : Nat) (x : Quarter) : (s.setQuarter n x).vds = s.vds := rfl
@[simp] theorem State.setQuarter_slice (s : State) (n : Nat) (x : Quarter) : (s.setQuarter n x).slice = s.slice := rfl
@[simp] theorem State.setQuarter_saved (s : State) (n : Nat) (x : Quarter) : (s.setQuarter n x).saved = s.saved := rfl
@[simp] theorem State.setQuarter_reserved (s : State) (n : Nat) (x : Quarter) : (s.setQuarter n x).reserved = s.reserved := rfl
@[simp] theorem State.setQuarter_meters (s : State) (n : Nat) (x : Quarter) : (s.setQuarter n x).meters = s.meters := rfl
@[simp] theorem State.setQuarter_used (s : State) (n : Nat) (x : Quarter) : (s.setQuarter n x).used = s.used := rfl
@[simp] theorem State.setQuarter_report (s : State) (n : Nat) (x : Quarter) : (s.setQuarter n x).report = s.report := rfl
@[simp] theorem State.setQuarter_epoch (s : State) (n : Nat) (x : Quarter) : (s.setQuarter n x).epoch = s.epoch := rfl
@[simp] theorem State.setQuarter_highWater (s : State) (n : Nat) (x : Quarter) : (s.setQuarter n x).highWater = s.highWater := rfl
@[simp] theorem State.setQuarter_mailbox (s : State) (n : Nat) (x : Quarter) : (s.setQuarter n x).mailbox = s.mailbox := rfl
@[simp] theorem State.setQuarter_ready (s : State) (n : Nat) (x : Quarter) : (s.setQuarter n x).ready = s.ready := rfl
@[simp] theorem State.setQuarter_train (s : State) (n : Nat) (x : Quarter) : (s.setQuarter n x).train = s.train := rfl
@[simp] theorem State.setQuarter_links (s : State) (n : Nat) (x : Quarter) : (s.setQuarter n x).links = s.links := rfl
@[simp] theorem State.setQuarter_windows (s : State) (n : Nat) (x : Quarter) : (s.setQuarter n x).windows = s.windows := rfl
@[simp] theorem State.setQuarter_routes (s : State) (n : Nat) (x : Quarter) : (s.setQuarter n x).routes = s.routes := rfl
@[simp] theorem State.setQuarter_refused (s : State) (n : Nat) (x : Quarter) : (s.setQuarter n x).refused = s.refused := rfl
@[simp] theorem State.setQuarter_hdm (s : State) (n : Nat) (x : Quarter) : (s.setQuarter n x).hdm = s.hdm := rfl
@[simp] theorem State.setQuarter_hostLines (s : State) (n : Nat) (x : Quarter) : (s.setQuarter n x).hostLines = s.hostLines := rfl
@[simp] theorem State.setQuarter_reply (s : State) (n : Nat) (x : Quarter) : (s.setQuarter n x).reply = s.reply := rfl
@[simp] theorem State.setQuarter_waiting (s : State) (n : Nat) (x : Quarter) : (s.setQuarter n x).waiting = s.waiting := rfl
@[simp] theorem State.setQuarter_errors (s : State) (n : Nat) (x : Quarter) : (s.setQuarter n x).errors = s.errors := rfl
@[simp] theorem State.setQuarter_latent (s : State) (n : Nat) (x : Quarter) : (s.setQuarter n x).latent = s.latent := rfl
@[simp] theorem State.setQuarter_reportSeq (s : State) (n : Nat) (x : Quarter) : (s.setQuarter n x).reportSeq = s.reportSeq := rfl
@[simp] theorem State.setQuarter_deadPrev (s : State) (n : Nat) (x : Quarter) : (s.setQuarter n x).deadPrev = s.deadPrev := rfl
@[simp] theorem State.setQuarter_kept (s : State) (n : Nat) (x : Quarter) : (s.setQuarter n x).kept = s.kept := rfl
@[simp] theorem State.setQuarter_throttled (s : State) (n : Nat) (x : Quarter) : (s.setQuarter n x).throttled = s.throttled := rfl
@[simp] theorem State.setQuarter_nextTeam (s : State) (n : Nat) (x : Quarter) : (s.setQuarter n x).nextTeam = s.nextTeam := rfl
@[simp] theorem State.setQuarter_nextLaunch (s : State) (n : Nat) (x : Quarter) : (s.setQuarter n x).nextLaunch = s.nextLaunch := rfl
@[simp] theorem State.setQuarter_nextCmd (s : State) (n : Nat) (x : Quarter) : (s.setQuarter n x).nextCmd = s.nextCmd := rfl
@[simp] theorem State.setQuarter_mclock (s : State) (n : Nat) (x : Quarter) : (s.setQuarter n x).mclock = s.mclock := rfl

@[simp] theorem State.setSlot_agenda (s : State) (r : SlotRef) (x : Slot) : (s.setSlot r x).agenda = s.agenda := rfl
@[simp] theorem State.setSlot_fresh (s : State) (r : SlotRef) (x : Slot) : (s.setSlot r x).fresh = s.fresh := rfl
@[simp] theorem State.setSlot_cur (s : State) (r : SlotRef) (x : Slot) : (s.setSlot r x).cur = s.cur := rfl
@[simp] theorem State.setSlot_mem (s : State) (r : SlotRef) (x : Slot) : (s.setSlot r x).mem = s.mem := rfl
@[simp] theorem State.setSlot_poison (s : State) (r : SlotRef) (x : Slot) : (s.setSlot r x).poison = s.poison := rfl
@[simp] theorem State.setSlot_cores (s : State) (r : SlotRef) (x : Slot) : (s.setSlot r x).cores = s.cores := rfl
@[simp] theorem State.setSlot_teams (s : State) (r : SlotRef) (x : Slot) : (s.setSlot r x).teams = s.teams := rfl
@[simp] theorem State.setSlot_launches (s : State) (r : SlotRef) (x : Slot) : (s.setSlot r x).launches = s.launches := rfl
@[simp] theorem State.setSlot_past (s : State) (r : SlotRef) (x : Slot) : (s.setSlot r x).past = s.past := rfl
@[simp] theorem State.setSlot_tiles (s : State) (r : SlotRef) (x : Slot) : (s.setSlot r x).tiles = s.tiles := rfl
@[simp] theorem State.setSlot_quarters (s : State) (r : SlotRef) (x : Slot) : (s.setSlot r x).quarters = s.quarters := rfl
@[simp] theorem State.setSlot_mats (s : State) (r : SlotRef) (x : Slot) : (s.setSlot r x).mats = s.mats := rfl
@[simp] theorem State.setSlot_copies (s : State) (r : SlotRef) (x : Slot) : (s.setSlot r x).copies = s.copies := rfl
@[simp] theorem State.setSlot_reds (s : State) (r : SlotRef) (x : Slot) : (s.setSlot r x).reds = s.reds := rfl
@[simp] theorem State.setSlot_tables (s : State) (r : SlotRef) (x : Slot) : (s.setSlot r x).tables = s.tables := rfl
@[simp] theorem State.setSlot_home (s : State) (r : SlotRef) (x : Slot) : (s.setSlot r x).home = s.home := rfl
@[simp] theorem State.setSlot_owners (s : State) (r : SlotRef) (x : Slot) : (s.setSlot r x).owners = s.owners := rfl
@[simp] theorem State.setSlot_rflags (s : State) (r : SlotRef) (x : Slot) : (s.setSlot r x).rflags = s.rflags := rfl
@[simp] theorem State.setSlot_rcbs (s : State) (r : SlotRef) (x : Slot) : (s.setSlot r x).rcbs = s.rcbs := rfl
@[simp] theorem State.setSlot_queues (s : State) (r : SlotRef) (x : Slot) : (s.setSlot r x).queues = s.queues := rfl
@[simp] theorem State.setSlot_visit (s : State) (r : SlotRef) (x : Slot) : (s.setSlot r x).visit = s.visit := rfl
@[simp] theorem State.setSlot_quiet (s : State) (r : SlotRef) (x : Slot) : (s.setSlot r x).quiet = s.quiet := rfl
@[simp] theorem State.setSlot_handles (s : State) (r : SlotRef) (x : Slot) : (s.setSlot r x).handles = s.handles := rfl
@[simp] theorem State.setSlot_panels (s : State) (r : SlotRef) (x : Slot) : (s.setSlot r x).panels = s.panels := rfl
@[simp] theorem State.setSlot_vds (s : State) (r : SlotRef) (x : Slot) : (s.setSlot r x).vds = s.vds := rfl
@[simp] theorem State.setSlot_slice (s : State) (r : SlotRef) (x : Slot) : (s.setSlot r x).slice = s.slice := rfl
@[simp] theorem State.setSlot_saved (s : State) (r : SlotRef) (x : Slot) : (s.setSlot r x).saved = s.saved := rfl
@[simp] theorem State.setSlot_reserved (s : State) (r : SlotRef) (x : Slot) : (s.setSlot r x).reserved = s.reserved := rfl
@[simp] theorem State.setSlot_meters (s : State) (r : SlotRef) (x : Slot) : (s.setSlot r x).meters = s.meters := rfl
@[simp] theorem State.setSlot_used (s : State) (r : SlotRef) (x : Slot) : (s.setSlot r x).used = s.used := rfl
@[simp] theorem State.setSlot_report (s : State) (r : SlotRef) (x : Slot) : (s.setSlot r x).report = s.report := rfl
@[simp] theorem State.setSlot_epoch (s : State) (r : SlotRef) (x : Slot) : (s.setSlot r x).epoch = s.epoch := rfl
@[simp] theorem State.setSlot_highWater (s : State) (r : SlotRef) (x : Slot) : (s.setSlot r x).highWater = s.highWater := rfl
@[simp] theorem State.setSlot_mailbox (s : State) (r : SlotRef) (x : Slot) : (s.setSlot r x).mailbox = s.mailbox := rfl
@[simp] theorem State.setSlot_ready (s : State) (r : SlotRef) (x : Slot) : (s.setSlot r x).ready = s.ready := rfl
@[simp] theorem State.setSlot_train (s : State) (r : SlotRef) (x : Slot) : (s.setSlot r x).train = s.train := rfl
@[simp] theorem State.setSlot_links (s : State) (r : SlotRef) (x : Slot) : (s.setSlot r x).links = s.links := rfl
@[simp] theorem State.setSlot_windows (s : State) (r : SlotRef) (x : Slot) : (s.setSlot r x).windows = s.windows := rfl
@[simp] theorem State.setSlot_routes (s : State) (r : SlotRef) (x : Slot) : (s.setSlot r x).routes = s.routes := rfl
@[simp] theorem State.setSlot_refused (s : State) (r : SlotRef) (x : Slot) : (s.setSlot r x).refused = s.refused := rfl
@[simp] theorem State.setSlot_hdm (s : State) (r : SlotRef) (x : Slot) : (s.setSlot r x).hdm = s.hdm := rfl
@[simp] theorem State.setSlot_hostLines (s : State) (r : SlotRef) (x : Slot) : (s.setSlot r x).hostLines = s.hostLines := rfl
@[simp] theorem State.setSlot_reply (s : State) (r : SlotRef) (x : Slot) : (s.setSlot r x).reply = s.reply := rfl
@[simp] theorem State.setSlot_waiting (s : State) (r : SlotRef) (x : Slot) : (s.setSlot r x).waiting = s.waiting := rfl
@[simp] theorem State.setSlot_errors (s : State) (r : SlotRef) (x : Slot) : (s.setSlot r x).errors = s.errors := rfl
@[simp] theorem State.setSlot_latent (s : State) (r : SlotRef) (x : Slot) : (s.setSlot r x).latent = s.latent := rfl
@[simp] theorem State.setSlot_reportSeq (s : State) (r : SlotRef) (x : Slot) : (s.setSlot r x).reportSeq = s.reportSeq := rfl
@[simp] theorem State.setSlot_deadPrev (s : State) (r : SlotRef) (x : Slot) : (s.setSlot r x).deadPrev = s.deadPrev := rfl
@[simp] theorem State.setSlot_kept (s : State) (r : SlotRef) (x : Slot) : (s.setSlot r x).kept = s.kept := rfl
@[simp] theorem State.setSlot_throttled (s : State) (r : SlotRef) (x : Slot) : (s.setSlot r x).throttled = s.throttled := rfl
@[simp] theorem State.setSlot_nextTeam (s : State) (r : SlotRef) (x : Slot) : (s.setSlot r x).nextTeam = s.nextTeam := rfl
@[simp] theorem State.setSlot_nextLaunch (s : State) (r : SlotRef) (x : Slot) : (s.setSlot r x).nextLaunch = s.nextLaunch := rfl
@[simp] theorem State.setSlot_nextCmd (s : State) (r : SlotRef) (x : Slot) : (s.setSlot r x).nextCmd = s.nextCmd := rfl
@[simp] theorem State.setSlot_mclock (s : State) (r : SlotRef) (x : Slot) : (s.setSlot r x).mclock = s.mclock := rfl

@[simp] theorem State.setRun_agenda (s : State) (r : SlotRef) (x : Run) : (s.setRun r x).agenda = s.agenda := rfl
@[simp] theorem State.setRun_fresh (s : State) (r : SlotRef) (x : Run) : (s.setRun r x).fresh = s.fresh := rfl
@[simp] theorem State.setRun_cur (s : State) (r : SlotRef) (x : Run) : (s.setRun r x).cur = s.cur := rfl
@[simp] theorem State.setRun_mem (s : State) (r : SlotRef) (x : Run) : (s.setRun r x).mem = s.mem := rfl
@[simp] theorem State.setRun_poison (s : State) (r : SlotRef) (x : Run) : (s.setRun r x).poison = s.poison := rfl
@[simp] theorem State.setRun_cores (s : State) (r : SlotRef) (x : Run) : (s.setRun r x).cores = s.cores := rfl
@[simp] theorem State.setRun_teams (s : State) (r : SlotRef) (x : Run) : (s.setRun r x).teams = s.teams := rfl
@[simp] theorem State.setRun_launches (s : State) (r : SlotRef) (x : Run) : (s.setRun r x).launches = s.launches := rfl
@[simp] theorem State.setRun_past (s : State) (r : SlotRef) (x : Run) : (s.setRun r x).past = s.past := rfl
@[simp] theorem State.setRun_tiles (s : State) (r : SlotRef) (x : Run) : (s.setRun r x).tiles = s.tiles := rfl
@[simp] theorem State.setRun_quarters (s : State) (r : SlotRef) (x : Run) : (s.setRun r x).quarters = s.quarters := rfl
@[simp] theorem State.setRun_mats (s : State) (r : SlotRef) (x : Run) : (s.setRun r x).mats = s.mats := rfl
@[simp] theorem State.setRun_copies (s : State) (r : SlotRef) (x : Run) : (s.setRun r x).copies = s.copies := rfl
@[simp] theorem State.setRun_reds (s : State) (r : SlotRef) (x : Run) : (s.setRun r x).reds = s.reds := rfl
@[simp] theorem State.setRun_tables (s : State) (r : SlotRef) (x : Run) : (s.setRun r x).tables = s.tables := rfl
@[simp] theorem State.setRun_home (s : State) (r : SlotRef) (x : Run) : (s.setRun r x).home = s.home := rfl
@[simp] theorem State.setRun_owners (s : State) (r : SlotRef) (x : Run) : (s.setRun r x).owners = s.owners := rfl
@[simp] theorem State.setRun_rflags (s : State) (r : SlotRef) (x : Run) : (s.setRun r x).rflags = s.rflags := rfl
@[simp] theorem State.setRun_rcbs (s : State) (r : SlotRef) (x : Run) : (s.setRun r x).rcbs = s.rcbs := rfl
@[simp] theorem State.setRun_queues (s : State) (r : SlotRef) (x : Run) : (s.setRun r x).queues = s.queues := rfl
@[simp] theorem State.setRun_visit (s : State) (r : SlotRef) (x : Run) : (s.setRun r x).visit = s.visit := rfl
@[simp] theorem State.setRun_quiet (s : State) (r : SlotRef) (x : Run) : (s.setRun r x).quiet = s.quiet := rfl
@[simp] theorem State.setRun_handles (s : State) (r : SlotRef) (x : Run) : (s.setRun r x).handles = s.handles := rfl
@[simp] theorem State.setRun_panels (s : State) (r : SlotRef) (x : Run) : (s.setRun r x).panels = s.panels := rfl
@[simp] theorem State.setRun_vds (s : State) (r : SlotRef) (x : Run) : (s.setRun r x).vds = s.vds := rfl
@[simp] theorem State.setRun_slice (s : State) (r : SlotRef) (x : Run) : (s.setRun r x).slice = s.slice := rfl
@[simp] theorem State.setRun_saved (s : State) (r : SlotRef) (x : Run) : (s.setRun r x).saved = s.saved := rfl
@[simp] theorem State.setRun_reserved (s : State) (r : SlotRef) (x : Run) : (s.setRun r x).reserved = s.reserved := rfl
@[simp] theorem State.setRun_meters (s : State) (r : SlotRef) (x : Run) : (s.setRun r x).meters = s.meters := rfl
@[simp] theorem State.setRun_used (s : State) (r : SlotRef) (x : Run) : (s.setRun r x).used = s.used := rfl
@[simp] theorem State.setRun_report (s : State) (r : SlotRef) (x : Run) : (s.setRun r x).report = s.report := rfl
@[simp] theorem State.setRun_epoch (s : State) (r : SlotRef) (x : Run) : (s.setRun r x).epoch = s.epoch := rfl
@[simp] theorem State.setRun_highWater (s : State) (r : SlotRef) (x : Run) : (s.setRun r x).highWater = s.highWater := rfl
@[simp] theorem State.setRun_mailbox (s : State) (r : SlotRef) (x : Run) : (s.setRun r x).mailbox = s.mailbox := rfl
@[simp] theorem State.setRun_ready (s : State) (r : SlotRef) (x : Run) : (s.setRun r x).ready = s.ready := rfl
@[simp] theorem State.setRun_train (s : State) (r : SlotRef) (x : Run) : (s.setRun r x).train = s.train := rfl
@[simp] theorem State.setRun_links (s : State) (r : SlotRef) (x : Run) : (s.setRun r x).links = s.links := rfl
@[simp] theorem State.setRun_windows (s : State) (r : SlotRef) (x : Run) : (s.setRun r x).windows = s.windows := rfl
@[simp] theorem State.setRun_routes (s : State) (r : SlotRef) (x : Run) : (s.setRun r x).routes = s.routes := rfl
@[simp] theorem State.setRun_refused (s : State) (r : SlotRef) (x : Run) : (s.setRun r x).refused = s.refused := rfl
@[simp] theorem State.setRun_hdm (s : State) (r : SlotRef) (x : Run) : (s.setRun r x).hdm = s.hdm := rfl
@[simp] theorem State.setRun_hostLines (s : State) (r : SlotRef) (x : Run) : (s.setRun r x).hostLines = s.hostLines := rfl
@[simp] theorem State.setRun_reply (s : State) (r : SlotRef) (x : Run) : (s.setRun r x).reply = s.reply := rfl
@[simp] theorem State.setRun_waiting (s : State) (r : SlotRef) (x : Run) : (s.setRun r x).waiting = s.waiting := rfl
@[simp] theorem State.setRun_errors (s : State) (r : SlotRef) (x : Run) : (s.setRun r x).errors = s.errors := rfl
@[simp] theorem State.setRun_latent (s : State) (r : SlotRef) (x : Run) : (s.setRun r x).latent = s.latent := rfl
@[simp] theorem State.setRun_reportSeq (s : State) (r : SlotRef) (x : Run) : (s.setRun r x).reportSeq = s.reportSeq := rfl
@[simp] theorem State.setRun_deadPrev (s : State) (r : SlotRef) (x : Run) : (s.setRun r x).deadPrev = s.deadPrev := rfl
@[simp] theorem State.setRun_kept (s : State) (r : SlotRef) (x : Run) : (s.setRun r x).kept = s.kept := rfl
@[simp] theorem State.setRun_throttled (s : State) (r : SlotRef) (x : Run) : (s.setRun r x).throttled = s.throttled := rfl
@[simp] theorem State.setRun_nextTeam (s : State) (r : SlotRef) (x : Run) : (s.setRun r x).nextTeam = s.nextTeam := rfl
@[simp] theorem State.setRun_nextLaunch (s : State) (r : SlotRef) (x : Run) : (s.setRun r x).nextLaunch = s.nextLaunch := rfl
@[simp] theorem State.setRun_nextCmd (s : State) (r : SlotRef) (x : Run) : (s.setRun r x).nextCmd = s.nextCmd := rfl
@[simp] theorem State.setRun_mclock (s : State) (r : SlotRef) (x : Run) : (s.setRun r x).mclock = s.mclock := rfl

@[simp] theorem State.setWait_agenda (s : State) (r : SlotRef) (x : Wait) : (s.setWait r x).agenda = s.agenda := rfl
@[simp] theorem State.setWait_fresh (s : State) (r : SlotRef) (x : Wait) : (s.setWait r x).fresh = s.fresh := rfl
@[simp] theorem State.setWait_cur (s : State) (r : SlotRef) (x : Wait) : (s.setWait r x).cur = s.cur := rfl
@[simp] theorem State.setWait_mem (s : State) (r : SlotRef) (x : Wait) : (s.setWait r x).mem = s.mem := rfl
@[simp] theorem State.setWait_poison (s : State) (r : SlotRef) (x : Wait) : (s.setWait r x).poison = s.poison := rfl
@[simp] theorem State.setWait_cores (s : State) (r : SlotRef) (x : Wait) : (s.setWait r x).cores = s.cores := rfl
@[simp] theorem State.setWait_teams (s : State) (r : SlotRef) (x : Wait) : (s.setWait r x).teams = s.teams := rfl
@[simp] theorem State.setWait_launches (s : State) (r : SlotRef) (x : Wait) : (s.setWait r x).launches = s.launches := rfl
@[simp] theorem State.setWait_past (s : State) (r : SlotRef) (x : Wait) : (s.setWait r x).past = s.past := rfl
@[simp] theorem State.setWait_tiles (s : State) (r : SlotRef) (x : Wait) : (s.setWait r x).tiles = s.tiles := rfl
@[simp] theorem State.setWait_quarters (s : State) (r : SlotRef) (x : Wait) : (s.setWait r x).quarters = s.quarters := rfl
@[simp] theorem State.setWait_mats (s : State) (r : SlotRef) (x : Wait) : (s.setWait r x).mats = s.mats := rfl
@[simp] theorem State.setWait_copies (s : State) (r : SlotRef) (x : Wait) : (s.setWait r x).copies = s.copies := rfl
@[simp] theorem State.setWait_reds (s : State) (r : SlotRef) (x : Wait) : (s.setWait r x).reds = s.reds := rfl
@[simp] theorem State.setWait_tables (s : State) (r : SlotRef) (x : Wait) : (s.setWait r x).tables = s.tables := rfl
@[simp] theorem State.setWait_home (s : State) (r : SlotRef) (x : Wait) : (s.setWait r x).home = s.home := rfl
@[simp] theorem State.setWait_owners (s : State) (r : SlotRef) (x : Wait) : (s.setWait r x).owners = s.owners := rfl
@[simp] theorem State.setWait_rflags (s : State) (r : SlotRef) (x : Wait) : (s.setWait r x).rflags = s.rflags := rfl
@[simp] theorem State.setWait_rcbs (s : State) (r : SlotRef) (x : Wait) : (s.setWait r x).rcbs = s.rcbs := rfl
@[simp] theorem State.setWait_queues (s : State) (r : SlotRef) (x : Wait) : (s.setWait r x).queues = s.queues := rfl
@[simp] theorem State.setWait_visit (s : State) (r : SlotRef) (x : Wait) : (s.setWait r x).visit = s.visit := rfl
@[simp] theorem State.setWait_quiet (s : State) (r : SlotRef) (x : Wait) : (s.setWait r x).quiet = s.quiet := rfl
@[simp] theorem State.setWait_handles (s : State) (r : SlotRef) (x : Wait) : (s.setWait r x).handles = s.handles := rfl
@[simp] theorem State.setWait_panels (s : State) (r : SlotRef) (x : Wait) : (s.setWait r x).panels = s.panels := rfl
@[simp] theorem State.setWait_vds (s : State) (r : SlotRef) (x : Wait) : (s.setWait r x).vds = s.vds := rfl
@[simp] theorem State.setWait_slice (s : State) (r : SlotRef) (x : Wait) : (s.setWait r x).slice = s.slice := rfl
@[simp] theorem State.setWait_saved (s : State) (r : SlotRef) (x : Wait) : (s.setWait r x).saved = s.saved := rfl
@[simp] theorem State.setWait_reserved (s : State) (r : SlotRef) (x : Wait) : (s.setWait r x).reserved = s.reserved := rfl
@[simp] theorem State.setWait_meters (s : State) (r : SlotRef) (x : Wait) : (s.setWait r x).meters = s.meters := rfl
@[simp] theorem State.setWait_used (s : State) (r : SlotRef) (x : Wait) : (s.setWait r x).used = s.used := rfl
@[simp] theorem State.setWait_report (s : State) (r : SlotRef) (x : Wait) : (s.setWait r x).report = s.report := rfl
@[simp] theorem State.setWait_epoch (s : State) (r : SlotRef) (x : Wait) : (s.setWait r x).epoch = s.epoch := rfl
@[simp] theorem State.setWait_highWater (s : State) (r : SlotRef) (x : Wait) : (s.setWait r x).highWater = s.highWater := rfl
@[simp] theorem State.setWait_mailbox (s : State) (r : SlotRef) (x : Wait) : (s.setWait r x).mailbox = s.mailbox := rfl
@[simp] theorem State.setWait_ready (s : State) (r : SlotRef) (x : Wait) : (s.setWait r x).ready = s.ready := rfl
@[simp] theorem State.setWait_train (s : State) (r : SlotRef) (x : Wait) : (s.setWait r x).train = s.train := rfl
@[simp] theorem State.setWait_links (s : State) (r : SlotRef) (x : Wait) : (s.setWait r x).links = s.links := rfl
@[simp] theorem State.setWait_windows (s : State) (r : SlotRef) (x : Wait) : (s.setWait r x).windows = s.windows := rfl
@[simp] theorem State.setWait_routes (s : State) (r : SlotRef) (x : Wait) : (s.setWait r x).routes = s.routes := rfl
@[simp] theorem State.setWait_refused (s : State) (r : SlotRef) (x : Wait) : (s.setWait r x).refused = s.refused := rfl
@[simp] theorem State.setWait_hdm (s : State) (r : SlotRef) (x : Wait) : (s.setWait r x).hdm = s.hdm := rfl
@[simp] theorem State.setWait_hostLines (s : State) (r : SlotRef) (x : Wait) : (s.setWait r x).hostLines = s.hostLines := rfl
@[simp] theorem State.setWait_reply (s : State) (r : SlotRef) (x : Wait) : (s.setWait r x).reply = s.reply := rfl
@[simp] theorem State.setWait_waiting (s : State) (r : SlotRef) (x : Wait) : (s.setWait r x).waiting = s.waiting := rfl
@[simp] theorem State.setWait_errors (s : State) (r : SlotRef) (x : Wait) : (s.setWait r x).errors = s.errors := rfl
@[simp] theorem State.setWait_latent (s : State) (r : SlotRef) (x : Wait) : (s.setWait r x).latent = s.latent := rfl
@[simp] theorem State.setWait_reportSeq (s : State) (r : SlotRef) (x : Wait) : (s.setWait r x).reportSeq = s.reportSeq := rfl
@[simp] theorem State.setWait_deadPrev (s : State) (r : SlotRef) (x : Wait) : (s.setWait r x).deadPrev = s.deadPrev := rfl
@[simp] theorem State.setWait_kept (s : State) (r : SlotRef) (x : Wait) : (s.setWait r x).kept = s.kept := rfl
@[simp] theorem State.setWait_throttled (s : State) (r : SlotRef) (x : Wait) : (s.setWait r x).throttled = s.throttled := rfl
@[simp] theorem State.setWait_nextTeam (s : State) (r : SlotRef) (x : Wait) : (s.setWait r x).nextTeam = s.nextTeam := rfl
@[simp] theorem State.setWait_nextLaunch (s : State) (r : SlotRef) (x : Wait) : (s.setWait r x).nextLaunch = s.nextLaunch := rfl
@[simp] theorem State.setWait_nextCmd (s : State) (r : SlotRef) (x : Wait) : (s.setWait r x).nextCmd = s.nextCmd := rfl
@[simp] theorem State.setWait_mclock (s : State) (r : SlotRef) (x : Wait) : (s.setWait r x).mclock = s.mclock := rfl

@[simp] theorem State.before_fresh (s : State) (e : Instr) : (s.before e).fresh = s.fresh := rfl
@[simp] theorem State.before_cur (s : State) (e : Instr) : (s.before e).cur = s.cur := rfl
@[simp] theorem State.before_mem (s : State) (e : Instr) : (s.before e).mem = s.mem := rfl
@[simp] theorem State.before_poison (s : State) (e : Instr) : (s.before e).poison = s.poison := rfl
@[simp] theorem State.before_cores (s : State) (e : Instr) : (s.before e).cores = s.cores := rfl
@[simp] theorem State.before_gangs (s : State) (e : Instr) : (s.before e).gangs = s.gangs := rfl
@[simp] theorem State.before_teams (s : State) (e : Instr) : (s.before e).teams = s.teams := rfl
@[simp] theorem State.before_launches (s : State) (e : Instr) : (s.before e).launches = s.launches := rfl
@[simp] theorem State.before_past (s : State) (e : Instr) : (s.before e).past = s.past := rfl
@[simp] theorem State.before_tiles (s : State) (e : Instr) : (s.before e).tiles = s.tiles := rfl
@[simp] theorem State.before_quarters (s : State) (e : Instr) : (s.before e).quarters = s.quarters := rfl
@[simp] theorem State.before_mats (s : State) (e : Instr) : (s.before e).mats = s.mats := rfl
@[simp] theorem State.before_copies (s : State) (e : Instr) : (s.before e).copies = s.copies := rfl
@[simp] theorem State.before_reds (s : State) (e : Instr) : (s.before e).reds = s.reds := rfl
@[simp] theorem State.before_tables (s : State) (e : Instr) : (s.before e).tables = s.tables := rfl
@[simp] theorem State.before_home (s : State) (e : Instr) : (s.before e).home = s.home := rfl
@[simp] theorem State.before_owners (s : State) (e : Instr) : (s.before e).owners = s.owners := rfl
@[simp] theorem State.before_rflags (s : State) (e : Instr) : (s.before e).rflags = s.rflags := rfl
@[simp] theorem State.before_rcbs (s : State) (e : Instr) : (s.before e).rcbs = s.rcbs := rfl
@[simp] theorem State.before_queues (s : State) (e : Instr) : (s.before e).queues = s.queues := rfl
@[simp] theorem State.before_visit (s : State) (e : Instr) : (s.before e).visit = s.visit := rfl
@[simp] theorem State.before_quiet (s : State) (e : Instr) : (s.before e).quiet = s.quiet := rfl
@[simp] theorem State.before_handles (s : State) (e : Instr) : (s.before e).handles = s.handles := rfl
@[simp] theorem State.before_panels (s : State) (e : Instr) : (s.before e).panels = s.panels := rfl
@[simp] theorem State.before_vds (s : State) (e : Instr) : (s.before e).vds = s.vds := rfl
@[simp] theorem State.before_slice (s : State) (e : Instr) : (s.before e).slice = s.slice := rfl
@[simp] theorem State.before_saved (s : State) (e : Instr) : (s.before e).saved = s.saved := rfl
@[simp] theorem State.before_reserved (s : State) (e : Instr) : (s.before e).reserved = s.reserved := rfl
@[simp] theorem State.before_meters (s : State) (e : Instr) : (s.before e).meters = s.meters := rfl
@[simp] theorem State.before_used (s : State) (e : Instr) : (s.before e).used = s.used := rfl
@[simp] theorem State.before_report (s : State) (e : Instr) : (s.before e).report = s.report := rfl
@[simp] theorem State.before_epoch (s : State) (e : Instr) : (s.before e).epoch = s.epoch := rfl
@[simp] theorem State.before_highWater (s : State) (e : Instr) : (s.before e).highWater = s.highWater := rfl
@[simp] theorem State.before_mailbox (s : State) (e : Instr) : (s.before e).mailbox = s.mailbox := rfl
@[simp] theorem State.before_ready (s : State) (e : Instr) : (s.before e).ready = s.ready := rfl
@[simp] theorem State.before_train (s : State) (e : Instr) : (s.before e).train = s.train := rfl
@[simp] theorem State.before_links (s : State) (e : Instr) : (s.before e).links = s.links := rfl
@[simp] theorem State.before_windows (s : State) (e : Instr) : (s.before e).windows = s.windows := rfl
@[simp] theorem State.before_routes (s : State) (e : Instr) : (s.before e).routes = s.routes := rfl
@[simp] theorem State.before_refused (s : State) (e : Instr) : (s.before e).refused = s.refused := rfl
@[simp] theorem State.before_hdm (s : State) (e : Instr) : (s.before e).hdm = s.hdm := rfl
@[simp] theorem State.before_hostLines (s : State) (e : Instr) : (s.before e).hostLines = s.hostLines := rfl
@[simp] theorem State.before_reply (s : State) (e : Instr) : (s.before e).reply = s.reply := rfl
@[simp] theorem State.before_waiting (s : State) (e : Instr) : (s.before e).waiting = s.waiting := rfl
@[simp] theorem State.before_errors (s : State) (e : Instr) : (s.before e).errors = s.errors := rfl
@[simp] theorem State.before_latent (s : State) (e : Instr) : (s.before e).latent = s.latent := rfl
@[simp] theorem State.before_reportSeq (s : State) (e : Instr) : (s.before e).reportSeq = s.reportSeq := rfl
@[simp] theorem State.before_deadPrev (s : State) (e : Instr) : (s.before e).deadPrev = s.deadPrev := rfl
@[simp] theorem State.before_kept (s : State) (e : Instr) : (s.before e).kept = s.kept := rfl
@[simp] theorem State.before_throttled (s : State) (e : Instr) : (s.before e).throttled = s.throttled := rfl
@[simp] theorem State.before_nextTeam (s : State) (e : Instr) : (s.before e).nextTeam = s.nextTeam := rfl
@[simp] theorem State.before_nextLaunch (s : State) (e : Instr) : (s.before e).nextLaunch = s.nextLaunch := rfl
@[simp] theorem State.before_nextCmd (s : State) (e : Instr) : (s.before e).nextCmd = s.nextCmd := rfl
@[simp] theorem State.before_mclock (s : State) (e : Instr) : (s.before e).mclock = s.mclock := rfl

@[simp] theorem State.after_fresh (s : State) (e : Instr) : (s.after e).fresh = s.fresh := rfl
@[simp] theorem State.after_cur (s : State) (e : Instr) : (s.after e).cur = s.cur := rfl
@[simp] theorem State.after_mem (s : State) (e : Instr) : (s.after e).mem = s.mem := rfl
@[simp] theorem State.after_poison (s : State) (e : Instr) : (s.after e).poison = s.poison := rfl
@[simp] theorem State.after_cores (s : State) (e : Instr) : (s.after e).cores = s.cores := rfl
@[simp] theorem State.after_gangs (s : State) (e : Instr) : (s.after e).gangs = s.gangs := rfl
@[simp] theorem State.after_teams (s : State) (e : Instr) : (s.after e).teams = s.teams := rfl
@[simp] theorem State.after_launches (s : State) (e : Instr) : (s.after e).launches = s.launches := rfl
@[simp] theorem State.after_past (s : State) (e : Instr) : (s.after e).past = s.past := rfl
@[simp] theorem State.after_tiles (s : State) (e : Instr) : (s.after e).tiles = s.tiles := rfl
@[simp] theorem State.after_quarters (s : State) (e : Instr) : (s.after e).quarters = s.quarters := rfl
@[simp] theorem State.after_mats (s : State) (e : Instr) : (s.after e).mats = s.mats := rfl
@[simp] theorem State.after_copies (s : State) (e : Instr) : (s.after e).copies = s.copies := rfl
@[simp] theorem State.after_reds (s : State) (e : Instr) : (s.after e).reds = s.reds := rfl
@[simp] theorem State.after_tables (s : State) (e : Instr) : (s.after e).tables = s.tables := rfl
@[simp] theorem State.after_home (s : State) (e : Instr) : (s.after e).home = s.home := rfl
@[simp] theorem State.after_owners (s : State) (e : Instr) : (s.after e).owners = s.owners := rfl
@[simp] theorem State.after_rflags (s : State) (e : Instr) : (s.after e).rflags = s.rflags := rfl
@[simp] theorem State.after_rcbs (s : State) (e : Instr) : (s.after e).rcbs = s.rcbs := rfl
@[simp] theorem State.after_queues (s : State) (e : Instr) : (s.after e).queues = s.queues := rfl
@[simp] theorem State.after_visit (s : State) (e : Instr) : (s.after e).visit = s.visit := rfl
@[simp] theorem State.after_quiet (s : State) (e : Instr) : (s.after e).quiet = s.quiet := rfl
@[simp] theorem State.after_handles (s : State) (e : Instr) : (s.after e).handles = s.handles := rfl
@[simp] theorem State.after_panels (s : State) (e : Instr) : (s.after e).panels = s.panels := rfl
@[simp] theorem State.after_vds (s : State) (e : Instr) : (s.after e).vds = s.vds := rfl
@[simp] theorem State.after_slice (s : State) (e : Instr) : (s.after e).slice = s.slice := rfl
@[simp] theorem State.after_saved (s : State) (e : Instr) : (s.after e).saved = s.saved := rfl
@[simp] theorem State.after_reserved (s : State) (e : Instr) : (s.after e).reserved = s.reserved := rfl
@[simp] theorem State.after_meters (s : State) (e : Instr) : (s.after e).meters = s.meters := rfl
@[simp] theorem State.after_used (s : State) (e : Instr) : (s.after e).used = s.used := rfl
@[simp] theorem State.after_report (s : State) (e : Instr) : (s.after e).report = s.report := rfl
@[simp] theorem State.after_epoch (s : State) (e : Instr) : (s.after e).epoch = s.epoch := rfl
@[simp] theorem State.after_highWater (s : State) (e : Instr) : (s.after e).highWater = s.highWater := rfl
@[simp] theorem State.after_mailbox (s : State) (e : Instr) : (s.after e).mailbox = s.mailbox := rfl
@[simp] theorem State.after_ready (s : State) (e : Instr) : (s.after e).ready = s.ready := rfl
@[simp] theorem State.after_train (s : State) (e : Instr) : (s.after e).train = s.train := rfl
@[simp] theorem State.after_links (s : State) (e : Instr) : (s.after e).links = s.links := rfl
@[simp] theorem State.after_windows (s : State) (e : Instr) : (s.after e).windows = s.windows := rfl
@[simp] theorem State.after_routes (s : State) (e : Instr) : (s.after e).routes = s.routes := rfl
@[simp] theorem State.after_refused (s : State) (e : Instr) : (s.after e).refused = s.refused := rfl
@[simp] theorem State.after_hdm (s : State) (e : Instr) : (s.after e).hdm = s.hdm := rfl
@[simp] theorem State.after_hostLines (s : State) (e : Instr) : (s.after e).hostLines = s.hostLines := rfl
@[simp] theorem State.after_reply (s : State) (e : Instr) : (s.after e).reply = s.reply := rfl
@[simp] theorem State.after_waiting (s : State) (e : Instr) : (s.after e).waiting = s.waiting := rfl
@[simp] theorem State.after_errors (s : State) (e : Instr) : (s.after e).errors = s.errors := rfl
@[simp] theorem State.after_latent (s : State) (e : Instr) : (s.after e).latent = s.latent := rfl
@[simp] theorem State.after_reportSeq (s : State) (e : Instr) : (s.after e).reportSeq = s.reportSeq := rfl
@[simp] theorem State.after_deadPrev (s : State) (e : Instr) : (s.after e).deadPrev = s.deadPrev := rfl
@[simp] theorem State.after_kept (s : State) (e : Instr) : (s.after e).kept = s.kept := rfl
@[simp] theorem State.after_throttled (s : State) (e : Instr) : (s.after e).throttled = s.throttled := rfl
@[simp] theorem State.after_nextTeam (s : State) (e : Instr) : (s.after e).nextTeam = s.nextTeam := rfl
@[simp] theorem State.after_nextLaunch (s : State) (e : Instr) : (s.after e).nextLaunch = s.nextLaunch := rfl
@[simp] theorem State.after_nextCmd (s : State) (e : Instr) : (s.after e).nextCmd = s.nextCmd := rfl
@[simp] theorem State.after_mclock (s : State) (e : Instr) : (s.after e).mclock = s.mclock := rfl

/-! ## Look-ups after updates -/

@[simp] theorem State.core_setCore_same (s : State) (c : Nat) (x : Core) : (s.setCore c x).core c = x := tabGet_tabSet_same _ _ _ _
theorem State.core_setCore_other (s : State) (c j : Nat) (x : Core) (h : j ≠ c) : (s.setCore c x).core j = s.core j :=
  tabGet_tabSet_other _ _ _ _ _ h
@[simp] theorem State.gang_setGang_same (s : State) (g : Nat) (x : Gang) : (s.setGang g x).gang g = x := tabGet_tabSet_same _ _ _ _
theorem State.gang_setGang_other (s : State) (g j : Nat) (x : Gang) (h : j ≠ g) : (s.setGang g x).gang j = s.gang j :=
  tabGet_tabSet_other _ _ _ _ _ h
@[simp] theorem State.tile_setTile_same (s : State) (n : Nat) (x : Tile) : (s.setTile n x).tile n = x := tabGet_tabSet_same _ _ _ _
theorem State.tile_setTile_other (s : State) (n j : Nat) (x : Tile) (h : j ≠ n) : (s.setTile n x).tile j = s.tile j :=
  tabGet_tabSet_other _ _ _ _ _ h
@[simp] theorem State.quarter_setQuarter_same (s : State) (n : Nat) (x : Quarter) : (s.setQuarter n x).quarter n = x := tabGet_tabSet_same _ _ _ _
theorem State.quarter_setQuarter_other (s : State) (n j : Nat) (x : Quarter) (h : j ≠ n) : (s.setQuarter n x).quarter j = s.quarter j :=
  tabGet_tabSet_other _ _ _ _ _ h
@[simp] theorem State.team_setTeam_same (s : State) (n : Nat) (x : Team) : (s.setTeam n x).team? n = some x := tabFind_tabSet_same _ _ _
theorem State.team_setTeam_other (s : State) (n j : Nat) (x : Team) (h : j ≠ n) : (s.setTeam n x).team? j = s.team? j :=
  tabFind_tabSet_other _ _ _ _ h
@[simp] theorem State.launch_setLaunch_same (s : State) (n : Nat) (x : Launch) : (s.setLaunch n x).launch? n = some x := tabFind_tabSet_same _ _ _
theorem State.launch_setLaunch_other (s : State) (n j : Nat) (x : Launch) (h : j ≠ n) : (s.setLaunch n x).launch? j = s.launch? j :=
  tabFind_tabSet_other _ _ _ _ h
@[simp] theorem State.gang_setCore (s : State) (c : Nat) (x : Core) (j : Nat) : (s.setCore c x).gang j = s.gang j := rfl
@[simp] theorem State.tile_setCore (s : State) (c : Nat) (x : Core) (j : Nat) : (s.setCore c x).tile j = s.tile j := rfl
@[simp] theorem State.quarter_setCore (s : State) (c : Nat) (x : Core) (j : Nat) : (s.setCore c x).quarter j = s.quarter j := rfl
@[simp] theorem State.team_setCore (s : State) (c : Nat) (x : Core) (j : Nat) : (s.setCore c x).team? j = s.team? j := rfl
@[simp] theorem State.launch_setCore (s : State) (c : Nat) (x : Core) (j : Nat) : (s.setCore c x).launch? j = s.launch? j := rfl
@[simp] theorem State.core_setGang (s : State) (g : Nat) (x : Gang) (j : Nat) : (s.setGang g x).core j = s.core j := rfl
@[simp] theorem State.tile_setGang (s : State) (g : Nat) (x : Gang) (j : Nat) : (s.setGang g x).tile j = s.tile j := rfl
@[simp] theorem State.quarter_setGang (s : State) (g : Nat) (x : Gang) (j : Nat) : (s.setGang g x).quarter j = s.quarter j := rfl
@[simp] theorem State.team_setGang (s : State) (g : Nat) (x : Gang) (j : Nat) : (s.setGang g x).team? j = s.team? j := rfl
@[simp] theorem State.launch_setGang (s : State) (g : Nat) (x : Gang) (j : Nat) : (s.setGang g x).launch? j = s.launch? j := rfl
@[simp] theorem State.core_setTeam (s : State) (n : Nat) (x : Team) (j : Nat) : (s.setTeam n x).core j = s.core j := rfl
@[simp] theorem State.gang_setTeam (s : State) (n : Nat) (x : Team) (j : Nat) : (s.setTeam n x).gang j = s.gang j := rfl
@[simp] theorem State.tile_setTeam (s : State) (n : Nat) (x : Team) (j : Nat) : (s.setTeam n x).tile j = s.tile j := rfl
@[simp] theorem State.quarter_setTeam (s : State) (n : Nat) (x : Team) (j : Nat) : (s.setTeam n x).quarter j = s.quarter j := rfl
@[simp] theorem State.launch_setTeam (s : State) (n : Nat) (x : Team) (j : Nat) : (s.setTeam n x).launch? j = s.launch? j := rfl
@[simp] theorem State.core_setLaunch (s : State) (n : Nat) (x : Launch) (j : Nat) : (s.setLaunch n x).core j = s.core j := rfl
@[simp] theorem State.gang_setLaunch (s : State) (n : Nat) (x : Launch) (j : Nat) : (s.setLaunch n x).gang j = s.gang j := rfl
@[simp] theorem State.tile_setLaunch (s : State) (n : Nat) (x : Launch) (j : Nat) : (s.setLaunch n x).tile j = s.tile j := rfl
@[simp] theorem State.quarter_setLaunch (s : State) (n : Nat) (x : Launch) (j : Nat) : (s.setLaunch n x).quarter j = s.quarter j := rfl
@[simp] theorem State.team_setLaunch (s : State) (n : Nat) (x : Launch) (j : Nat) : (s.setLaunch n x).team? j = s.team? j := rfl
@[simp] theorem State.core_setTile (s : State) (n : Nat) (x : Tile) (j : Nat) : (s.setTile n x).core j = s.core j := rfl
@[simp] theorem State.gang_setTile (s : State) (n : Nat) (x : Tile) (j : Nat) : (s.setTile n x).gang j = s.gang j := rfl
@[simp] theorem State.quarter_setTile (s : State) (n : Nat) (x : Tile) (j : Nat) : (s.setTile n x).quarter j = s.quarter j := rfl
@[simp] theorem State.team_setTile (s : State) (n : Nat) (x : Tile) (j : Nat) : (s.setTile n x).team? j = s.team? j := rfl
@[simp] theorem State.launch_setTile (s : State) (n : Nat) (x : Tile) (j : Nat) : (s.setTile n x).launch? j = s.launch? j := rfl
@[simp] theorem State.core_setQuarter (s : State) (n : Nat) (x : Quarter) (j : Nat) : (s.setQuarter n x).core j = s.core j := rfl
@[simp] theorem State.gang_setQuarter (s : State) (n : Nat) (x : Quarter) (j : Nat) : (s.setQuarter n x).gang j = s.gang j := rfl
@[simp] theorem State.tile_setQuarter (s : State) (n : Nat) (x : Quarter) (j : Nat) : (s.setQuarter n x).tile j = s.tile j := rfl
@[simp] theorem State.team_setQuarter (s : State) (n : Nat) (x : Quarter) (j : Nat) : (s.setQuarter n x).team? j = s.team? j := rfl
@[simp] theorem State.launch_setQuarter (s : State) (n : Nat) (x : Quarter) (j : Nat) : (s.setQuarter n x).launch? j = s.launch? j := rfl
@[simp] theorem State.core_setSlot (s : State) (r : SlotRef) (x : Slot) (j : Nat) : (s.setSlot r x).core j = s.core j := rfl
@[simp] theorem State.tile_setSlot (s : State) (r : SlotRef) (x : Slot) (j : Nat) : (s.setSlot r x).tile j = s.tile j := rfl
@[simp] theorem State.quarter_setSlot (s : State) (r : SlotRef) (x : Slot) (j : Nat) : (s.setSlot r x).quarter j = s.quarter j := rfl
@[simp] theorem State.team_setSlot (s : State) (r : SlotRef) (x : Slot) (j : Nat) : (s.setSlot r x).team? j = s.team? j := rfl
@[simp] theorem State.launch_setSlot (s : State) (r : SlotRef) (x : Slot) (j : Nat) : (s.setSlot r x).launch? j = s.launch? j := rfl
@[simp] theorem State.core_setRun (s : State) (r : SlotRef) (x : Run) (j : Nat) : (s.setRun r x).core j = s.core j := rfl
@[simp] theorem State.tile_setRun (s : State) (r : SlotRef) (x : Run) (j : Nat) : (s.setRun r x).tile j = s.tile j := rfl
@[simp] theorem State.quarter_setRun (s : State) (r : SlotRef) (x : Run) (j : Nat) : (s.setRun r x).quarter j = s.quarter j := rfl
@[simp] theorem State.team_setRun (s : State) (r : SlotRef) (x : Run) (j : Nat) : (s.setRun r x).team? j = s.team? j := rfl
@[simp] theorem State.launch_setRun (s : State) (r : SlotRef) (x : Run) (j : Nat) : (s.setRun r x).launch? j = s.launch? j := rfl
@[simp] theorem State.core_setWait (s : State) (r : SlotRef) (x : Wait) (j : Nat) : (s.setWait r x).core j = s.core j := rfl
@[simp] theorem State.tile_setWait (s : State) (r : SlotRef) (x : Wait) (j : Nat) : (s.setWait r x).tile j = s.tile j := rfl
@[simp] theorem State.quarter_setWait (s : State) (r : SlotRef) (x : Wait) (j : Nat) : (s.setWait r x).quarter j = s.quarter j := rfl
@[simp] theorem State.team_setWait (s : State) (r : SlotRef) (x : Wait) (j : Nat) : (s.setWait r x).team? j = s.team? j := rfl
@[simp] theorem State.launch_setWait (s : State) (r : SlotRef) (x : Wait) (j : Nat) : (s.setWait r x).launch? j = s.launch? j := rfl
@[simp] theorem State.core_before (s : State) (e : Instr) (j : Nat) : (s.before e).core j = s.core j := rfl
@[simp] theorem State.gang_before (s : State) (e : Instr) (j : Nat) : (s.before e).gang j = s.gang j := rfl
@[simp] theorem State.tile_before (s : State) (e : Instr) (j : Nat) : (s.before e).tile j = s.tile j := rfl
@[simp] theorem State.quarter_before (s : State) (e : Instr) (j : Nat) : (s.before e).quarter j = s.quarter j := rfl
@[simp] theorem State.team_before (s : State) (e : Instr) (j : Nat) : (s.before e).team? j = s.team? j := rfl
@[simp] theorem State.launch_before (s : State) (e : Instr) (j : Nat) : (s.before e).launch? j = s.launch? j := rfl
@[simp] theorem State.core_after (s : State) (e : Instr) (j : Nat) : (s.after e).core j = s.core j := rfl
@[simp] theorem State.gang_after (s : State) (e : Instr) (j : Nat) : (s.after e).gang j = s.gang j := rfl
@[simp] theorem State.tile_after (s : State) (e : Instr) (j : Nat) : (s.after e).tile j = s.tile j := rfl
@[simp] theorem State.quarter_after (s : State) (e : Instr) (j : Nat) : (s.after e).quarter j = s.quarter j := rfl
@[simp] theorem State.team_after (s : State) (e : Instr) (j : Nat) : (s.after e).team? j = s.team? j := rfl
@[simp] theorem State.launch_after (s : State) (e : Instr) (j : Nat) : (s.after e).launch? j = s.launch? j := rfl

@[simp] theorem Gang.slot_setSlot_same (G : Gang) (b : Bool) (x : Slot) : (G.setSlot b x).slot b = x := by cases b <;> rfl
@[simp] theorem Gang.slot_setSlot_other (G : Gang) (b : Bool) (x : Slot) : (G.setSlot b x).slot (!b) = G.slot (!b) := by cases b <;> rfl
@[simp] theorem Gang.setSlot_setSlot (G : Gang) (b : Bool) (x y : Slot) : (G.setSlot b x).setSlot b y = G.setSlot b y := by cases b <;> rfl
@[simp] theorem Gang.setSlot_self (G : Gang) (b : Bool) : G.setSlot b (G.slot b) = G := by cases b <;> rfl
@[simp] theorem Gang.setSlot_team (G : Gang) (b : Bool) (x : Slot) : (G.setSlot b x).team = G.team := by cases b <;> rfl
@[simp] theorem Gang.setSlot_num (G : Gang) (b : Bool) (x : Slot) : (G.setSlot b x).num = G.num := by cases b <;> rfl
@[simp] theorem Gang.setSlot_role (G : Gang) (b : Bool) (x : Slot) : (G.setSlot b x).role = G.role := by cases b <;> rfl
@[simp] theorem Gang.setSlot_width (G : Gang) (b : Bool) (x : Slot) : (G.setSlot b x).width = G.width := by cases b <;> rfl
@[simp] theorem Gang.setSlot_lanes (G : Gang) (b : Bool) (x : Slot) : (G.setSlot b x).lanes = G.lanes := by cases b <;> rfl
@[simp] theorem Gang.setSlot_k (G : Gang) (b : Bool) (x : Slot) : (G.setSlot b x).k = G.k := by cases b <;> rfl
@[simp] theorem Gang.setSlot_stack (G : Gang) (b : Bool) (x : Slot) : (G.setSlot b x).stack = G.stack := by cases b <;> rfl
@[simp] theorem Gang.setSlot_nextTok (G : Gang) (b : Bool) (x : Slot) : (G.setSlot b x).nextTok = G.nextTok := by cases b <;> rfl
@[simp] theorem Gang.setSlot_age (G : Gang) (b : Bool) (x : Slot) : (G.setSlot b x).age = G.age := by cases b <;> rfl
@[simp] theorem Gang.setSlot_starve (G : Gang) (b : Bool) (x : Slot) : (G.setSlot b x).starve = G.starve := by cases b <;> rfl
@[simp] theorem Gang.setSlot_stalls (G : Gang) (b : Bool) (x : Slot) : (G.setSlot b x).stalls = G.stalls := by cases b <;> rfl
@[simp] theorem Gang.setSlot_stalls1 (G : Gang) (b : Bool) (x : Slot) : (G.setSlot b x).stalls1 = G.stalls1 := by cases b <;> rfl
@[simp] theorem Gang.setSlot_loads (G : Gang) (b : Bool) (x : Slot) : (G.setSlot b x).loads = G.loads := by cases b <;> rfl
@[simp] theorem Gang.setSlot_stores (G : Gang) (b : Bool) (x : Slot) : (G.setSlot b x).stores = G.stores := by cases b <;> rfl
@[simp] theorem Gang.setSlot_fence (G : Gang) (b : Bool) (x : Slot) : (G.setSlot b x).fence = G.fence := by cases b <;> rfl
@[simp] theorem Gang.setSlot_acq (G : Gang) (b : Bool) (x : Slot) : (G.setSlot b x).acq = G.acq := by cases b <;> rfl
@[simp] theorem Gang.setSlot_batches (G : Gang) (b : Bool) (x : Slot) : (G.setSlot b x).batches = G.batches := by cases b <;> rfl
@[simp] theorem Gang.setSlot_co (G : Gang) (b : Bool) (x : Slot) : (G.setSlot b x).co = G.co := by cases b <;> rfl
@[simp] theorem Gang.setSlot_rebuild (G : Gang) (b : Bool) (x : Slot) : (G.setSlot b x).rebuild = G.rebuild := by cases b <;> rfl
@[simp] theorem Gang.setSlot_tlbi (G : Gang) (b : Bool) (x : Slot) : (G.setSlot b x).tlbi = G.tlbi := by cases b <;> rfl
@[simp] theorem Gang.setSlot_live (G : Gang) (b : Bool) (x : Slot) : (G.setSlot b x).live = G.live := by cases b <;> rfl
@[simp] theorem Gang.setSlot_bound (G : Gang) (b : Bool) (x : Slot) : (G.setSlot b x).bound = G.bound := by cases b <;> rfl
@[simp] theorem Gang.setSlot_window (G : Gang) (b : Bool) (x : Slot) : (G.setSlot b x).window = G.window := by cases b <;> rfl
@[simp] theorem Gang.setSlot_govb (G : Gang) (b : Bool) (x : Slot) : (G.setSlot b x).govb = G.govb := by cases b <;> rfl
@[simp] theorem Gang.setSlot_lane (G : Gang) (b : Bool) (x : Slot) (l : Nat) : (G.setSlot b x).lane l = G.lane l := by cases b <;> rfl

@[simp] theorem State.gang_setSlot_same (s : State) (r : SlotRef) (x : Slot) : (s.setSlot r x).gang r.gang = (s.gang r.gang).setSlot r.b x :=
  State.gang_setGang_same _ _ _
theorem State.gang_setSlot_other (s : State) (r : SlotRef) (x : Slot) (g : Nat) (h : g ≠ r.gang) : (s.setSlot r x).gang g = s.gang g :=
  State.gang_setGang_other _ _ _ _ h
@[simp] theorem State.slot_setSlot_same (s : State) (r : SlotRef) (x : Slot) : (s.setSlot r x).slot r = x := by simp [State.slot]
@[simp] theorem State.slot_setGang_same (s : State) (r : SlotRef) (G : Gang) : (s.setGang r.gang G).slot r = G.slot r.b := by simp [State.slot]
@[simp] theorem State.gang_setRun_same (s : State) (r : SlotRef) (R : Run) :
    (s.setRun r R).gang r.gang = (s.gang r.gang).setSlot r.b { s.slot r with run := some R } := State.gang_setSlot_same _ _ _
theorem State.gang_setRun_other (s : State) (r : SlotRef) (R : Run) (g : Nat) (h : g ≠ r.gang) : (s.setRun r R).gang g = s.gang g :=
  State.gang_setSlot_other _ _ _ _ h
@[simp] theorem State.slot_setRun_same (s : State) (r : SlotRef) (R : Run) : (s.setRun r R).slot r = { s.slot r with run := some R } :=
  State.slot_setSlot_same _ _ _
@[simp] theorem State.slot_setWait_same (s : State) (r : SlotRef) (w : Wait) : (s.setWait r w).slot r = { s.slot r with wait := w } :=
  State.slot_setSlot_same _ _ _

end Machine
end Sys2Proof
end

