-- ==== Sys2Proof/Laws/Issue.lean ====
section
/-! SUPPORT. Laws of issue: what its counting changes, what the issue of a body word or a terminator answers, and what it leaves. -/

set_option Elab.async false

namespace Sys2Proof
namespace Machine

/-! ## The counting of an issue -/

theorem Beside.refl (s : State) : Beside s s := ⟨rfl, fun _ => rfl⟩

theorem Beside.trans {s t u : State} (h : Beside s t) (k : Beside t u) : Beside s u :=
  ⟨k.rest.trans h.rest, fun c => (k.cores c).trans (h.cores c)⟩

theorem Aside.refl (s : State) : Aside s s := ⟨Beside.refl s, fun _ => rfl⟩

theorem Aside.trans {s t u : State} (h : Aside s t) (k : Aside t u) : Aside s u :=
  ⟨h.toBeside.trans k.toBeside, fun g => (k.gangs g).trans (h.gangs g)⟩

theorem setCore_still (s : State) (k : Nat) (x : Core) (h : x.still = (s.core k).still) (c : Nat) :
    ((s.setCore k x).core c).still = (s.core c).still := by
  by_cases e : c = k
  · subst e; simp [h]
  · rw [State.core_setCore_other _ _ _ _ e]

theorem Gang.slot_still_stamp (G : Gang) (b : Bool) (n : Nat) : (G.setSlot b { G.slot b with stamp := n }).still = G.still := by
  cases b <;> rfl

theorem setGang_still (s : State) (k : Nat) (x : Gang) (h : x.still = (s.gang k).still) (g : Nat) :
    ((s.setGang k x).gang g).still = (s.gang g).still := by
  by_cases e : g = k
  · subst e; simp [h]
  · rw [State.gang_setGang_other _ _ _ _ e]

/-- The counting of an issue leaves everything else. -/
theorem aside_issued (s : State) (r : SlotRef) (words cyc : Nat) (p : Nat × Nat) : Aside s (issued s r words cyc p) := by
  unfold issued
  dsimp only
  refine ⟨⟨rfl, fun c => ?_⟩, fun g => ?_⟩
  · simp only [State.core_setGang]
    refine setCore_still s _ _ ?_ c
    rfl
  · refine setGang_still _ _ _ ?_ g
    simp only [State.gang_setCore]
    generalize s.gang r.gang = G
    cases r.b <;> cases G.rebuild.isSome <;> simp [Gang.setSlot, Gang.slot, Gang.still, Slot.still, Function.comp_def]

/-! ## Body words -/

/-- A body word that passes the checks, and whose effect is done with nothing that it waits for, answers the state after its effect, its turn and its
counting. -/
theorem bodyWord_done {w : WordInfo} {s : State} {R : Run} (h : Issues w s R) {eff : State → SlotRef → Run → Mask → Eff} {u : State}
    (he : eff (enterWord w s s.cur R (participants s s.cur R w.hd w.memory)).1 s.cur
      (enterWord w s s.cur R (participants s s.cur R w.hd w.memory)).2 (participants s s.cur R w.hd w.memory) = .done u)
    (hu : (u.slot s.cur).wait ≠ .unready) :
    bodyWord w eff s = .next (issued (advance u s.cur w.hd.sw) s.cur 1 (w.cyc + extraReads w.srcs) (R.pos + 1, R.hdr.ord)) := by
  obtain ⟨h1, h2, h3, h4, h5, h6, h7, h8⟩ := h
  unfold bodyWord
  simp only [h1, h2, h3, h4, h5, h6, h7, h8, he, hu, Bool.false_eq_true, Bool.not_true, if_false]

/-- A body word that passes the checks, and whose effect holds it at issue. -/
theorem bodyWord_hold {w : WordInfo} {s : State} {R : Run} (h : Issues w s R) {eff : State → SlotRef → Run → Mask → Eff} {u : State}
    (he : eff (enterWord w s s.cur R (participants s s.cur R w.hd w.memory)).1 s.cur
      (enterWord w s s.cur R (participants s s.cur R w.hd w.memory)).2 (participants s s.cur R w.hd w.memory) = .hold u) :
    bodyWord w eff s = .next (issued u s.cur 1 (w.cyc + extraReads w.srcs) (R.pos + 1, R.hdr.ord)) := by
  obtain ⟨h1, h2, h3, h4, h5, h6, h7, h8⟩ := h
  unfold bodyWord
  simp only [h1, h2, h3, h4, h5, h6, h7, h8, he, Bool.false_eq_true, Bool.not_true, if_false]

theorem undoRows_view (G : Gang) (R : Run) (rows : List Nat) :
    (undoRows G R rows).view = R.view ∧ (undoRows G R rows).pos = R.pos ∧ (undoRows G R rows).pends = R.pends := by
  unfold undoRows
  split
  · suffices h : ∀ (l : List Nat) (R : Run),
        let X := l.foldl (fun R n => if R.rows.contains n then R
          else { R with rows := R.rows ++ [n], undoRows := R.undoRows ++ [copyRow G n] }) R
        X.view = R.view ∧ X.pos = R.pos ∧ X.pends = R.pends from h rows R
    intro l
    induction l with
    | nil => intro R; exact ⟨rfl, rfl, rfl⟩
    | cons n l ih =>
      intro R
      simp only [List.foldl_cons]
      split
      · exact ih R
      · exact ih _
  · exact ⟨rfl, rfl, rfl⟩

theorem undoPF_view (G : Gang) (R : Run) (m : Mask) :
    (undoPF G R m).view = R.view ∧ (undoPF G R m).pos = R.pos ∧ (undoPF G R m).pends = R.pends := by
  unfold undoPF
  split
  · suffices h : ∀ (l : List Nat) (R : Run),
        let X := l.foldl (fun R l => match tabFind R.undoPF l with
          | some _ => R
          | none => { R with undoPF := tabSet R.undoPF l ((G.lane l).preds, (G.lane l).fpsr) }) R
        X.view = R.view ∧ X.pos = R.pos ∧ X.pends = R.pends from h _ R
    intro l
    induction l with
    | nil => intro R; exact ⟨rfl, rfl, rfl⟩
    | cons n l ih =>
      intro R
      simp only [List.foldl_cons]
      split
      · exact ih R
      · exact ih _
  · exact ⟨rfl, rfl, rfl⟩

/-- Entering a word changes no more of its trace than the undo copies and the counts. -/
theorem enterWord_run (w : WordInfo) (s : State) (r : SlotRef) (R : Run) (m : Mask) :
    (enterWord w s r R m).2.view = R.view ∧ (enterWord w s r R m).2.pos = R.pos ∧ (enterWord w s r R m).2.pends = R.pends := by
  have h1 := undoRows_view (s.gang r.gang) R (w.dsts.flatMap rowsOf)
  have h2 := undoPF_view (s.gang r.gang) (undoRows (s.gang r.gang) R (w.dsts.flatMap rowsOf)) m
  show _ ∧ _ ∧ _
  unfold enterWord
  dsimp only
  split
  · exact ⟨h2.1.trans h1.1, h2.2.1.trans h1.2.1, h2.2.2.trans h1.2.2⟩
  · exact ⟨h1.1, h1.2.1, h1.2.2⟩

/-- Entering a word changes, of the state, its trace and the recency of the overflow window. -/
theorem enterWord_state (w : WordInfo) (s : State) (r : SlotRef) (R : Run) (m : Mask) :
    ∃ win, (enterWord w s r R m).1 =
      (s.setGang r.gang { s.gang r.gang with window := win }).setRun r (enterWord w s r R m).2
      ∨ (enterWord w s r R m).1 = s.setRun r (enterWord w s r R m).2 := by
  refine ⟨(touchWindow (s.gang r.gang) w.srcs w.dsts).window, ?_⟩
  unfold enterWord
  dsimp only
  split
  · right; rfl
  · left; rfl

theorem Gang.view_of_still {G H : Gang} (b : Bool) (h : G.still = H.still) : G.view b = H.view b := by
  cases G; cases H
  cases b <;> simp_all [Gang.still, Gang.view, Gang.setSlot, Slot.still]

theorem Gang.slot_of_still {G H : Gang} (b : Bool) (h : G.still = H.still) : (G.slot b).still = (H.slot b).still := by
  cases b
  · exact congrArg Gang.a h
  · exact congrArg Gang.b h

theorem Gang.lane_of_still {G H : Gang} (h : G.still = H.still) (l : Nat) : G.lane l = H.lane l := by
  have := congrArg Gang.lanes h
  simp only [Gang.still] at this
  simp only [Gang.lane, this]

theorem Slot.view_of_still {X Y : Slot} (h : X.still = Y.still) : X.view = Y.view ∧ X.run = Y.run ∧ X.wait = Y.wait := by
  cases X; cases Y; simp_all [Slot.still, Slot.view]

theorem kreg_of_still {s t : State} {r : SlotRef} (h : (t.gang r.gang).still = (s.gang r.gang).still) (k : Nat) : kreg t r k = kreg s r k := by
  have := congrArg Gang.k h
  simp only [Gang.still] at this
  simp only [kreg, this]

/-- The state in which the gang at the cursor has new lanes, uniform registers and window, and its slot a new trace. -/
def passed (s : State) (r : SlotRef) (lanes : Lanes) (k : KRegs) (win : List (Nat × Bool)) (R : Run) : State :=
  (s.setGang r.gang { s.gang r.gang with lanes, k, window := win }).setRun r R

theorem Gang.slot_with (G : Gang) (lanes : Lanes) (k : KRegs) (win : List (Nat × Bool)) (b : Bool) :
    ({ G with lanes, k, window := win } : Gang).slot b = G.slot b := by cases b <;> rfl

theorem passed_slot (s : State) (r : SlotRef) (lanes : Lanes) (k : KRegs) (win : List (Nat × Bool)) (R : Run) :
    (passed s r lanes k win R).slot r = { s.slot r with run := some R } := by
  rw [passed, State.slot_setRun_same, State.slot_setGang_same, Gang.slot_with]
  rfl

theorem passed_gang (s : State) (r : SlotRef) (lanes : Lanes) (k : KRegs) (win : List (Nat × Bool)) (R : Run) :
    (passed s r lanes k win R).gang r.gang =
      { (s.gang r.gang).setSlot r.b { s.slot r with run := some R } with lanes, k, window := win } := by
  rw [passed, State.gang_setRun_same, State.gang_setGang_same, State.slot_setGang_same, Gang.slot_with]
  simp only [State.slot]
  generalize s.gang r.gang = G
  cases r.b <;> rfl

/-- A slot that runs a trace waits for nothing. -/
theorem liveRun_wait {s : State} {r : SlotRef} {R : Run} (h : liveRun s r = some R) : (s.slot r).wait = .none := by
  unfold liveRun at h
  dsimp only at h
  split at h
  · exact absurd h (by simp)
  · split at h
    · assumption
    · exact absurd h (by simp)

theorem Issues.passes {w : WordInfo} {s : State} {R : Run} (h : Issues w s R) (lanes : Lanes) (k : KRegs) (win : List (Nat × Bool)) (R' : Run) :
    ((passed s s.cur lanes k win R').slot s.cur).wait ≠ .unready := by
  rw [passed_slot]
  simp [liveRun_wait h.runs]

theorem advance_some (s : State) (r : SlotRef) (sw : Bool) {R : Run} (h : (s.slot r).run = some R) :
    advance s r sw = s.setSlot r { s.slot r with run := some { R with pos := R.pos + 1 },
                                                 wait := if sw && !R.pends.isEmpty then .landing else .none } := by
  simp only [advance, h]

/-- What the passing of a word leaves, when its effect has changed lanes, uniform registers and its trace only. -/
theorem passes_of (s : State) (R : Run) (sw : Bool) (lanes : Lanes) (k : KRegs) (win : List (Nat × Bool)) (R' : Run)
    (hv : R'.view = R.view) (hp : R'.pos = R.pos) (n c : Nat) (at_ : Nat × Nat) :
    Passes s (issued (advance (passed s s.cur lanes k win R') s.cur sw) s.cur n c at_) R sw
      (fun l => (lanes.toList[l]?).getD Lane.reset) (fun i => ((k.toList[i]?).getD 0).toNat) R'.pends := by
  have hA := aside_issued (advance (passed s s.cur lanes k win R') s.cur sw) s.cur n c at_
  have hr : ((passed s s.cur lanes k win R').slot s.cur).run = some R' := by simp [passed]
  have hadv := advance_some (passed s s.cur lanes k win R') s.cur sw hr
  have hslot : (advance (passed s s.cur lanes k win R') s.cur sw).slot s.cur =
      { s.slot s.cur with run := some { R' with pos := R'.pos + 1 }, wait := if sw && !R'.pends.isEmpty then .landing else .none } := by
    rw [hadv]
    rw [State.slot_setSlot_same, passed_slot]
  have hgang : (advance (passed s s.cur lanes k win R') s.cur sw).gang s.cur.gang =
      { (s.gang s.cur.gang).setSlot s.cur.b ((advance (passed s s.cur lanes k win R') s.cur sw).slot s.cur) with
        lanes, k, window := win } := by
    rw [hslot, hadv, State.gang_setSlot_same, passed_gang]
    rw [passed_slot]
    cases s.cur.b <;> simp [Gang.setSlot]
  generalize hu : advance (passed s s.cur lanes k win R') s.cur sw = u at *
  have hS := Slot.view_of_still (Gang.slot_of_still s.cur.b (hA.gangs s.cur.gang))
  change _ = (u.slot s.cur).view ∧ _ = (u.slot s.cur).run ∧ _ = (u.slot s.cur).wait at hS
  have hother : ∀ g, g ≠ s.cur.gang → u.gang g = s.gang g := by
    intro g hg
    rw [hadv, State.gang_setSlot_other _ _ _ _ hg]
    simp only [passed]
    rw [State.gang_setRun_other _ _ _ _ hg, State.gang_setGang_other _ _ _ _ hg]
  have hbes : Beside s u := by
    rw [hadv]
    exact ⟨rfl, fun _ => rfl⟩
  refine ⟨⟨?_, ?_, ?_, ?_, ?_⟩, ?_, ?_, hbes.trans hA.toBeside⟩
  · intro l _
    rw [Gang.lane_of_still (hA.gangs s.cur.gang), hgang]
    rfl
  · intro i _
    rw [kreg_of_still (hA.gangs s.cur.gang)]
    unfold kreg
    rw [hgang]
  · refine ⟨{ R' with pos := R'.pos + 1 }, ?_, ?_, rfl, hv⟩
    · exact hS.2.1.trans (by rw [hslot])
    · rw [hp]
  · exact hS.2.2.trans (by rw [hslot])
  · exact hS.1.trans (by rw [hslot]; rfl)
  · rw [Gang.view_of_still s.cur.b (hA.gangs s.cur.gang), hgang]
    cases s.cur.b <;> rfl
  · intro g hg
    rw [hA.gangs g, hother g hg]

theorem tabSet_tabSet {α : Type} (t : Tab α) (k : Nat) (a b : α) : tabSet (tabSet t k a) k b = tabSet t k b := by
  induction t with
  | nil => simp [tabSet]
  | cons e t ih =>
    obtain ⟨k', v⟩ := e
    simp only [tabSet]
    split
    · simp [tabSet]
    · split
      · simp [tabSet]
      · next h1 h2 => simp [tabSet, h1, h2, ih]

@[simp] theorem State.setGang_setGang (s : State) (g : Nat) (a b : Gang) : (s.setGang g a).setGang g b = s.setGang g b := by
  simp [State.setGang, tabSet_tabSet]

theorem setRun_eq (s : State) (r : SlotRef) (R : Run) :
    s.setRun r R = s.setGang r.gang ((s.gang r.gang).setSlot r.b { s.slot r with run := some R }) := rfl

theorem passed_eq (s : State) (r : SlotRef) (lanes : Lanes) (k : KRegs) (win : List (Nat × Bool)) (R : Run) :
    passed s r lanes k win R =
      s.setGang r.gang { (s.gang r.gang).setSlot r.b { s.slot r with run := some R } with lanes, k, window := win } := by
  rw [← passed_gang, passed, setRun_eq, State.setGang_setGang, State.gang_setGang_same, State.gang_setGang_same]

theorem with_self (s : State) (r : SlotRef) (R : Run) :
    passed s r (s.gang r.gang).lanes (s.gang r.gang).k (s.gang r.gang).window R = s.setRun r R := by
  rw [passed_eq, setRun_eq]
  cases r.b <;> rfl

/-- What entering a word leaves: its trace, and the recency of the overflow window. -/
theorem enterWord_passed (w : WordInfo) (s : State) (r : SlotRef) (R : Run) (m : Mask) :
    ∃ win, (enterWord w s r R m).1 =
      passed s r (s.gang r.gang).lanes (s.gang r.gang).k win (enterWord w s r R m).2 := by
  unfold enterWord
  dsimp only
  split
  · exact ⟨_, (with_self s r _).symm⟩
  · exact ⟨(touchWindow (s.gang r.gang) w.srcs w.dsts).window, rfl⟩

theorem passed_passed (s : State) (r : SlotRef) (L L' : Lanes) (k k' : KRegs) (win win' : List (Nat × Bool)) (R R' : Run) :
    passed (passed s r L k win R) r L' k' win' R' = passed s r L' k' win' R' := by
  rw [passed_eq _ _ L', passed_eq _ _ L', passed_slot, passed_gang, passed_eq, State.setGang_setGang]
  congr 1
  cases r.b <;> rfl

theorem fixedEff_eq (p : State) (r : SlotRef) (R : Run) (m : Mask) (f : Nat → Lane → List LW) :
    fixedEff p r R m f =
      passed p r (mapLanes m (fun l L => (f l L).foldl Lane.apply L) (p.gang r.gang).lanes) (p.gang r.gang).k (p.gang r.gang).window
        { R with pends := cancelAll R.pends m (fun l => f l ((p.gang r.gang).lane l)) } := rfl

theorem longEff_eq (p : State) (r : SlotRef) (R : Run) (m : Mask) (f : Nat → List LW) :
    longEff p r R m f = passed p r (p.gang r.gang).lanes (p.gang r.gang).k (p.gang r.gang).window
      { R with pends := cancelAll R.pends m f ++ (Mask.lanes m).flatMap (fun l => (f l).flatMap (pendOf l)) } :=
  (with_self _ _ _).symm

theorem uniEff_eq (p : State) (r : SlotRef) (R : Run) (i v : Nat) :
    uniEff p r R i v = passed p r (p.gang r.gang).lanes
      (Vector.ofFn (fun j => if j.val = i then BitVec.ofNat 64 v else (p.gang r.gang).k[j])) (p.gang r.gang).window
      { R with pends := cancelUni R.pends i } := rfl

theorem passed_lane (s : State) (r : SlotRef) (L : Lanes) (k : KRegs) (win : List (Nat × Bool)) (R : Run) (l : Nat) :
    ((passed s r L k win R).gang r.gang).lane l = (L.toList[l]?).getD Lane.reset := by
  rw [passed_gang]; rfl

theorem fixedEff_passed (s : State) (r : SlotRef) (L : Lanes) (k : KRegs) (win : List (Nat × Bool)) (R R' : Run) (m : Mask)
    (f : Nat → Lane → List LW) :
    fixedEff (passed s r L k win R) r R' m f =
      passed s r (mapLanes m (fun l L => (f l L).foldl Lane.apply L) L) k win
        { R' with pends := cancelAll R'.pends m (fun l => f l ((L.toList[l]?).getD Lane.reset)) } := by
  rw [fixedEff_eq, passed_passed]
  simp only [passed_lane]
  rw [passed_gang]

theorem longEff_passed (s : State) (r : SlotRef) (L : Lanes) (k : KRegs) (win : List (Nat × Bool)) (R R' : Run) (m : Mask)
    (f : Nat → List LW) :
    longEff (passed s r L k win R) r R' m f =
      passed s r L k win { R' with pends := cancelAll R'.pends m f ++ (Mask.lanes m).flatMap (fun l => (f l).flatMap (pendOf l)) } := by
  rw [longEff_eq, passed_passed, passed_gang]

theorem uniEff_passed (s : State) (r : SlotRef) (L : Lanes) (k : KRegs) (win : List (Nat × Bool)) (R R' : Run) (i v : Nat) :
    uniEff (passed s r L k win R) r R' i v =
      passed s r L (Vector.ofFn (fun j => if j.val = i then BitVec.ofNat 64 v else k[j])) win { R' with pends := cancelUni R'.pends i } := by
  rw [uniEff_eq, passed_passed, passed_gang]

theorem mapLanes_get (m : Mask) (f : Nat → Lane → Lane) (v : Lanes) (l : Nat) (h : l < 64) :
    ((mapLanes m f v).toList[l]?).getD Lane.reset =
      if Mask.has m l then f l ((v.toList[l]?).getD Lane.reset) else (v.toList[l]?).getD Lane.reset := by
  simp [mapLanes, h]

/-- A fixed-latency word that passes the checks has its effect, and nothing else happens. -/
theorem bodyWord_writes {w : WordInfo} {s : State} {R : Run} (h : Issues w s R) (hm : w.memory = false)
    {eff : State → SlotRef → Run → Mask → Eff} {f : Nat → Lane → List LW}
    (he : ∀ win R' R'', eff (passed s s.cur (s.gang s.cur.gang).lanes (s.gang s.cur.gang).k win R') s.cur R'' (participants s s.cur R w.hd false) =
      .done (fixedEff (passed s s.cur (s.gang s.cur.gang).lanes (s.gang s.cur.gang).k win R') s.cur R'' (participants s s.cur R w.hd false) f)) :
    ∃ t, bodyWord w eff s = .next t ∧ Writes s t R w.hd f := by
  obtain ⟨win, hw⟩ := enterWord_passed w s s.cur R (participants s s.cur R w.hd w.memory)
  have hr := enterWord_run w s s.cur R (participants s s.cur R w.hd w.memory)
  rw [hm] at hw hr
  refine ⟨_, bodyWord_done h (by rw [hm, hw]; exact he _ _ _) (by rw [fixedEff_passed]; exact h.passes _ _ _ _), ?_⟩
  rw [fixedEff_passed]
  have hp := passes_of s R w.hd.sw
    (mapLanes (participants s s.cur R w.hd false) (fun l L => (f l L).foldl Lane.apply L) (s.gang s.cur.gang).lanes)
    (s.gang s.cur.gang).k win
    { (enterWord w s s.cur R (participants s s.cur R w.hd false)).2 with
      pends := cancelAll (enterWord w s s.cur R (participants s s.cur R w.hd false)).2.pends (participants s s.cur R w.hd false)
        (fun l => f l (s.here l)) } hr.1 hr.2.1 1 (w.cyc + extraReads w.srcs) (R.pos + 1, R.hdr.ord)
  refine ⟨⟨?_, hp.uniform, ?_, ?_, hp.slot⟩, hp.gang, hp.others, hp.beside⟩
  · intro l hl
    refine (hp.lane l hl).trans ?_
    rw [mapLanes_get _ _ _ _ hl]
    rfl
  · rw [← hr.2.2]; exact hp.run
  · rw [← hr.2.2]; exact hp.wait

/-- A long-latency word that passes the checks leaves its results pending, and nothing else happens. -/
theorem bodyWord_writesLate {w : WordInfo} {s : State} {R : Run} (h : Issues w s R) (hm : w.memory = false)
    {eff : State → SlotRef → Run → Mask → Eff} {f : Nat → Lane → List LW}
    (he : ∀ win R' R'', eff (passed s s.cur (s.gang s.cur.gang).lanes (s.gang s.cur.gang).k win R') s.cur R'' (participants s s.cur R w.hd false) =
      .done (longEff (passed s s.cur (s.gang s.cur.gang).lanes (s.gang s.cur.gang).k win R') s.cur R'' (participants s s.cur R w.hd false)
        (fun l => f l (s.here l)))) :
    ∃ t, bodyWord w eff s = .next t ∧ WritesLate s t R w.hd f := by
  obtain ⟨win, hw⟩ := enterWord_passed w s s.cur R (participants s s.cur R w.hd w.memory)
  have hr := enterWord_run w s s.cur R (participants s s.cur R w.hd w.memory)
  rw [hm] at hw hr
  refine ⟨_, bodyWord_done h (by rw [hm, hw]; exact he _ _ _) (by rw [longEff_passed]; exact h.passes _ _ _ _), ?_⟩
  rw [longEff_passed]
  have hp := passes_of s R w.hd.sw (s.gang s.cur.gang).lanes (s.gang s.cur.gang).k win
    { (enterWord w s s.cur R (participants s s.cur R w.hd false)).2 with
      pends := cancelAll (enterWord w s s.cur R (participants s s.cur R w.hd false)).2.pends (participants s s.cur R w.hd false)
        (fun l => f l (s.here l)) ++ (Mask.lanes (participants s s.cur R w.hd false)).flatMap (fun l => (f l (s.here l)).flatMap (pendOf l)) }
      hr.1 hr.2.1 1 (w.cyc + extraReads w.srcs) (R.pos + 1, R.hdr.ord)
  refine ⟨⟨hp.lane, hp.uniform, ?_, ?_, hp.slot⟩, hp.gang, hp.others, hp.beside⟩
  · rw [← hr.2.2]; exact hp.run
  · rw [← hr.2.2]; exact hp.wait

/-- A uniform word that passes the checks writes its register, and nothing else happens. -/
theorem bodyWord_writesUniform {w : WordInfo} {s : State} {R : Run} (h : Issues w s R) {eff : State → SlotRef → Run → Mask → Eff} {i v : Nat}
    (he : ∀ win R' R'', eff (passed s s.cur (s.gang s.cur.gang).lanes (s.gang s.cur.gang).k win R') s.cur R''
      (participants s s.cur R w.hd w.memory) =
      .done (uniEff (passed s s.cur (s.gang s.cur.gang).lanes (s.gang s.cur.gang).k win R') s.cur R'' i v)) :
    ∃ t, bodyWord w eff s = .next t ∧ WritesUniform s t R w.hd.sw i v := by
  obtain ⟨win, hw⟩ := enterWord_passed w s s.cur R (participants s s.cur R w.hd w.memory)
  have hr := enterWord_run w s s.cur R (participants s s.cur R w.hd w.memory)
  refine ⟨_, bodyWord_done h (by rw [hw]; exact he _ _ _) (by rw [uniEff_passed]; exact h.passes _ _ _ _), ?_⟩
  rw [uniEff_passed]
  have hp := passes_of s R w.hd.sw (s.gang s.cur.gang).lanes
    (Vector.ofFn (fun j => if j.val = i then BitVec.ofNat 64 v else (s.gang s.cur.gang).k[j])) win
    { (enterWord w s s.cur R (participants s s.cur R w.hd w.memory)).2 with
      pends := cancelUni (enterWord w s s.cur R (participants s s.cur R w.hd w.memory)).2.pends i } hr.1 hr.2.1 1 (w.cyc + extraReads w.srcs) (R.pos + 1, R.hdr.ord)
  refine ⟨⟨hp.lane, ?_, ?_, ?_, hp.slot⟩, hp.gang, hp.others, hp.beside⟩
  · intro j hj
    refine (hp.uniform j hj).trans ?_
    simp only [Vector.toList_ofFn, List.getElem?_ofFn, hj, dite_true, Option.getD_some]
    split
    · simp
    · simp [kreg, hj]
  · rw [← hr.2.2]; exact hp.run
  · rw [← hr.2.2]; exact hp.wait

/-- A word without an effect that passes the checks. -/
theorem bodyWord_nothing {w : WordInfo} {s : State} {R : Run} (h : Issues w s R) {eff : State → SlotRef → Run → Mask → Eff}
    (he : ∀ p, eff p s.cur (enterWord w s s.cur R (participants s s.cur R w.hd w.memory)).2 (participants s s.cur R w.hd w.memory) = .done p) :
    ∃ t, bodyWord w eff s = .next t ∧ Passes s t R w.hd.sw s.here (kreg s s.cur) R.pends := by
  obtain ⟨win, hw⟩ := enterWord_passed w s s.cur R (participants s s.cur R w.hd w.memory)
  have hr := enterWord_run w s s.cur R (participants s s.cur R w.hd w.memory)
  refine ⟨_, bodyWord_done h (he _) (by rw [hw]; exact h.passes _ _ _ _), ?_⟩
  rw [hw]
  have hp := passes_of s R w.hd.sw (s.gang s.cur.gang).lanes (s.gang s.cur.gang).k win
    (enterWord w s s.cur R (participants s s.cur R w.hd w.memory)).2 hr.1 hr.2.1 1 (w.cyc + extraReads w.srcs) (R.pos + 1, R.hdr.ord)
  refine ⟨⟨hp.lane, hp.uniform, ?_, ?_, hp.slot⟩, hp.gang, hp.others, hp.beside⟩
  · rw [← hr.2.2]; exact hp.run
  · rw [← hr.2.2]; exact hp.wait

end Machine
end Sys2Proof
end

