-- ==== Sys2Proof/Tests/Slice0.lean ====
section
/-! SUPPORT. Tests: words written out from the spec's encodings, ill-formed terms, single steps with results from the spec, and for every
statement a state and operands that meet its hypotheses. -/

-- Each test is checked before the next begins.
set_option Elab.async false

namespace Sys2Proof
namespace Tests

open Sys2Proof.Machine

/-! ## States -/

/-- A word of an opcode placed, with its slot at the cursor. -/
def at_ (op : Nat) : State :=
  { placeWord State.reset (op * 2 ^ 53) with agenda := [], cur := { gang := if svcOp op then 63 else 0, b := false } }

def hdr0 : Header := { guarded := false, len := 0, stop := false, ord := 0, grdn := 0, bufn := 0, wset := 0, join := false, anch := false }

/-- The trace that the slot at the cursor runs. -/
def runOf (s : State) : Run := ((s.slot s.cur).run).getD (Run.start hdr0 [] 0)

/-- The gang at the cursor changed. -/
def withGang (s : State) (f : Gang → Gang) : State := s.setGang s.cur.gang (f (s.gang s.cur.gang))

def withSlot (s : State) (f : Slot → Slot) : State := s.setSlot s.cur (f (s.slot s.cur))

def withRun (s : State) (f : Run → Run) : State := s.setRun s.cur (f (runOf s))

/-- A uniform register of the gang at the cursor set. -/
def withK (s : State) (k v : Nat) : State := withGang s (fun G => G.setK k v)

/-- The lanes of the gang at the cursor changed. -/
def withLanes (s : State) (f : Nat → Lane → Lane) : State := withGang s (fun G => { G with lanes := mapLanes (maskOf (fun _ => true)) f G.lanes })

/-- The slot at the cursor with lane 0 alone. -/
def lane0 (s : State) : State := withSlot s (fun X => { X with mask := 1 })

/-- The trace at the cursor guarded, with room for its writes. -/
def guarded (s : State) : State := withRun s (fun R => { R with hdr := { R.hdr with guarded := true, grdn := 7, bufn := 8, wset := 16 } })

def hd0 : Hd := { sw := false, neg := false, pg := 0 }

def o (start : Nat) (w : WCode) : Opnd := { start, w }

/-! ## Hypotheses as decidable propositions -/

/-- The checks of issue of a body word at the cursor, in a trace. -/
def Checks (w : WordInfo) (s : State) (R : Run) : Prop :=
  liveRun s s.cur = some R ∧ overBound (s.gang s.cur.gang) 1 = false ∧
    w.allowed s s.cur = true ∧ (R.hdr.guarded && w.noGuard) = false ∧
    (w.ok && (w.srcs ++ w.dsts).all (opndOk (stitchLimit s s.cur))) = true ∧ w.within R = true ∧
    missingRow s s.cur.gang (w.srcs ++ w.dsts) = none ∧
    readsPoison (s.gang s.cur.gang) (w.readers (participants s s.cur R w.hd w.memory)) w.srcs = false

theorem issues_of {w : WordInfo} {s : State} {R : Run} (h : Checks w s R) : Issues w s R :=
  ⟨h.1, h.2.1, h.2.2.1, h.2.2.2.1, h.2.2.2.2.1, h.2.2.2.2.2.1, h.2.2.2.2.2.2.1, h.2.2.2.2.2.2.2⟩

/-- Every word of a list passes its checks in its state. -/
def allCheck (l : List (WordInfo × State)) : Bool :=
  l.all (fun p => let s := p.2; let w := p.1; let R := runOf s
    decide (liveRun s s.cur = some R) && overBound (s.gang s.cur.gang) 1 == false && w.allowed s s.cur && (R.hdr.guarded && w.noGuard) == false
      && (w.ok && (w.srcs ++ w.dsts).all (opndOk (stitchLimit s s.cur))) && w.within R
      && missingRow s s.cur.gang (w.srcs ++ w.dsts) == none
      && readsPoison (s.gang s.cur.gang) (w.readers (participants s s.cur R w.hd w.memory)) w.srcs == false)

theorem all_issue {l : List (WordInfo × State)} (h : allCheck l = true) : ∀ p ∈ l, Issues p.1 p.2 (runOf p.2) := by
  intro p hp
  have := List.all_eq_true.mp h p hp
  simp only [Bool.and_eq_true, decide_eq_true_eq, beq_iff_eq] at this
  obtain ⟨⟨⟨⟨⟨⟨⟨a, b⟩, c⟩, d⟩, e⟩, f⟩, g⟩, k⟩ := this
  exact ⟨a, b, c, d, by simpa using e, f, g, k⟩

theorem term_of {w : TermInfo} {s : State} {R : Run} (h : liveRun s s.cur = some R ∧ (!R.half && overBound (s.gang s.cur.gang) w.words) = false ∧
    w.allowed s s.cur = true ∧ (!w.withWatch && R.hasWaitm) = false ∧ (R.hdr.guarded && w.noGuard) = false ∧
    (w.ok && (w.srcs ++ w.dsts).all (opndOk (stitchLimit s s.cur))) = true ∧
    (R.hdr.guarded && decide (R.hdr.wset / 2 < (rowsAfter R w.dsts).length)) = false ∧
    missingRow s s.cur.gang (w.srcs ++ w.dsts) = none ∧ (w.words = 2 → R.half = true)) : TermIssues w s R :=
  ⟨h.1, h.2.1, h.2.2.1, h.2.2.2.1, h.2.2.2.2.1, h.2.2.2.2.2.1, h.2.2.2.2.2.2.1, h.2.2.2.2.2.2.2.1, h.2.2.2.2.2.2.2.2⟩

theorem sound_of {s : State} (h : s.agenda = []) (u : Option Nat) : doomed s u = false := by simp [doomed, h]

theorem alone_of {s : State} {R : Run} {hd : Hd} {l : Nat} (h : l < 64 ∧ participants s s.cur R hd true = 1#64 <<< l ∧
    unspoilt s (coreOf s.cur.gang) = true ∧ s.agenda = [] ∧ s.reds = []) : Alone s R hd l :=
  ⟨h.1, h.2.1, h.2.2.1, sound_of h.2.2.2.1, h.2.2.2.2⟩

theorem quiet_of {s : State} (h : s.poison = [] ∧ s.reds = [] ∧ s.agenda = [] ∧ (s.core (coreOf s.cur.gang)).l1 = []) : Quiet s :=
  ⟨by simp [unspoilt, h.1, h.2.2.2], h.2.1, sound_of h.2.2.1, by simp [tidyL1, h.2.2.2]⟩

theorem now_of {s : State} {R : Run} {l : Nat} {wide : Bool}
    (h : (R.hdr.guarded || (!queueFull s s.cur.gang (1#64 <<< l) && (!wide || linesSent s (coreOf s.cur.gang)))) = true) : storesNow s R l wide := by
  simp only [Bool.or_eq_true, Bool.and_eq_true, Bool.not_eq_eq_eq_not, Bool.not_true] at h
  rcases h with h | ⟨h, h'⟩
  · exact .inl h
  · exact .inr ⟨h, fun w => h'.resolve_left (by simp [w])⟩

/-! ## Integer, predicate and uniform words -/

theorem witness_IntegerRowsOfTwoSources : ∀ p ∈ ([
    (WordInfo.plain hd0 1 [o 0 .w1, o 1008 .w16] [o 1016 .w8] true, at_ 0x040),
    (WordInfo.plain { hd0 with sw := true } 1 [o 3 .w8, o 3 .w8] [o 3 .w2] true, guarded (at_ 0x049)),
    (WordInfo.plain { hd0 with neg := true, pg := 0 } 1 [o 3 .w8, o 3 .w8] [o 3 .w2] true, at_ 0x04A)] : List (WordInfo × State)),
    Issues p.1 p.2 (runOf p.2) := all_issue (by decide +kernel)

theorem witness_IntegerShiftsFieldsAndAccumulations : ∀ p ∈ ([
    (WordInfo.plain hd0 1 [o 0 .w16, o 8 .w1] [o 16 .w2] true, at_ 0x052),
    (WordInfo.plain hd0 1 [o 0 .w16, o 8 .w4] [o 16 .w2] (decide (4 ≤ (o 8 .w4).w.stitches)), at_ 0x05B),
    (WordInfo.plain hd0 1 [o 0 .w16, o 8 .w4, o 16 .w2] [o 16 .w2] (decide (4 ≤ (o 8 .w4).w.stitches)), at_ 0x05C),
    (WordInfo.plain hd0 1 [o 0 .w16, o 8 .w1, o 16 .w2] [o 16 .w2] true, guarded (at_ 0x04B))] : List (WordInfo × State)),
    Issues p.1 p.2 (runOf p.2) := all_issue (by decide +kernel)

theorem witness_IntegerRowsOfOneSourceAndCarries : ∀ p ∈ ([
    (WordInfo.plain hd0 1 [o 0 .w16] [o 16 .w3] true, at_ 0x044),
    ({ WordInfo.plain hd0 1 [o 0 .w8, o 8 .w8] [o 16 .w8] true with pf := true }, at_ 0x042)] : List (WordInfo × State)),
    Issues p.1 p.2 (runOf p.2) := all_issue (by decide +kernel)

theorem witness_MovesAndImmediateRows : ∀ p ∈ ([
    (WordInfo.plain hd0 1 [o 0 .w32] [o 64 .w32] (Ty.none == .none || false), at_ 0x05D),
    (WordInfo.plain hd0 1 [] [o 64 .w16] true, at_ 0x05D),
    (WordInfo.plain hd0 2 [] [o 1023 .w1] true, at_ 0x088),
    (WordInfo.plain hd0 2 [o 0 .w8] [o 16 .w8] true, guarded (at_ 0x080))] : List (WordInfo × State)),
    Issues p.1 p.2 (runOf p.2) := all_issue (by decide +kernel)

theorem witness_IntegerComparisons : ∀ p ∈ ([
    ({ WordInfo.plain hd0 1 [o 0 .w8, o 1023 .w1] [] true with pf := true }, at_ 0x060),
    ({ WordInfo.plain hd0 2 [o 0 .w16] [] true with pf := true }, at_ 0x087),
    ({ WordInfo.plain hd0 4 [] [] true with pf := true }, guarded (at_ 0x10B))] : List (WordInfo × State)),
    Issues p.1 p.2 (runOf p.2) := all_issue (by decide +kernel)

theorem witness_PredicateWords : ∀ p ∈ ([
    ({ WordInfo.plain hd0 3 [] [] true with pf := true }, at_ 0x0C0),
    ({ WordInfo.plain hd0 3 [o 0 .w8, o 8 .w1] [] (decide ((o 0 .w8).w.stitches ≤ 8) && decide ((o 8 .w1).w.stitches ≤ 8)) with pf := true }, at_ 0x0C4),
    (WordInfo.plain hd0 3 [] [o 16 .w8] (wIs 8 (o 16 .w8)), guarded (at_ 0x0C5))] : List (WordInfo × State)),
    Issues p.1 p.2 (runOf p.2) := all_issue (by decide +kernel)

/-- The gang at the cursor at width 64, all its lanes in its slot. -/
def wide (s : State) : State := withSlot (withGang s (fun G => { G with width := 64, live := 0xFFFFFFFFFFFFFFFF })) (fun X => { X with mask := 0xFFFFFFFFFFFFFFFF })

theorem witness_CrossLaneWords : ∀ p ∈ ([
    ({ WordInfo.plain hd0 3 [] [] true with pf := true }, at_ 0x0C6),
    (WordInfo.plain hd0 3 [] [o 16 .w8] (wIs 8 (o 16 .w8)), at_ 0x0C6),
    (WordInfo.plain hd0 3 [] [o 16 .w16] (wIs 16 (o 16 .w16)), wide (at_ 0x0C6)),
    (WordInfo.plain hd0 3 [o 0 .w32, o 64 .w1] [o 0 .w32] true, at_ 0x0C7),
    ({ WordInfo.plain hd0 3 [] [o 16 .w8] true with pf := true }, at_ 0x0C9)] : List (WordInfo × State)),
    Issues p.1 p.2 (runOf p.2) := all_issue (by decide +kernel)

theorem witness_UniformWords : (∀ p ∈ ([
    (WordInfo.plain hd0 4 [] [] true, at_ 0x100),
    (WordInfo.plain hd0 4 [o 0 .w16] [] (intW (o 0 .w16)), at_ 0x109),
    (WordInfo.plain { hd0 with pg := 1 } 4 [o 0 .w16] [] true, at_ 0x109),
    (WordInfo.plain hd0 4 [] [o 1023 .w1] true, guarded (at_ 0x10A))] : List (WordInfo × State)), Issues p.1 p.2 (runOf p.2)) ∧
    Mask.lowest (participants (at_ 0x109) (at_ 0x109).cur (runOf (at_ 0x109)) hd0 false) = some 0 ∧
    participants (at_ 0x109) (at_ 0x109).cur (runOf (at_ 0x109)) { hd0 with pg := 1 } false = 0 :=
  ⟨all_issue (by decide +kernel), by decide +kernel, by decide +kernel⟩

/-! ## Floating-point, conversion and block words -/

theorem witness_FloatRows : ∀ p ∈ ([
    ({ WordInfo.plain hd0 5 [o 0 .w4, o 4 .w4] [o 8 .w4] (tyW .f16 (o 0 .w4)) with pf := true, cyc := 1 }, at_ 0x140),
    ({ WordInfo.plain hd0 5 [o 0 .w16, o 16 .w16, o 32 .w16] [o 32 .w16] (tyW .f64 (o 0 .w16)) with pf := true, cyc := 2 }, guarded (at_ 0x143)),
    ({ WordInfo.plain hd0 6 [o 0 .w8, o 8 .w1] [o 16 .w8] (tyW .f32 (o 0 .w8)) with pf := true, cyc := 1 }, at_ 0x18E),
    ({ WordInfo.plain hd0 5 [o 0 .w8, o 8 .w8] [] (tyW .f32 (o 0 .w8)) with pf := true }, at_ 0x146),
    ({ WordInfo.plain hd0 5 [o 0 .w8] [o 8 .w8] (tyW .f32 (o 0 .w8)) with pf := true }, at_ 0x147),
    ({ WordInfo.plain hd0 5 [o 0 .w8] [o 8 .w3] (tyW .f32 (o 0 .w8)) with pf := true }, at_ 0x148),
    ({ WordInfo.plain hd0 5 [o 0 .w8, o 8 .w8] [o 16 .w8] true with pf := true }, at_ 0x149),
    ({ WordInfo.plain hd0 5 [o 0 .w8, o 8 .w8, o 16 .w8] [o 16 .w8] true with pf := true }, at_ 0x14B),
    ({ WordInfo.plain hd0 6 [o 0 .w8] [o 8 .w2] (cvtW .e4m3 (o 8 .w2) && cvtW .f32 (o 0 .w8)) with pf := true }, at_ 0x189)]
    : List (WordInfo × State)), Issues p.1 p.2 (runOf p.2) := all_issue (by decide +kernel)

theorem witness_LongLatencyFloatRows : ∀ p ∈ ([
    ({ WordInfo.plain hd0 6 [o 0 .w16] [o 16 .w16] (tyW .f64 (o 0 .w16)) with pf := true, cyc := 8 }, at_ 0x180),
    ({ WordInfo.plain hd0 6 [o 0 .w8, o 8 .w8] [o 16 .w8] (tyW .f32 (o 0 .w8)) with pf := true, cyc := 8 }, at_ 0x183),
    ({ WordInfo.plain { hd0 with sw := true } 6 [o 0 .w8] [o 8 .w8] true with pf := true, cyc := 4 }, guarded (at_ 0x184)),
    ({ WordInfo.plain hd0 6 [o 0 .w8] [o 8 .w2] (cvtW .e4m3 (o 8 .w2) && cvtW .f32 (o 0 .w8)) with pf := true }, at_ 0x188),
    ({ WordInfo.plain hd0 6 [o 0 .w1, o 2 .w2] [o 8 .w8] (bxW true (o 0 .w1) && wIs 2 (o 2 .w2)) with pf := true }, at_ 0x18B),
    ({ WordInfo.plain hd0 6 [o 0 .w2, o 4 .w4] [o 8 .w1] (bxW true (o 8 .w1) && wIs 4 (o 4 .w4)) with pf := true }, at_ 0x18C),
    ({ WordInfo.plain hd0 6 [o 0 .w8] [o 8 .w1, o 9 .w2] (bxW true (o 8 .w1) && apart (o 8 .w1) (o 9 .w2)) with pf := true, cyc := 2 }, at_ 0x18A),
    ({ WordInfo.plain hd0 6 [o 0 .w8] [o 8 .w8] true with pf := true, cyc := 2 }, at_ 0x18D)]
    : List (WordInfo × State)), Issues p.1 p.2 (runOf p.2) := all_issue (by decide +kernel)

theorem witness_RoundingErrs : (0 : Int) < 1 ∧ (-1074 : Int) < 971 := by decide

/-! ## Traces -/

theorem header_of {s : State} {bad : Bool}
    (h : (match fetchTrace s s.cur with | (s', .inr (x, _)) => !stopsHere s' s.cur x && badPlain x == bad | _ => false) = true) :
    ∃ s' x ws, fetchTrace s s.cur = (s', .inr (x, ws)) ∧ stopsHere s' s.cur x = false ∧ badPlain x = bad := by
  split at h
  · next s' x ws e => exact ⟨s', x, ws, e, by simp at h; exact h.1, by simp at h; exact h.2⟩
  · exact absurd h (by simp)

/-- A word placed, with its slot at the cursor. -/
def atWord (w : Nat) : State := { placeWord State.reset w with agenda := [], cur := { gang := 0, b := false } }

theorem witness_HeaderStartsItsTrace :
    (∀ w ∈ [0x0020000000000000, 0x0020400000000000], let s := atWord w
      (s.slot s.cur).mask ≠ 0 ∧ (s.slot s.cur).wait = .none ∧ (s.slot s.cur).run = none ∧ overBound (s.gang s.cur.gang) 1 = false ∧
      fetchUnready s s.cur = false ∧ fetchUnready { s.setCore 0 { s.core 0 with traces := [] } with ready := { s.ready with lpg := 0 } } s.cur = true ∧ pairFree s (coreOf s.cur.gang) = true ∧ (s.core (coreOf s.cur.gang)).undoWait = []) ∧
    (∃ s' x ws, fetchTrace (atWord 0x0020000000000000) (atWord 0x0020000000000000).cur = (s', .inr (x, ws)) ∧
      stopsHere s' (atWord 0x0020000000000000).cur x = false ∧ badPlain x = false) ∧
    (∃ s' x ws, fetchTrace (atWord 0x0020000000000100) (atWord 0x0020000000000100).cur = (s', .inr (x, ws)) ∧
      stopsHere s' (atWord 0x0020000000000100).cur x = false ∧ badPlain x = true) :=
  ⟨by decide +kernel, header_of (by decide +kernel), header_of (by decide +kernel)⟩

theorem witness_GuardsFailTheirLanes : (∀ p ∈ ([
    ({ WordInfo.plain hd0 0 [] [] true with grd := true }, at_ 0x002),
    (WordInfo.plain hd0 0 [] [] true, guarded (at_ 0x000))] : List (WordInfo × State)), Issues p.1 p.2 (runOf p.2)) ∧
    let s := at_ 0x002
    Mask.has (participants s s.cur (runOf s) hd0 false) 31 = true ∧ (s.here 31).psrc { neg := false, n := 31 } = false :=
  ⟨all_issue (by decide +kernel), by decide +kernel⟩

/-- The checks of issue of terminators in their states. -/
def allTerm (l : List (TermInfo × State)) : Bool :=
  l.all (fun p => let s := p.2; let w := p.1; let R := runOf s
    decide (liveRun s s.cur = some R) && (!R.half && overBound (s.gang s.cur.gang) w.words) == false && w.allowed s s.cur
      && (!w.withWatch && R.hasWaitm) == false && (R.hdr.guarded && w.noGuard) == false
      && (w.ok && (w.srcs ++ w.dsts).all (opndOk (stitchLimit s s.cur)))
      && (R.hdr.guarded && decide (R.hdr.wset / 2 < (rowsAfter R w.dsts).length)) == false
      && missingRow s s.cur.gang (w.srcs ++ w.dsts) == none && decide (w.words = 2 → R.half = true))

theorem all_term {l : List (TermInfo × State)} (h : allTerm l = true) : ∀ p ∈ l, TermIssues p.1 p.2 (runOf p.2) := by
  intro p hp
  have := List.all_eq_true.mp h p hp
  simp only [Bool.and_eq_true, decide_eq_true_eq, beq_iff_eq] at this
  obtain ⟨⟨⟨⟨⟨⟨⟨⟨a, b⟩, c⟩, w⟩, d⟩, e⟩, f⟩, g⟩, k⟩ := this
  exact ⟨a, b, c, w, d, by simpa using e, f, g, k⟩

theorem witness_TerminatorsWaitToResolve : ∀ p ∈ ([
    ({ TermInfo.plain with withWatch := true }, guarded (at_ 0x008)),
    ({ TermInfo.plain with noHandler := true, noCast := true }, at_ 0x010),
    ({ TermInfo.plain with noGuard := true, noCast := true, hndOnly := true }, at_ 0x381),
    ({ TermInfo.plain with noGuard := true, castOnly := true }, at_ 0x348),
    ({ TermInfo.plain with words := 2 }, withRun (at_ 0x00A) (fun R => { R with half := true })),
    (TermInfo.plain, at_ 0x00A),
    ({ TermInfo.plain with srcs := [o 1016 .w8], ok := wIs 8 (o 1016 .w8) }, at_ 0x00B),
    ({ TermInfo.plain with dsts := [o 1008 .w16], ok := wIs 16 (o 1008 .w16) && rowStart (o 1008 .w16), withWatch := true }, at_ 0x00C),
    ({ TermInfo.plain with srcs := [o 8 .w8], dsts := [{ start := 8, w := .w16 }], ok := wIs 8 (o 8 .w8) && rowStart (o 8 .w8) },
      guarded (at_ 0x00D)),
    ({ TermInfo.plain with srcs := [o 8 .w16], ok := wIs 16 (o 8 .w16) }, at_ 0x00E),
    ({ TermInfo.plain with noGuard := true, noHandler := true, noCast := true, roleC := true }, at_ 0x011),
    ({ TermInfo.plain with noGuard := true, noHandler := true, noCast := true }, at_ 0x012)] : List (TermInfo × State)),
    TermIssues p.1 p.2 (runOf p.2) := all_term (by decide +kernel)

/-! ## Memory words -/

/-- A record: format, space, base, extents, stride of elements, bounds mode, policy (06 R134). -/
def record (fmt space base ext0 ext1 stride bounds pol : Nat) : Nat :=
  base + space * 2 ^ 56 + ext0 * 2 ^ 64 + ext1 * 2 ^ 96 + stride * 2 ^ 128 + fmt * 2 ^ 192 + bounds * 2 ^ 200 + pol * 2 ^ 202

/-- Record slot 3 of the team at the cursor, and the first 64 KiB of device memory reached at their own addresses. -/
def memory (s : State) (w : Nat) : State :=
  let s := s.updTeam 1 (fun T => { T with recs := listSet T.recs 3 { body := BitVec.ofNat 256 w, valid := true, pending := none } })
  s.setCore 0 { s.core 0 with tlb := [placeTlb] }

/-- Lane 0 alone, with a record of 16 values of 32 bits at 0x2000 of device memory in slot 3. -/
def dev (op : Nat) : State := memory (lane0 (at_ op)) (record 6 2 0x2000 16 1 4 0 0)

/-- The same in the scratchpad. -/
def spad (op : Nat) : State := memory (lane0 (at_ op)) (record 6 0 0x100 16 1 4 0 0)

theorem holds_of {s : State} {w : Nat} {f : EFmt} (h : recSlot s s.cur.gang 3 = some { body := BitVec.ofNat 256 w, valid := true, pending := none } ∧
    (BitVec.ofNat 256 w).toNat = w ∧ efmtOf (recFmt w) = some f) : holdsRecord s 3 w f := ⟨_, h⟩

theorem elem_of {s : State} {w : Nat} {f : EFmt} {i : Int} {a : Acc} {j : Int} {ks : List (Option Nat)} (h : boundsMode w i = .index j ∧
    byteKeys s s.cur (recSpace w) (elemBit w f j / 8) ((elemBit w f j % 8 + f.bits + 7) / 8) a = some ks) : elemKeys s w f i a j ks := h

def keys4 (k : Nat) : List (Option Nat) := [some k, some (k + 1), some (k + 2), some (k + 3)]

theorem apart_keys4 (k : Nat) : apartKeys (fun _ => keys4 k) 1 := by
  intro i j a b n hi hj ha hb
  refine ⟨by omega, ?_⟩
  match a, b with
  | 0, 0 | 1, 1 | 2, 2 | 3, 3 => rfl
  | 0, 1 | 0, 2 | 0, 3 | 1, 0 | 1, 2 | 1, 3 | 2, 0 | 2, 1 | 2, 3 | 3, 0 | 3, 1 | 3, 2 => simp [keys4] at ha hb; omega
  | a + 4, _ => simp [keys4] at ha
  | _, b + 4 => simp [keys4] at hb

def ld15 : LdOp := { hd := hd0, v := o 16 .w8, q := 3, x := o 0 .w8, imm := 15, ty := .n32, pol := .record }

def st15 (p : Pol) : StOp := { hd := hd0, v := o 16 .w8, q := 3, x := o 0 .w8, imm := 15, ty := .n32, mode := .plain p }

theorem witness_NativeLoads : ∀ p ∈ [(dev 0x200, record 6 2 0x2000 16 1 4 0 0, memKey 2 0x203C), (spad 0x200, record 6 0 0x100 16 1 4 0 0, 0x13C)],
    let s : State := p.1
    let x := ld15
    Issues (memInfo x.hd 8 [x.x] [x.v] (addrW x.x && scalarV x.v x.ty)) s (runOf s) ∧ Alone s (runOf s) x.hd 0 ∧ holdsRecord s x.q p.2.1 (.ty .n32) ∧
    convOk (.ty .n32) x.ty false = true ∧ (∀ e ∈ (runOf s).store, e.lane ≠ 0) ∧
    ∀ j : Nat, j < 1 → elemKeys s p.2.1 (.ty .n32) (elemIndex (s.here 0) x.x x.imm + j) .read 15 (keys4 p.2.2) := by
  intro p hp
  simp only [List.mem_cons, List.not_mem_nil, or_false] at hp
  rcases hp with rfl | rfl <;>
    exact ⟨issues_of (by unfold Checks; decide +kernel), alone_of (by decide +kernel), holds_of (by decide +kernel), by decide +kernel, by decide +kernel,
      fun j hj => by obtain rfl : j = 0 := by omega
                     exact elem_of (by decide +kernel)⟩

theorem witness_NativeStores : ∀ p ∈ [(dev 0x208, record 6 2 0x2000 16 1 4 0 0, memKey 2 0x203C, Pol.record), (spad 0x208, record 6 0 0x100 16 1 4 0 0, 0x13C, .keep),
      (guarded (dev 0x208), record 6 2 0x2000 16 1 4 0 0, memKey 2 0x203C, .bypass)],
    let s : State := p.1
    let x := st15 p.2.2.2
    Issues (bufInfo x.hd 8 [x.x, x.v] (addrW x.x && scalarV x.v x.ty)) s (runOf s) ∧ Alone s (runOf s) x.hd 0 ∧ storesNow s (runOf s) 0 false ∧ holdsRecord s x.q p.2.1 (.ty .n32) ∧
    convOk (.ty .n32) x.ty true = true ∧ apartKeys (fun _ => keys4 p.2.2.1) 1 ∧
    ∀ j : Nat, j < 1 → elemKeys s p.2.1 (.ty .n32) (elemIndex (s.here 0) x.x x.imm + j) .write 15 (keys4 p.2.2.1) := by
  intro p hp
  simp only [List.mem_cons, List.not_mem_nil, or_false] at hp
  rcases hp with rfl | rfl | rfl <;>
    exact ⟨issues_of (by unfold Checks; decide +kernel), alone_of (by decide +kernel), now_of (by decide +kernel), holds_of (by decide +kernel), by decide +kernel, apart_keys4 _,
      fun j hj => by obtain rfl : j = 0 := by omega
                     exact elem_of (by decide +kernel)⟩

/-- Slot 3 holds the record of `dev` with another bounds mode. -/
def bounded (op m : Nat) : State := memory (lane0 (at_ op)) (record 6 2 0x2000 16 1 4 m 0)

def ldAt (i : Int) : LdOp := { ld15 with imm := i }

def scOp : ScMemOp := { hd := hd0, v := o 16 .w8, q := 3, x := o 0 .w8, imm := 0, ty := .n32, sc := .d }

theorem tidy_of {s : State} {c : Nat} (h : (s.core c).l1 = []) : tidyL1 s c := by simp [tidyL1, h]

/-- The same with index 16, the first beyond, in every lane's s0. -/
def beyond (m : Nat) : State := withLanes (bounded 0x200 m) (fun _ L => L.apply (.st 0 8 16))

def atom3 : AtomOp := { hd := hd0, aop := .add, v := o 16 .w8, q := 3, x := o 0 .w8, ty := .n32, sc := .d, ord := .none, bypass := false }

def red3 : RedOp := { hd := hd0, aop := .add, v := o 16 .w8, q := 3, x := o 0 .w8, ty := .n32, sc := .d, rel := false, ordm := false, bypass := false }

/-- The words that access elements by slot 3, at the index in s0. -/
def recWords : List RecWord :=
  let words (w : WCode) (c : Nat) : List RecWord :=
    (recLoads { ldAt 0 with v := o 16 w } scOp atom3 ++ recStores { st15 .record with v := o 16 w, imm := 0 } scOp red3).filter (fun p => p.count == c)
  words .w8 1 ++ words .w16 2

/-- LDX of two elements from index 15, whose second is beyond. -/
def ldx2 : Option RecWord := (recLoads { ldAt 15 with v := o 16 .w16 } scOp atom3)[1]?

/-- Slot 3 pending on a record of a format, which returns at a cycle. -/
def pendingRec (fmt back : Nat) : State :=
  let s := dev 0x230
  let q := RecReq.mk s.cur 0 1 (memKey 2 0x3000) (BitVec.ofNat 256 (record fmt 2 0x2000 16 1 4 0 0)) false back
  let s := s.updTeam 1 (fun T => { T with recs := listSet T.recs 3 { body := 0, valid := false, pending := some q } })
  withRun s (fun R => { R with recld := [3] })

theorem witness_RecordsAndTheirSlots :
    (∀ p ∈ ([0, 2].flatMap (fun m => recWords.map (fun p => (p.info, beyond m))) : List (WordInfo × State)), Issues p.1 p.2 (runOf p.2)) ∧
    (∀ m ∈ [0, 2], let s := beyond m
      Alone s (runOf s) hd0 0 ∧ holdsRecord s 3 (record 6 2 0x2000 16 1 4 m 0) (.ty .n32) ∧ tidyL1 s (coreOf s.cur.gang) ∧
      linesSent s (coreOf s.cur.gang) = true ∧ storesNow s (runOf s) 0 true ∧ tabFind (runOf s).faults 0 = none ∧
      ∀ p ∈ recWords, p.info.hd = hd0 ∧ p.q = 3 ∧ p.fits (.ty .n32) = true ∧ 0 < p.count ∧ p.count ≤ 2 ∧
        ∀ j ∈ [0, 1], boundsMode (record 6 2 0x2000 16 1 4 m 0) (elemIndex (s.here 0) p.x p.imm + (j : Nat)) = (if m = 0 then .fault else .zero)) ∧
    (∃ p, ldx2 = some p ∧ p.count = 2 ∧ firstBeyond (bounded 0x201 0) p (record 6 2 0x2000 16 1 4 0 0) (.ty .n32) 0 1) ∧
    (let s := dev 0x230
     Issues { plainInfo hd0 8 [o 0 .w16] [] true with lowest := true } s (runOf s) ∧ s.reds = [] ∧ unspoilt s (coreOf s.cur.gang) = true ∧ tidyL1 s (coreOf s.cur.gang) ∧
      placeReady s (coreOf s.cur.gang) (memKey 2 0) = true ∧ peerRefuses s (memKey 2 0) = false ∧
      Mask.lowest (participants s s.cur (runOf s) hd0 true) = some 0 ∧
      (∃ y, ((s.team? 1).bind (fun T => T.recs[3]?)) = some y ∧ y.pending = none) ∧ (s.here 0).rd (o 0 .w16) % 2 ^ 56 % 32 = 0 ∧
      (∃ e, (s.core 0).tlb.find? (fun e => e.covers (gangCtx s s.cur).1 0) = some e ∧
        e.check 0 .read (gangCtx s s.cur).2 none = .ok e.space (memKey 2 0))) ∧
    (∀ f ∈ [6, 0x1F], ∀ n ∈ [0, 1], let s := pendingRec f n
      ∃ T y q, s.team? 1 = some T ∧ T.recs[3]? = some y ∧ y.pending = some q ∧ q.bad = false ∧
        (q.back ≤ (s.core T.core).clock.toNat) = (n = 0) ∧ recordOk q.copy.toNat = (f == 6) ∧
        ((s.slot q.slot).run.map (fun R => R.recld.contains 3 && R.faults == [])) = some true) ∧
    (let s := dev 0x231
     Issues (plainInfo hd0 8 [] [] true) s (runOf s) ∧ participants s s.cur (runOf s) hd0 true ≠ 0) := by
  refine ⟨all_issue (by decide +kernel), ?_, ⟨_, rfl, by decide +kernel, by decide +kernel, ?_⟩,
    ⟨issues_of (by unfold Checks; decide +kernel), rfl, by decide +kernel, tidy_of rfl, by decide +kernel, by decide +kernel, by decide +kernel,
      ⟨RecSlot.mk (BitVec.ofNat 256 (record 6 2 0x2000 16 1 4 0 0)) true none, by decide +kernel⟩, by decide +kernel, ⟨placeTlb, by decide +kernel⟩⟩, ?_,
    issues_of (by unfold Checks; decide +kernel), by decide +kernel⟩
  · intro m hm
    simp only [List.mem_cons, List.not_mem_nil, or_false] at hm
    rcases hm with rfl | rfl <;>
      exact ⟨alone_of (by decide +kernel), holds_of (by decide +kernel), tidy_of rfl, by decide +kernel, now_of (by decide +kernel), by decide +kernel, by decide +kernel⟩
  · intro i hi
    obtain rfl : i = 0 := by omega
    exact ⟨15, keys4 (memKey 2 0x203C), elem_of (by decide +kernel)⟩
  · intro f hf n hn
    simp only [List.mem_cons, List.not_mem_nil, or_false] at hf hn
    rcases hf with rfl | rfl <;> rcases hn with rfl | rfl <;> exact ⟨_, _, _, rfl, rfl, rfl, by decide +kernel⟩

/-- A base register k1 for an access by address: 0x2FFC of device memory or offset 0x1FFC, the last of the allocation. -/
def based (s : State) (a : Nat) : State := withK (memory (lane0 s) 0) 1 a

theorem apart_one (k : Nat) : apartKeys (fun _ => [some k]) 1 := by
  intro i j a b n hi hj ha hb
  refine ⟨by omega, ?_⟩
  match a, b with
  | 0, 0 => rfl
  | a + 1, _ => simp at ha
  | _, b + 1 => simp at hb

theorem witness_AddressedLoadsAndStores :
    (∀ p ∈ [(based (at_ 0x240) 0x1FFC, 0, 0x1FFC), (based (at_ 0x250) 0x2FFC, 2, memKey 2 0x2FFC)],
      let s : State := p.1
      let n := Ty.n32.bits / 8
      let addr (j : Nat) := barordAddr s s.cur (s.here 0) (o 0 .w8) 1 0 .n32 j
      Issues { memInfo hd0 9 [o 0 .w8] [o 16 .w8] (addrW (o 0 .w8) && barordV (o 16 .w8) .n32 false) with pf := false } s (runOf s) ∧
      Alone s (runOf s) hd0 0 ∧ (∀ e ∈ (runOf s).store, e.lane ≠ 0) ∧
      ∀ j : Nat, j < 1 → (p.2.1 = 0 ∨ addr j % n = 0) ∧
        byteKeys s s.cur p.2.1 (if p.2.1 = 0 then addr j else addr j % 2 ^ 56) n .read = some (keys4 p.2.2)) ∧
    (∀ p ∈ [(based (at_ 0x244) 0x1FFC, 0, 0x1FFC), (guarded (based (at_ 0x254) 0x2FFC), 2, memKey 2 0x2FFC)],
      let s : State := p.1
      let n := Ty.n32.bits / 8
      let addr (j : Nat) := barordAddr s s.cur (s.here 0) (o 0 .w8) 1 0 .n32 j
      Issues { bufInfo hd0 9 [o 0 .w8, o 16 .w8] (addrW (o 0 .w8) && barordV (o 16 .w8) .n32 false) with pf := false } s (runOf s) ∧
      Alone s (runOf s) hd0 0 ∧ storesNow s (runOf s) 0 false ∧ apartKeys (fun _ => keys4 p.2.2) 1 ∧
      ∀ j : Nat, j < 1 → (p.2.1 = 0 ∨ addr j % n = 0) ∧
        byteKeys s s.cur p.2.1 (if p.2.1 = 0 then addr j else addr j % 2 ^ 56) n .write = some (keys4 p.2.2)) := by
  refine ⟨?_, ?_⟩ <;> intro p hp <;> simp only [List.mem_cons, List.not_mem_nil, or_false] at hp
  · rcases hp with rfl | rfl <;> exact ⟨issues_of (by unfold Checks; decide +kernel), alone_of (by decide +kernel), by decide +kernel, by decide +kernel⟩
  · rcases hp with rfl | rfl <;> exact ⟨issues_of (by unfold Checks; decide +kernel), alone_of (by decide +kernel), now_of (by decide +kernel), apart_keys4 _, by decide +kernel⟩

/-- Line 0x4000 of device memory in a core's L1, its first four bytes dirty. -/
def line0 : L1Line := { line := lineOf (memKey 2 0x2000), valid := 0xF, dirty := 0xF, data := 0x44332211, bad := 0, who := [] }

/-- The machine of `dev`, in which core 2 owns the line of the record's first element with its bytes dirty. -/
def owned : State :=
  let s := dev 0x220
  { s.setCore 2 { s.core 2 with l1 := [line0] } with owners := [(line0.line, 2)] }

theorem tidy_line {s : State} {c : Nat} (h : (s.core c).l1 = [line0] ∧ c = 2) : tidyL1 s c := by
  obtain ⟨h, rfl⟩ := h
  refine ⟨by simp [h], ?_⟩
  rw [h]
  intro l hl
  obtain rfl := List.mem_singleton.mp hl
  exact ⟨by decide +kernel, by decide +kernel⟩

theorem witness_AcquireAndRelease :
    (let s := dev 0x228
     let x := { scOp with imm := 15 }
     tidyL1 s (coreOf s.cur.gang) ∧ scopeWide x.sc = true ∧ (runOf s).hdr.guarded = false ∧ Alone s (runOf s) x.hd 0 ∧ storesNow s (runOf s) 0 true ∧
      holdsRecord s x.q (record 6 2 0x2000 16 1 4 0 0) (.ty .n32) ∧ exactFmt (.ty .n32) x.ty = true ∧
      Issues (plainInfo x.hd 8 [x.x, x.v] [] (addrW x.x && x.v.w.stitches == x.ty.stitches)) s (runOf s) ∧
      apartKeys (fun _ => keys4 (memKey 2 0x203C)) 1 ∧
      elemKeys s (record 6 2 0x2000 16 1 4 0 0) (.ty .n32) (elemIndex (s.here 0) x.x x.imm) .write 15 (keys4 (memKey 2 0x203C))) ∧
    (let s := dev 0x208
     let x : StOp := { st15 .record with mode := .rel .d }
     scopeWide .d = true ∧ (runOf s).hdr.guarded = false ∧ Issues (bufInfo x.hd 8 [x.x, x.v] (addrW x.x && scalarV x.v x.ty)) s (runOf s) ∧
      Alone s (runOf s) x.hd 0 ∧ storesNow s (runOf s) 0 true ∧ holdsRecord s x.q (record 6 2 0x2000 16 1 4 0 0) (.ty .n32) ∧
      convOk (.ty .n32) x.ty true = true ∧ apartKeys (fun _ => keys4 (memKey 2 0x203C)) 1 ∧
      ∀ j : Nat, j < 1 → elemKeys s (record 6 2 0x2000 16 1 4 0 0) (.ty .n32) (elemIndex (s.here 0) x.x x.imm + j) .write 15 (keys4 (memKey 2 0x203C))) ∧
    let s := owned
    let x := scOp
    tidyL1 s (coreOf s.cur.gang) ∧ Alone s (runOf s) x.hd 0 ∧ holdsRecord s x.q (record 6 2 0x2000 16 1 4 0 0) (.ty .n32) ∧
    Issues (plainInfo x.hd 8 [x.x] [x.v] (addrW x.x && x.v.w.stitches == x.ty.stitches)) s (runOf s) ∧
    elemKeys s (record 6 2 0x2000 16 1 4 0 0) (.ty .n32) (elemIndex (s.here 0) x.x x.imm) .read 0 (keys4 (memKey 2 0x2000)) ∧
    (∀ k, some k ∈ keys4 (memKey 2 0x2000) → lineOf k = line0.line ∧ (keyRegion k = 1 ∨ keyRegion k = 2) ∧ cacheable 2 k = true) ∧
    (∀ e ∈ s.owners, e.1 = line0.line → e.2 = 2) ∧ (line0.line, 2) ∈ s.owners ∧ 2 ≠ coreOf s.cur.gang ∧ tidyL1 s 2 ∧
    unspoilt s 2 = true ∧ ∀ k, some k ∈ keys4 (memKey 2 0x2000) → cleanAt s (coreOf s.cur.gang) k := by
  refine ⟨⟨tidy_of rfl, rfl, rfl, alone_of (by decide +kernel), now_of (by decide +kernel), holds_of (by decide +kernel), by decide +kernel, issues_of (by unfold Checks; decide +kernel),
    apart_keys4 _, elem_of (by decide +kernel)⟩,
    ⟨rfl, rfl, issues_of (by unfold Checks; decide +kernel), alone_of (by decide +kernel), now_of (by decide +kernel), holds_of (by decide +kernel),
      by decide +kernel, apart_keys4 _, fun j hj => by
        obtain rfl : j = 0 := by omega
        exact elem_of (by decide +kernel)⟩, tidy_of rfl, alone_of (by decide +kernel), holds_of (by decide +kernel),
    issues_of (by unfold Checks; decide +kernel), elem_of (by decide +kernel), ?_, by decide +kernel, by decide +kernel, by decide +kernel,
    tidy_line (by decide +kernel), by decide +kernel, ?_⟩
  · intro k hk
    simp only [keys4, List.mem_cons, Option.some.injEq, List.not_mem_nil, or_false] at hk
    rcases hk with rfl | rfl | rfl | rfl <;> decide +kernel
  · intro k _ l hl
    have e : (owned.core (coreOf owned.cur.gang)).l1 = [] := rfl
    simp [findLine, e] at hl

theorem witness_PrefetchesWriteBacksAndFences :
    (∀ p ∈ [(dev 0x232, false), (dev 0x233, true)], let s : State := p.1
      Alone s (runOf s) hd0 0 ∧ tidyL1 s (coreOf s.cur.gang) ∧ holdsRecord s 3 (record 6 2 0x2000 16 1 4 0 0) (.ty .n32) ∧
      elemKeys s (record 6 2 0x2000 16 1 4 0 0) (.ty .n32) (elemIndex (s.here 0) (o 0 .w8) 15) .read 15 (keys4 (memKey 2 0x203C)) ∧
      boundsMode (record 6 2 0x2000 16 1 4 0 0) 15 = .index 15 ∧ cacheable 0 (memKey 2 0x203C) = true ∧
      Issues { (if p.2 then plainInfo hd0 8 [o 0 .w8] [] true else memInfo hd0 8 [o 0 .w8] [] true) with pf := false } s (runOf s)) ∧
    let s := dev 0x2BF
    Issues { plainInfo hd0 0xA [] [] true with pf := false } s (runOf s) ∧ scopeWide .c = true ∧ Quiet s ∧ linesSent s (coreOf s.cur.gang) = true ∧
    participants s s.cur (runOf s) hd0 true ≠ 0 := by
  refine ⟨?_, issues_of (by unfold Checks; decide +kernel), by decide, quiet_of (by decide +kernel), by decide +kernel, by decide +kernel⟩
  intro p hp
  simp only [List.mem_cons, List.not_mem_nil, or_false] at hp
  rcases hp with rfl | rfl <;>
    exact ⟨alone_of (by decide +kernel), tidy_of rfl, holds_of (by decide +kernel), elem_of (by decide +kernel), by decide +kernel, by decide +kernel,
      issues_of (by unfold Checks; decide +kernel)⟩

theorem witness_AtomicsAtTheirPlaces :
    (∀ p ∈ [(dev 0x270, record 6 2 0x2000 16 1 4 0 0, memKey 2 0x2000), (spad 0x270, record 6 0 0x100 16 1 4 0 0, 0x100)], let s : State := p.1
      Alone s (runOf s) hd0 0 ∧ holdsRecord s 3 p.2.1 (.ty .n32) ∧
      Issues (plainInfo hd0 0xA [o 0 .w8, o 16 .w16] [atomDst (o 16 .w16) .cas .n32] (atomV (o 16 .w16) .cas .n32)) s (runOf s) ∧
      Aop.cas.accepts .n32 = true ∧ elemKeys s p.2.1 (.ty .n32) (elemIndex (s.here 0) (o 0 .w8) 0) .readWrite 0 (keys4 p.2.2) ∧
      apartKeys (fun _ => keys4 p.2.2) 1) ∧
    let s := based (at_ 0x2A0) 0x1FFC
    Alone s (runOf s) hd0 0 ∧ Aop.add.accepts .n32 = true ∧
    Issues (plainInfo hd0 0xA [o 0 .w8, o 16 .w8] [atomDst (o 16 .w8) .add .n32] (atomV (o 16 .w8) .add .n32)) s (runOf s) ∧
    apartKeys (fun _ => atomsKeys s s.cur (s.here 0) (o 0 .w8) 1 0 .n32) 1 := by
  refine ⟨?_, alone_of (by decide +kernel), by decide, issues_of (by unfold Checks; decide +kernel), ?_⟩
  · intro p hp
    simp only [List.mem_cons, List.not_mem_nil, or_false] at hp
    rcases hp with rfl | rfl <;>
      exact ⟨alone_of (by decide +kernel), holds_of (by decide +kernel), issues_of (by unfold Checks; decide +kernel), by decide,
        elem_of (by decide +kernel), apart_keys4 _⟩
  · have e : atomsKeys (based (at_ 0x2A0) 0x1FFC) (based (at_ 0x2A0) 0x1FFC).cur ((based (at_ 0x2A0) 0x1FFC).here 0) (o 0 .w8) 1 0 .n32 = keys4 0x1FFC := by
      decide +kernel
    rw [e]
    exact apart_keys4 _

/-- A contribution of 1 on its way. -/
def red5 : Redn :=
  { id := 5, core := 0, gang := 0, lane := 0, team := some 1, dom := 0, key := memKey 2 0x2000, aop := .add, ty := .n32, x := 1, ordm := false,
    meter := none, ctx := 0, link := none }

theorem witness_ReductionsTravel :
    (let s := dev 0x280
     (runOf s).hdr.guarded = false ∧ Alone s (runOf s) hd0 0 ∧ (∀ wide, storesNow s (runOf s) 0 wide) ∧ tidyL1 s (coreOf s.cur.gang) ∧
      holdsRecord s 3 (record 6 2 0x2000 16 1 4 0 0) (.ty .n32) ∧ Issues { bufInfo hd0 0xA [o 0 .w8, o 16 .w8] (atomV (o 16 .w8) .add .n32) with pf := false } s (runOf s) ∧
      elemKeys s (record 6 2 0x2000 16 1 4 0 0) (.ty .n32) (elemIndex (s.here 0) (o 0 .w8) 0) .write 0 (keys4 (memKey 2 0x2000)) ∧
      keyRegion (memKey 2 0x2000) ≠ 0 ∧ cleanAt s (coreOf s.cur.gang) (memKey 2 0x2000)) ∧
    (let d := { red5 with id := 6 }
     let s : State := { dev 0x280 with reds := [red5, d] }
     s.reds.find? (fun e => e.id == red5.id) = some red5 ∧ s.reds.find? (fun e => e.id == d.id) = some d ∧ s.poison = [] ∧
      inTurn s [red5.id] [red5] = true ∧ inTurn s [d.id] [d] = false ∧ doomed s red5.owner = false) ∧
    let s := based (at_ 0x2B0) 0x1FFC
    (runOf s).hdr.guarded = false ∧ Alone s (runOf s) hd0 0 ∧ storesNow s (runOf s) 0 false ∧
    Issues { bufInfo hd0 0xA [o 0 .w8, o 16 .w8] (atomV (o 16 .w8) .add .n32) with pf := false } s (runOf s) ∧
    atomsKeys s s.cur (s.here 0) (o 0 .w8) 1 0 .n32 = keys4 0x1FFC ∧ apartKeys (fun _ => keys4 0x1FFC) 1 ∧
    ∀ k, some k ∈ keys4 0x1FFC → keyRegion k = 0 := by
  refine ⟨⟨rfl, alone_of (by decide +kernel), fun wide => now_of (by cases wide <;> decide +kernel), tidy_of rfl, holds_of (by decide +kernel), issues_of (by unfold Checks; decide +kernel), elem_of (by decide +kernel),
    by decide +kernel, ?_⟩, by decide +kernel, rfl, alone_of (by decide +kernel), now_of (by decide +kernel), issues_of (by unfold Checks; decide +kernel), by decide +kernel,
    apart_keys4 _, ?_⟩
  · intro l hl
    have e : ((dev 0x280).core (coreOf (dev 0x280).cur.gang)).l1 = [] := rfl
    simp [findLine, e] at hl
  · intro k hk
    simp only [keys4, List.mem_cons, Option.some.injEq, List.not_mem_nil, or_false] at hk
    rcases hk with rfl | rfl | rfl | rfl <;> decide +kernel

/-! ## Matrix words -/

def tileOf1 : Tile := { Tile.reset with holder := some 1, last := some 1 }

/-- The team at the cursor holds quarter 0; k12 and k13 name it, k8 to k11 hold zero, k14 the command word of one row. -/
def matrix (op : Nat) : State := withK (withK (withK ((at_ op).setTile 0 tileOf1) 12 1) 13 1) 14 (2 ^ 20)

/-- The format block of zero: .bx8 operands, blocks of 32, accumulation in floating point. -/
def fmt0 : FmtBlk := { bscale := { vault := false, addr := 0 }, bt2 := false, b16 := false, abx4 := false, a16 := false, h := 0, i32 := false, ascale := 0 }

def place0 : MPlace := { vault := false, addr := 0 }

/-- A command of quarter 0 in the sequence of core 0. -/
def mat (op : MatOp) (started consumed : Bool) : MatCmd :=
  { id := 7, core := 0, tw := false, team := 1, gang := 0, qmask := 1, op, bar := none, started, since := 0, consumed, a := List.replicate 512 0, exts := [] }

theorem witness_MatrixCommandsJoinTheSequence :
    (∀ p ∈ [(0x2C0, MatOp.charge place0 fmt0 false), (0x2C1, .mma 1 0 fmt0 false), (0x2C2, .accz), (0x2C3, .accld place0), (0x2C4, .accst place0 0 .rne),
        (0x2C5, .accq place0 place0 true false)],
      let s := matrix p.1
      let c := mat p.2 false false
      Mask.lowest (participants s s.cur (runOf s) hd0 true) = some 0 ∧ (s.gang s.cur.gang).team = some 1 ∧ engineFull s 0 false = false ∧
      tileFault s 1 (quarterTiles [coreOf s.cur.gang] 1) (extsOf (c.srcs ++ c.dsts)) = none ∧ placeWordOf (kreg s s.cur 8) true = some place0 ∧
      placeWordOf (kreg s s.cur 9) false = some place0 ∧ fmtBlkOf (kpair s s.cur 10) = some fmt0 ∧
      quarterWordOf (kreg s s.cur 12) false true = some { qmask := 1, clr := false, ofmt := 0 } ∧
      quarterWordOf (kreg s s.cur 12) false false = some { qmask := 1, clr := false, ofmt := 0 } ∧ mmaShape s 0 false 1 fmt0 = some false ∧
      fld (kreg s s.cur 14) 27 37 = 0 ∧ fld (kreg s s.cur 14) 0 20 % 64 = 0 ∧ fld (kreg s s.cur 14) 20 7 = 1) ∧
    ∀ p ∈ [0x2C0, 0x2C1, 0x2C2, 0x2C3, 0x2C4, 0x2C5].map (fun n => (matInfo hd0 [] true, matrix n)), Issues p.1 p.2 (runOf p.2) :=
  ⟨by decide +kernel, all_issue (by decide +kernel)⟩

/-- The machine at a cycle with one command in its sequence, that started in cycle 0 if it has. -/
def withMat (c : MatCmd) (cycle : Nat := 99) : State := { matrix 0x2C1 with mats := [c], mclock := cycle }

theorem witness_MatrixCommandsProceedInOrder :
    let m := MatOp.mma 1 0 fmt0 false
    (∀ p ∈ [(mat m false false, true, false, false), (mat m true false, false, true, false), (mat m true true, false, false, true), (mat .accz true false, false, false, true)],
      let s := withMat p.1
      findMat s p.1.id = some p.1 ∧ unspoilt s p.1.core = true ∧ (∀ k ∈ p.1.cores, matPrev s p.1 k = none) ∧ (∀ b ∈ matsBefore s p.1.id, b.consumed = true) ∧
        (∀ e ∈ p.1.exts, vaultReady s (e.2 / 256) = true) ∧ (∀ b ∈ matsBefore s p.1.id, sharesCore p.1 b = false) ∧
        (canStart s p.1, canConsume s p.1, canRetire s p.1) = p.2) ∧
    (∀ n ∈ [18, 19], canConsume (withMat (mat m true false) n) (mat m true false) = decide ((mat m true false).since + (mat m true false).lastRow ≤ n)) ∧
    (∀ n ∈ [50, 51], canRetire (withMat (mat m true true) n) (mat m true true) = decide (n = 51)) ∧
    (∀ n ∈ [7, 8], let b := mat m true false
      let c := { mat m false false with id := 8 }
      let s : State := { withMat b n with mats := [b, c] }
      findMat s c.id = some c ∧ isMma c = true ∧ (∀ k ∈ c.cores, matPrev s c k = some b) ∧ b.since + b.window = 27 ∧ canStart s c = decide (27 < n + 20)) ∧
    let b := mat m true true
    let c := { mat m true true with id := 8 }
    let s : State := { withMat b with mats := [b, c] }
    findMat s b.id = some b ∧ canRetire s b = true ∧ unspoilt s b.core = true ∧ sharesCore b c = true := by
  decide +kernel

theorem witness_MatrixResults : let c := mat (.mma 1 0 fmt0 false) true true
    findMat (withMat c) c.id = some c ∧ canRetire (withMat c) c = true ∧ (withMat c).poison = [] ∧ quartersOf c.qmask = [0] := by decide +kernel

theorem witness_AcczClearsItsSlices : let c := mat .accz true false
    findMat (withMat c) c.id = some c ∧ canRetire (withMat c) c = true ∧
    ∀ e ∈ (withMat c).gangs, e.2.a.run.all (fun R => R.lates == []) = true ∧ e.2.b.run.all (fun R => R.lates == []) = true := by decide +kernel

theorem witness_MatrixSynchronisation : let s := matrix 0x2C6
    Issues (matInfo hd0 [o 16 .w8] true) s (runOf s) ∧ Mask.lowest (participants s s.cur (runOf s) hd0 true) = some 0 ∧
    (s.gang s.cur.gang).team = some 1 ∧ quarterWordOf (kreg s s.cur 13) true false = some { qmask := 1, clr := false, ofmt := 0 } ∧
    tileFault s 1 (quarterTiles [0] 1) [] = none ∧ s.mats = [] ∧ (runOf s).lates = [] ∧ (quarterTiles [0] 1).Nodup :=
  ⟨issues_of (by unfold Checks; decide +kernel), by decide +kernel⟩

/-! ## Copies and batches -/

/-- A layout record (06 R140): format .n32 in space 2, 32 elements and one row. -/
def layout (base oob : Nat) : Nat := base + 2 * 2 ^ 56 + 32 * 2 ^ 64 + 1 * 2 ^ 88 + 6 * 2 ^ 112 + oob * 2 ^ 120 + 128 * 2 ^ 128

/-- The operand words of 13's `handdemo`: the record at 0x4000, the box of 32 elements at the origin, scratchpad offset 0. -/
def copyOps (s : State) (lay : Nat) : State :=
  let s := withK (withK (withK s 4 0x4000) 7 0x0001000001000020) 8 0
  { memory s 0 with mem := s.mem.writeN (memKey 2 0x4000) 32 lay }

def req : CopyReq :=
  { kind := 0, lane := 0, layoutAddr := 0x4000, box0 := 0, box1 := 0x0001000001000020, spw := 0, bar := some (.team 1 2), br := .team 2, aop := .add, ty := .none }

/-- The slot at the cursor waits for its copy's check. -/
def checking (q : CopyReq) (lay : Nat) : State := withSlot (copyOps (at_ 0x300) lay) (fun X => { X with wait := .copy q })

/-- What the check of a copy finds: the record and the pages, or the cause of a fault. -/
def found (x : State × Checked) : Option (Nat × List Nat × Tab Nat) ⊕ Nat :=
  match x.2 with
  | .ok w i p => .inl (some (w, i, p))
  | .fault c _ => .inr c
  | .poison _ => .inl none

theorem check_ok {s : State} {r : SlotRef} {q : CopyReq} {v : Nat × List Nat × Tab Nat} (h : found (checkCopy s r q) = .inl (some v)) :
    ∃ s', checkCopy s r q = (s', .ok v.1 v.2.1 v.2.2) := by
  generalize checkCopy s r q = x at h ⊢
  obtain ⟨s', w⟩ := x
  cases w with
  | ok => simp [found] at h; subst h; exact ⟨s', rfl⟩
  | fault => simp [found] at h
  | poison => simp [found] at h

theorem check_fault {s : State} {r : SlotRef} {q : CopyReq} {c : Nat} (h : found (checkCopy s r q) = .inr c) :
    ∃ s' d, checkCopy s r q = (s', .fault c d) := by
  generalize checkCopy s r q = x at h ⊢
  obtain ⟨s', w⟩ := x
  cases w with
  | fault => simp [found] at h; subst h; exact ⟨s', _, rfl⟩
  | ok => simp [found] at h
  | poison => simp [found] at h

theorem witness_CopiesAreCheckedAndAccepted :
    (let s := copyOps (at_ 0x300) (layout 0x4020 0)
     Issues (copyInfo hd0 [] true) s (runOf s) ∧ Mask.lowest (participants s s.cur (runOf s) hd0 true) = some 0 ∧ unitFull s (coreOf s.cur.gang) = false) ∧
    (let s := checking req (layout 0x4020 0)
     (s.slot s.cur).wait = .copy req ∧ (s.slot s.cur).run = some (runOf s) ∧ s.reds = [] ∧ copyRecReady s s.cur req = true ∧
      copyRecReady { s with ready := { s.ready with lpg := 0 } } s.cur req = false ∧
      ∃ s', checkCopy s s.cur req = (s', .ok (layout 0x4020 0) [] [(4, memKey 2 0x4000)])) ∧
    let q := { req with box0 := 1 }
    let s := checking q (layout 0x4020 1)
    (s.slot s.cur).wait = .copy q ∧ (s.slot s.cur).run = some (runOf s) ∧ s.reds = [] ∧ copyRecReady s s.cur q = true ∧ tabFind (runOf s).faults q.lane = none ∧
    ∃ s' d, checkCopy s s.cur q = (s', .fault 12 d) :=
  ⟨⟨issues_of (by unfold Checks; decide +kernel), by decide +kernel⟩,
   ⟨by decide +kernel, by decide +kernel, rfl, by decide +kernel, by decide +kernel, check_ok (v := (layout 0x4020 0, [], [(4, memKey 2 0x4000)])) (by decide +kernel)⟩,
   by decide +kernel, by decide +kernel, rfl, by decide +kernel, by decide +kernel, check_fault (by decide +kernel)⟩

/-- The copy of `handdemo` under way, without its barrier: the first granule requested, or both landed. -/
def copy1 (requested : Nat) (landed : List Nat) : Copy :=
  { id := 9, core := 0, team := 1, gangNum := 0, gang := 0, req := { req with bar := none }, layout := BitVec.ofNat 256 (layout 0x4020 0), idx := [],
    pages := [(4, memKey 2 0x4000)], batch := 1, requested, landed }

def withCopy (c : Copy) : State := { copyOps (at_ 0x300) (layout 0x4020 0) with copies := [c] }

theorem witness_CopiesLandAndComplete :
    (let c := copy1 0 []
     nextRequest (withCopy c) 0 = some c ∧ c.byRed = false) ∧
    (let c := copy1 1 []
     let s := withCopy c
     findCopy s c.id = some c ∧ c.req.kind = kCpy ∧ c.req.out = false ∧ c.req.bar = none ∧ s.poison = [] ∧ s.reds = [] ∧ doomed s (some c.team) = false ∧
      (∀ k ∈ granulePlaces c 0, peerRefuses s k = false) ∧ 8 ≤ c.bits ∧
      ((s.team? c.team).map (·.remap)) = some none ∧ (s.core c.core).l1 = [] ∧ c.granule 0 = List.range 64 ∧
      ((c.granule 0).map (fun x => copySpadKey s c (c.dst x))) = (List.range 64).map some ∧
      (∀ x ∈ c.granule 0, ∀ i ∈ [((x % 128) / 4, 0, 8, 8 * (x % 128 % 4))], c.memPart (x / c.req.rowBytes c.bits) i = some (memKey 2 (0x4020 + x), 0, 8)) ∧
      copyDone c = false) ∧
    let c := copy1 2 [0, 1]
    findCopy (withCopy c) c.id = some c ∧ copyDone c = true := by
  refine ⟨by decide +kernel, by decide +kernel, by decide +kernel⟩

/-- The machine with the batches of lane 0 and a batch number in k3. -/
def batches (op sealed done n : Nat) : State := withK (withGang (at_ op) (fun G => { G with batches := [(0, { sealed, done })] })) 3 n

theorem witness_BatchesAreSealedAndComplete :
    (∀ p ∈ ([(copyInfo hd0 [] true, batches 0x304 254 0 0), (copyInfo hd0 [] true, batches 0x304 255 0 0), (copyInfo hd0 [] true, batches 0x305 2 1 1),
        (copyInfo hd0 [] true, batches 0x305 2 1 2), (copyInfo hd0 [] true, batches 0x305 2 1 3), ({ copyInfo hd0 [] true with pf := true }, batches 0x306 2 1 2),
        (copyInfo hd0 [o 16 .w8] true, batches 0x303 2 1 0)] : List (WordInfo × State)), Issues p.1 p.2 (runOf p.2)) ∧
    (∀ s ∈ [batches 0x304 254 0 0, batches 0x305 2 1 1], Mask.lowest (participants s s.cur (runOf s) hd0 true) = some 0 ∧ s.copies = []) ∧
    (let b := laneBatch (batches 0x304 254 0 0) 0 0
     b.sealed - b.done < 255) ∧
    (let b := laneBatch (batches 0x304 255 0 0) 0 0
     255 ≤ b.sealed - b.done) ∧
    (let b := laneBatch (batches 0x305 2 1 1) 0 0
     batchIndex b 1 = some 1 ∧ 1 ≤ b.done ∧ batchIndex b 0 = some 0 ∧ batchIndex b 2 = some 2 ∧ b.done < 2 ∧ batchIndex b 3 = none) ∧
    batchDue (batches 0x305 2 1 1) 0 0 = true ∧
    (∀ n ∈ [254, 255], let s : State := { withSlot (batches 0x304 n 0 1) (fun X => { X with wait := .seal 0 }) with copies := [copy1 0 []] }
     let b := laneBatch s 0 0
     batchDue s 0 0 = false ∧ (s.slot s.cur).mask ≠ 0 ∧ (s.slot s.cur).wait = .seal 0 ∧
      (s.gang 0).stack = [] ∧ decide (b.sealed - b.done < 255) = (n == 254)) ∧
    let s := withSlot (batches 0x305 2 2 1) (fun X => { X with wait := .bwait 0 2 })
    batchDue s 0 0 = false ∧ (s.slot s.cur).mask ≠ 0 ∧ (s.slot s.cur).wait = .bwait 0 2 ∧ (s.slot s.cur).run = some (runOf s) ∧ (s.gang 0).stack = [] :=
  ⟨all_issue (by decide +kernel), by decide +kernel⟩

/-! ## Barriers, watches, drains, spawns -/

/-- The team's barrier b2 changed, the launch with grid barriers. -/
def bars (op : Nat) (y : Barrier) : State :=
  let s := (at_ op).updTeam 1 (fun T => { T with bars := listSet T.bars 2 y })
  s.updLaunch 1 (fun L => { L with block := listSet L.block 4 (2 ^ 28) })

theorem witness_BarrierWords :
    (∀ p ∈ ([(syncInfo hd0 [] true, at_ 0x307), (syncInfo hd0 [] true, at_ 0x308), (syncInfo hd0 [] true, bars 0x30D (Barrier.init 1)),
        ({ syncInfo hd0 [] true with pf := true }, at_ 0x30A)] : List (WordInfo × State)), Issues p.1 p.2 (runOf p.2)) ∧
    Quiet (at_ 0x307) ∧ Quiet (bars 0x30D (Barrier.init 1)) ∧ participants (at_ 0x307) (at_ 0x307).cur (runOf (at_ 0x307)) hd0 false ≠ 0 ∧
    (let s := withK (withK (at_ 0x307) 1 4095) 2 4096
     barOf s 0 (.team 2) = some (.team 1 2) ∧ barGet s (.team 1 2) = some (Barrier.init 1) ∧ barIdle s (.team 1 2) (Barrier.init 1) = true ∧
      kreg s s.cur 1 ≠ 0 ∧ kreg s s.cur 1 < 2 ^ 12 ∧ 2 ^ 12 ≤ kreg s s.cur 2) ∧
    (let y : Barrier := { phase := true, expmem := 2, arrmem := 1, expbytes := 2 ^ 32 - 1, arrbytes := 2 ^ 32 - 1, came := [], next := 0 }
     let s := bars 0x307 y
     barGet s (.team 1 2) = some y ∧ barIdle s (.team 1 2) y = false ∧ y.arrbytes < 2 ^ 32 ∧
      (0 : Int) ≤ y.expbytes + extS (kreg s s.cur 5) 64 ∧ y.expbytes + extS (kreg s s.cur 5) 64 < 2 ^ 32 ∧
      2 ^ 32 ≤ y.expbytes + extS (kreg (withK s 5 1) s.cur 5) 64) ∧
    (let s := at_ 0x30C
     barOf s 0 (.grid 4) = some (.grid 1 4) ∧ barGet s (.grid 1 4) = none) ∧
    let s := bars 0x30D (Barrier.init 1)
    (s.gang 0).team = some 1 ∧ (s.team? 1).map (·.ngang) = some 1 ∧ ((s.updTeam 1 (fun T => { T with ngang := 2 })).team? 1).map (·.ngang) = some 2 ∧
      barGet s (.grid 1 0) = some (Barrier.init 1) ∧ barOf s 0 (.cluster 1) ≠ none ∧ linesSent s (coreOf s.cur.gang) = true :=
  ⟨all_issue (by decide +kernel), quiet_of (by decide +kernel), quiet_of (by decide +kernel), by decide +kernel⟩

theorem witness_BarriersComplete :
    let y : Barrier := { phase := false, expmem := 1, arrmem := 2, expbytes := 128, arrbytes := 128, came := [], next := 0 }
    let s := withSlot (bars 0x308 y) (fun X => { X with wait := .barrier (.team 1 2) false false })
    let z : Barrier := { phase := true, expmem := 1, arrmem := 1, expbytes := 0, arrbytes := 0, came := [], next := 0 }
    barGet s (.team 1 2) = some y ∧ y.completes s.now = true ∧ z.completes s.now = true ∧ { z with next := s.now + 1 }.completes s.now = false ∧ waitsOn (s.slot s.cur) (.team 1 2) = some false ∧ (s.gang 0).stack = [] := by decide +kernel

theorem witness_Watches :
    Issues (syncInfo hd0 [] true) (at_ 0x30E) (runOf (at_ 0x30E)) ∧ participants (at_ 0x30E) (at_ 0x30E).cur (runOf (at_ 0x30E)) hd0 false ≠ 0 ∧
    watchOk (4 * 2 ^ 56 + 8) = true ∧ watchOk (5 * 2 ^ 56) = false ∧ watchOk 4 = false ∧
    let s := withSlot (at_ 0x30E) (fun X => { X with wait := .watch 8 0, run := none })
    (s.slot s.cur).wait = .watch 8 0 ∧ (s.slot s.cur).mask ≠ 0 ∧ (s.gang 0).stack = [] ∧ (watchRead s s.cur 8).2 = some 0 :=
  ⟨issues_of (by unfold Checks; decide +kernel), by decide +kernel⟩

/-- The launch with grid barriers, a sweep of its counters, and a DRAIN of the slot at the cursor that waits for it. -/
def draining (h : Option (Nat × Nat)) : State :=
  let s := (bars 0x30F (Barrier.init 1)).updLaunch 1 (fun L => { L with sweep := some { pairs := 0, half := h } })
  withRun s (fun R => { R with lates := [{ id := 4, kind := .drain 1, val := none }] })

theorem witness_DrainsSumTheCounters :
    (∀ p ∈ [(bars 0x30F (Barrier.init 1), true), (at_ 0x30F, false)], let s : State := p.1
      Issues (syncInfo hd0 [o 16 .w8] true) s (runOf s) ∧ participants s s.cur (runOf s) hd0 false ≠ 0 ∧ s.reds = [] ∧
      linesSent s (coreOf s.cur.gang) = true ∧
      ((teamOf s 0).bind (fun T => s.launch? T.launch)).map (·.grid) = some p.2) ∧
    ∀ h ∈ [none, some (0, 0), some (1, 0)], let s := draining h
      ((s.launch? 1).bind (·.sweep)) = some { pairs := 0, half := h } ∧ ((s.launch? 1).map (fun L => (L.sent, L.recv))) = some (0, 0) ∧
      copyChecked s 1 = false ∧ (s.slot s.cur).run = some (runOf s) ∧ (runOf s).lates = [{ id := 4, kind := .drain 1, val := none }] := by
  refine ⟨?_, by decide +kernel⟩
  intro p hp
  simp only [List.mem_cons, List.not_mem_nil, or_false] at hp
  rcases hp with rfl | rfl <;> exact ⟨issues_of (by unfold Checks; decide +kernel), by decide +kernel⟩

/-- SPAWN at the cursor: the entry in k1, 64 stitches in k2. -/
def spawning (e : Nat) : State := withK (withK (at_ 0x340) 1 e) 2 64

/-- Bin 0 of core 0. -/
def withBin (s : State) (b : Bin) : State := s.setCore 0 { s.core 0 with bins := listSet (s.core 0).bins 0 b }

def bin1 : Bin := { bound := true, team := 1, entry := 0x2000, role := .v, lanes := [5, 6], left := 0, due := true }

theorem witness_SpawnedLanes :
    (∀ e ∈ [0x2000, 0x2001], let s := spawning e
      Issues { WordInfo.plain hd0 0xD ((List.range 8).map (fun i => { start := 0 + 8 * i, w := .w8 })) [] true with
        noGuard := true, noHandler := true, noCast := true } s (runOf s) ∧ participants s s.cur (runOf s) hd0 false ≠ 0 ∧
      payloadOk (kreg s s.cur 2) = true ∧ 0 + 64 ≤ stitchLimit s s.cur) ∧
    (let s := spawning 0x2000
     (codeRegion s s.cur).1 ≤ 0x2000 ∧ 0x2000 + 8 ≤ (codeRegion s s.cur).2 ∧ (s.gang 0).team = some 1 ∧
      binFor (s.core 0) 1 0x2000 = some 0 ∧ (s.core 0).bins[0]? = some Bin.free ∧ (Mask.lanes (s.slot s.cur).mask).length ≤ 32) ∧
    (let s := spawning 0x2000
     let s := s.setCore 0 { s.core 0 with bins := List.replicate 16 { bin1 with entry := 0x3000 } }
     binFor (s.core 0) 1 0x2000 = none) ∧
    (formable (withBin (at_ 0x340) bin1) 0 0).isSome = true := by
  refine ⟨?_, by decide +kernel⟩
  intro e he
  simp only [List.mem_cons, List.not_mem_nil, or_false] at he
  rcases he with rfl | rfl <;> exact ⟨issues_of (by unfold Checks; decide +kernel), by decide +kernel⟩

/-! ## Tiles -/

/-- A tile held by team 2. -/
def heldBy2 (cls : Cls) (q : List TileReq) : Tile := { Tile.reset with holder := some 2, last := some 2, cls, queue := q }

def tileReq (t : Nat) : TileReq := { team := t, cls := .fix, prio := 0, arr := 0, nb := false, va := 0 }

/-- CLAIM at the cursor: k1 names a tile, k2 is to receive an address. -/
def claiming (id : Nat) (y : Tile) : State := (withK (at_ 0x341) 1 id).setTile (id % 4) y

/-- A limit of no quarters at the team's block. -/
def limited (s : State) : State :=
  { s.updLaunch 1 (fun L => { L with rcb := 0x8000 }) with rcbs := [{ Rcb.blank with addr := 0x8000, limq := 0 }] }

theorem witness_ClaimsOfQuarters :
    (∀ s ∈ [claiming 3 Tile.reset, claiming (2 ^ 60 * 2) Tile.reset, claiming 8 Tile.reset, limited (claiming 3 Tile.reset),
        claiming 3 (heldBy2 .neg (List.replicate 8 (tileReq 3)))],
      Issues { tileInfo hd0 [o 16 .w8] true with noHandler := true, noCast := true } s (runOf s) ∧ participants s s.cur (runOf s) hd0 false ≠ 0 ∧
      (s.gang s.cur.gang).team = some 1 ∧ (s.team? 1).isSome = true) ∧
    (let s := claiming 3 tileOf1
     (s.tile 3).holder = some 1 ∧ (s.tile 3).passing = none) ∧
    ((limited (claiming 3 Tile.reset)).team? 1).map (fun T => tileOver (limited (claiming 3 Tile.reset)) T 3) = some true ∧
    (let s := claiming 3 Tile.reset
     (s.team? 1).map (fun T => (tileOver s T 3, T.reg)) = some (false, none) ∧ (s.tile 3).holder = none ∧ claimants s 1 3 = [] ∧
      ∀ e ∈ s.gangs, e.2.a.run.all (fun R => R.lates == []) = true ∧ e.2.b.run.all (fun R => R.lates == []) = true) ∧
    (let s := claiming (2 ^ 60 * 1) Tile.reset
     (tileOf s s.cur (2 ^ 60)).2 = none ∧ fld (2 ^ 60) 56 8 ≠ 0 ∧ (tileOf (claiming 7 Tile.reset) s.cur 7).2 = some (7, 0)) ∧
    (∀ n ∈ [7, 8], let y := (claiming 3 (heldBy2 .neg (List.replicate n (tileReq 3)))).tile 3
      y.holder = some 2 ∧ y.cls = .neg ∧ y.queue.any (fun q => q.team == 1) = false ∧ y.waiting = [] ∧ decide (y.queue.length < 8) = (n == 7)) ∧
    (let y := (claiming 3 (heldBy2 .fix [])).tile 3
     y.holder = some 2 ∧ y.cls ≠ .loan ∧ y.cls ≠ .neg ∧ y.queue = [] ∧ y.waiting = []) ∧
    ∀ e ∈ [none, some (tileReq 1), some (tileReq 3)], let y := (claiming 3 { heldBy2 .loan [] with next := e }).tile 3
      y.holder = some 2 ∧ y.cls = .loan ∧ (y.next.toList ++ y.queue ++ y.waiting).any (fun q => q.team == 1) = (e == some (tileReq 1)) := by
  refine ⟨?_, by decide +kernel⟩
  intro s hs
  simp only [List.mem_cons, List.not_mem_nil, or_false] at hs
  rcases hs with rfl | rfl | rfl | rfl | rfl <;> exact ⟨issues_of (by unfold Checks; decide +kernel), by decide +kernel⟩

def claim3 : ClaimOp := { hd := hd0, d := o 16 .w8, p := 1, ksum := 2, ktile := 1, cls := .fix, nb := false }

theorem witness_GrantsFollowTheQueue :
    (let s := claiming 3 tileOf1
     (s.tile 3).holder ≠ none) ∧
    (let s := limited (claiming 3 { Tile.reset with queue := [tileReq 1] })
     (s.tile 3).next = none ∧ (s.tile 3).waiting = [] ∧ (s.tile 3).queue = [tileReq 1] ∧ mayGrant s 3 (tileReq 1) = false) ∧
    (let s := claiming 3 { Tile.reset with queue := [tileReq 3], next := some (tileReq 1) }
     let y := s.tile 3
     y.holder = none ∧ y.passing = none ∧ y.next = some (tileReq 1) ∧ y.waiting = [] ∧ mayGrant s 3 (tileReq 1) = true) ∧
    let s := withSlot (claiming 3 { Tile.reset with queue := [tileReq 1], summ := some 0x5000 }) (fun X => { X with wait := .claim 3 claim3 0xFFFFFFFF })
    let y := s.tile 3
    y.holder = none ∧ y.passing = none ∧ y.next = none ∧ y.waiting = [] ∧ y.queue = [tileReq 1] ∧ mayGrant s 3 (tileReq 1) = true ∧ claimants s 1 3 = [s.cur] ∧
    (s.slot s.cur).wait = .claim 3 claim3 0xFFFFFFFF ∧ (s.slot s.cur).run = some (runOf s) ∧ (runOf s).lates = [] := by decide +kernel

/-- The gang at the cursor runs a routine of a tile. -/
def routine (s : State) (tile count : Nat) : State :=
  let X : Slot := { Slot.free with mask := 0xFFFFFFFF, entry := 0x3000 }
  withGang s (fun G => { G with co := some { tile, a := X, b := Slot.free, preds := List.replicate 64 1, fpsr := List.replicate 64 0, count, bound := 4, depth := 0 } })

theorem witness_TileWords :
    (∀ p ∈ ([(tileInfo hd0 [] true, claiming 3 tileOf1), (tileInfo hd0 [] true, routine (claiming 3 tileOf1) 3 0),
        ({ tileInfo hd0 [] true with noHandler := true, noCast := true }, at_ 0x343), (tileInfo hd0 [o 16 .w8] true, at_ 0x344)] : List (WordInfo × State)),
      Issues p.1 p.2 (runOf p.2)) ∧
    Quiet (claiming 3 tileOf1) ∧ participants (claiming 3 tileOf1) (claiming 3 tileOf1).cur (runOf (claiming 3 tileOf1)) hd0 false ≠ 0 ∧
    linesSent (claiming 3 tileOf1) 0 = true ∧ ((claiming 3 tileOf1).tile 3).next = none ∧ ((claiming 3 tileOf1).tile 3).passing = none ∧
    ((claiming 3 tileOf1).gang 0).co.any (fun (c : Castoff) => c.tile == 3) = false ∧
    ((routine (claiming 3 tileOf1) 3 0).gang 0).co.any (fun (c : Castoff) => c.tile == 3) = true ∧
    (codeRegion (at_ 0x343) (at_ 0x343).cur).1 ≤ 0x2000 ∧ 0x2000 + 8 ≤ (codeRegion (at_ 0x343) (at_ 0x343).cur).2 :=
  ⟨all_issue (by decide +kernel), quiet_of (by decide +kernel), by decide +kernel⟩

/-- Slot A of the gang at the cursor stands at its entry. -/
def atEntry (s : State) : State := withSlot s (fun X => { X with run := none })

/-- The registrant of team 1, whose tile 3 is to be recalled. -/
def recalled : State :=
  let s := atEntry (claiming 3 { tileOf1 with cls := .neg, rcall := .due 1 })
  s.updTeam 1 (fun T => { T with reg := some { gang := 0, entry := 0x6000, bound := 7 } })

theorem witness_TilesPassOn :
    (let s := { withMat (mat .accz false false) with tiles := [(0, tileOf1)] }
     tileBusy s 0 = true) ∧
    (∀ p ∈ [Passing.release, .done, .summary 0x5000], let s := claiming 3 { tileOf1 with passing := some p }
      (s.tile 3).passing = some p ∧ tileBusy s 3 = false) ∧
    recallAt recalled 3 = some (0, { gang := 0, entry := 0x6000, bound := 7 }) ∧
    (let s := atEntry (routine (claiming 3 tileOf1) 3 4)
     let G := s.gang 0
     (G.co.map (fun c => (c.tile, c.depth, c.a.mask))) = some (3, 0, 0xFFFFFFFF#64) ∧ G.a.run = none ∧ G.b.run = none ∧ anyTrapped G = false ∧
      boundMet G = true ∧ (s.tile 3).holder = G.team ∧ (s.tile 3).passing = none) ∧
    (let s := claiming 3 { tileOf1 with cls := .loan }
     (s.tile 3).holder = some 1 ∧ (s.tile 3).cls = .loan ∧ tileBusy s 3 = false) ∧
    ((at_ 0x341).team? 1).isSome = true := by decide +kernel

/-! ## The ends of traces -/

/-- The slot at the cursor has come to the end of its trace with a terminator. -/
def ending (s : State) (x : Term) : State := withSlot (withRun s (fun R => { R with term := some (x, 1) })) (fun X => { X with wait := .resolving })

/-- A trace at its end. -/
theorem ends_of {s : State} {r : SlotRef} {R : Run} {x : Term} {off : Nat} (h : (s.slot r).mask ≠ 0 ∧ (s.slot r).wait = .resolving ∧
    (s.slot r).run = some R ∧ R.term = some (x, off) ∧ (R.pends = [] ∧ R.lates = [] ∧ R.recld = []) ∧ (R.watch = none ∧ R.idle = false ∧ R.store = []) ∧
    (R.failed = 0 ∧ R.alts = [] ∧ R.faults = [] ∧ R.trapi = none) ∧ ((s.gang r.gang).co = none ∧ (s.gang r.gang).rebuild = none)) :
    Ends s r R x off :=
  ⟨h.1, h.2.1, h.2.2.1, h.2.2.2.1, h.2.2.2.2.1, h.2.2.2.2.2.1, h.2.2.2.2.2.2.1, h.2.2.2.2.2.2.2⟩

theorem witness_LoopsCountDown :
    TermIssues { TermInfo.plain with withWatch := true } (withK (at_ 0x00F) 1 0) (runOf (withK (at_ 0x00F) 1 0)) ∧
    TermIssues { TermInfo.plain with withWatch := true } (withK (at_ 0x00F) 63 1) (runOf (withK (at_ 0x00F) 63 1)) ∧
    (∀ x ∈ [Term.next, .jmp (-1)], let s := ending (at_ 0x00F) x
      Ends s s.cur (runOf s) x 1 ∧ (s.gang s.cur.gang).stack = []) := by
  refine ⟨term_of (by decide +kernel), term_of (by decide +kernel), ?_⟩
  intro x hx
  simp only [List.mem_cons, List.not_mem_nil, or_false] at hx
  rcases hx with rfl | rfl <;> exact ⟨ends_of (by decide +kernel), by decide +kernel⟩

/-- The slot at the cursor parked on a pending result. -/
def parked (p : Pend) (failed : Mask) : State :=
  withSlot (withRun (at_ 0x180) (fun R => { R with pends := [p], failed })) (fun X => { X with wait := .landing })

theorem witness_GroupsLand :
    (∀ p ∈ [(Pend.st 31 1016 (stitchMask 1016 8) (.now 5), 0#64), (.st 0 0 (stitchMask 0 1) (.now 5), 1), (.pr 0 31 (.now 1), 0), (.uni 63 (.now 7), 0)],
      let s := parked p.1 p.2
      (s.slot s.cur).wait = .landing ∧ (s.slot s.cur).run = some (runOf s) ∧ returned s (runOf s) = true ∧ (runOf s).pends = [p.1]) ∧
    (let s := withRun (parked (.st 0 0 (stitchMask 0 1) (.late 4)) 0) (fun R => { R with lates := [{ id := 4, kind := .drain 1, val := none }] })
     (s.slot s.cur).wait = .landing ∧ returned s (runOf s) = false) ∧
    (∀ n ∈ [0, 1], let s := withSlot (withRun (at_ 0x180) (fun R => { R with back := n, pends := [.pr 0 31 (.now 1)] })) (fun X => { X with wait := .trapping 5 1 })
     (s.slot s.cur).wait = .trapping 5 1 ∧ (s.slot s.cur).run = some (runOf s) ∧ returned s (runOf s) = decide (n = 0)) ∧
    let s := withSlot (atEntry (at_ 0x001)) (fun X => { X with wait := .undo })
    let s := s.setCore 0 { s.core 0 with undoWait := [s.cur] }
    (s.core (coreOf s.cur.gang)).undoWait = [s.cur] ∧ pairFree s (coreOf s.cur.gang) = true := by decide +kernel

theorem witness_TracesEndAtTheirTargets :
    (∀ x ∈ [Term.next, .jmp 3, .call 3 (o 1008 .w16), .ret (o 8 .w16), .barw (.team 15)], let s := ending (at_ 0x008) x
      Ends s s.cur (runOf s) x 1 ∧ (s.gang s.cur.gang).stack = []) ∧
    (let s := ending (at_ 0x00E) (.ret (o 8 .w16))
     ∀ l, l < 64 → Mask.has (s.slot s.cur).mask l = true → ((s.gang 0).lane l).rd (o 8 .w16) = 0) ∧
    (let s := ending (at_ 0x00E) (.ret (o 8 .w16))
     readsPoison (s.gang 0) (s.slot s.cur).mask [o 8 .w16] = false) ∧
    let s := ending (at_ 0x012) (.barw (.team 15))
    barOf s 0 (.team 15) = some (.team 1 15) ∧ barGet s (.team 1 15) = some (Barrier.init 1) ∧ s.reds = [] ∧ unspoilt s 0 = true ∧ s.agenda = [] ∧
      linesSent s 0 = true := by
  refine ⟨?_, by decide +kernel⟩
  intro x hx
  simp only [List.mem_cons, List.not_mem_nil, or_false] at hx
  rcases hx with rfl | rfl | rfl | rfl | rfl <;> exact ⟨ends_of (by decide +kernel), by decide +kernel⟩

/-- A JSEL at its end: p1 holds in lanes 0 to 15, or nowhere but in the predicate p0. -/
def jsel (p : Nat) : State :=
  ending (withLanes (at_ 0x00A) (fun l L => if l < 16 then L.setPred 1 true else L)) (.jsel { neg := false, n := p } 10 20 30)

/-- Lanes 0 to 15 of slot A come to the address of token 5; lanes 16 to 31 have arrived, or run in slot B. -/
def joining (arrived : Bool) : State :=
  let s := ending (at_ 0x009) (.jmp 3)
  let e : StackEntry := .token 5 (pcAdd (pcAdd 0x1000 1) 3) 0xFFFFFFFF (if arrived then 0xFFFF0000 else 0) none
  let s := withSlot s (fun X => { X with mask := 0xFFFF, tok := some 5 })
  withGang s (fun G => { G with stack := [e], b := if arrived then Slot.free else { G.a with mask := 0xFFFF0000, wait := .none } })

theorem witness_GroupsDivergeAndMeet :
    (∀ p ∈ [0, 1], let s := jsel p
      Ends s s.cur (runOf s) (.jsel { neg := false, n := p } 10 20 30) 1 ∧ (s.gang 0).stack = [] ∧ (s.slot (otherSlot s.cur)).mask = 0 ∧
      (s.slot s.cur).hnd = none ∧ (s.slot (otherSlot s.cur)).hnd = none) ∧
    (∀ a ∈ [true, false], let s := joining a
      Ends s s.cur (runOf s) (.jmp 3) 1 ∧ (s.slot s.cur).tok = some 5 ∧ ((s.slot (otherSlot s.cur)).mask = 0) = (a = true) ∧
      (a = false → (s.slot (otherSlot s.cur)).run ≠ none ∧ (s.slot (otherSlot s.cur)).wait = .none)) ∧
    (let s := ending (at_ 0x010) .exit
     Ends s s.cur (runOf s) .exit 1 ∧ (s.gang 0).stack = [] ∧ (s.slot (otherSlot s.cur)).mask = 0) ∧
    let s := withGang (ending (at_ 0x010) .exit) (fun G => { G with b := { Slot.free with mask := 0xFF00000000 } })
    Ends s s.cur (runOf s) .exit 1 ∧ (s.gang 0).stack = [] ∧ (s.slot (otherSlot s.cur)).mask ≠ 0 := by
  refine ⟨?_, ?_, ⟨ends_of (by decide +kernel), by decide +kernel⟩, ends_of (by decide +kernel), by decide +kernel⟩
  · intro p hp
    simp only [List.mem_cons, List.not_mem_nil, or_false] at hp
    rcases hp with rfl | rfl <;> exact ⟨ends_of (by decide +kernel), by decide +kernel⟩
  · intro a ha
    simp only [List.mem_cons, List.not_mem_nil, or_false] at ha
    rcases ha with rfl | rfl <;> exact ⟨ends_of (by decide +kernel), by decide +kernel⟩

/-- A guarded trace of lane 31 alone at its end, with a copy of row 127. -/
def undoing (failed : Mask) (faults : Tab FaultRec) (pf : Tab (BitVec 32 × BitVec 32)) : State :=
  let s := withSlot (guarded (ending (at_ 0x008) .next)) (fun X => { X with mask := 1#64 <<< 31 })
  withRun s (fun R => { R with undoRows := [{ row := 127, old := Vector.replicate 64 9, bad := 1#64 <<< 31 }], failed, faults, undoPF := pf,
                               alts := if failed = 0 then [] else [(0x5000, failed)] })

theorem witness_GuardedTracesUndo :
    ∀ p ∈ [(1#64 <<< 31, ([] : Tab FaultRec)), (0, [(31, { cause := 12, off := 1, detail := 0 })])], ∀ pf ∈ [[], [(31, (1#32, 0#32))]],
    let s := undoing p.1 p.2 pf
    let X := s.slot s.cur
    let R := runOf s
    X.mask = 1#64 <<< 31 ∧ X.wait = .resolving ∧ X.run = some R ∧ R.term = some (.next, 1) ∧ R.hdr.guarded = true ∧ R.pends = [] ∧ R.lates = [] ∧
    R.recld = [] ∧ R.watch = none ∧ R.idle = false ∧ R.trapi = none ∧ R.undoRows = [{ row := 127, old := Vector.replicate 64 9, bad := 1#64 <<< 31 }] ∧ R.undoPF = pf ∧
    (s.gang 0).co = none ∧ (s.gang 0).rebuild = none ∧ (s.gang 0).stack = [] ∧ R.failed = p.1 ∧ R.faults = p.2 ∧
    R.alts = (if p.1 = 0 then [] else [(0x5000, p.1)]) ∧ sysMode s s.cur = false := by decide +kernel

/-! ## System words and events -/

/-- A body word at the cursor with NEXT after it. -/
def beforeNext (s : State) : State := withRun s (fun R => { R with words := [R.words.headD 0, 0x8100000000000000#64] })

/-- The same with EXIT after it. -/
def beforeExit (s : State) : State := withRun s (fun R => { R with words := [R.words.headD 0, 0x8200000000000000#64] })

/-- A slot that waits for a value from outside its core. -/
def awaiting (v : OutVal) : State :=
  let s := withSlot (at_ 0x382) (fun X => { X with wait := .outside v 0xFFFFFFFF })
  { s with rcbs := [{ Rcb.blank with addr := 0x8000, meter := 5, ovr := 0x3FF }], meters := [(5, [1, 2, 3])] }

theorem witness_SystemWords :
    (∀ p ∈ ([(sysInfo hd0 [o 16 .w16] true, at_ 0x382), (sysInfo hd0 [] true, withK (at_ 0x383) 1 0x20000), (sysInfo hd0 [] true, withK (at_ 0x383) 1 1),
        ({ sysInfo hd0 [o 16 .w16] true with svc := true }, at_ 0x387), (sysInfo hd0 [o 16 .w16] true, at_ 0x388),
        ({ sysInfo hd0 [] true with svc := true }, beforeNext (at_ 0x38B)), ({ sysInfo hd0 [] true with svc := true }, beforeExit (at_ 0x38B)),
        ({ sysInfo hd0 [] true with group := 0, noHandler := true }, beforeNext (at_ 0x380)),
        ({ sysInfo hd0 [] true with group := 0, noHandler := true }, beforeExit (at_ 0x380))] : List (WordInfo × State)), Issues p.1 p.2 (runOf p.2)) ∧
    (∀ s ∈ [at_ 0x382, at_ 0x383, at_ 0x38B, at_ 0x380], participants s s.cur (runOf s) hd0 false ≠ 0 ∧ s.reds = []) ∧
    (∀ s ∈ [beforeNext (at_ 0x38B), beforeNext (at_ 0x380)], (runOf s).pos + 1 = (runOf s).hdr.len ∧ opOf (((runOf s).words[1]?).getD 0).toNat = 0x008) ∧
    isSvc (at_ 0x380).cur.gang = false ∧ isSvc (at_ 0x38B).cur.gang = true ∧
    (∀ n ∈ [0x200, 0x10000, 8], kreg (withK (at_ 0x383) 1 0x20000) { gang := 0, b := false } 1 % n = 0 ∧ kreg (withK (at_ 0x383) 1 1) { gang := 0, b := false } 1 % n ≠ 0) ∧
    (∀ v ∈ [OutVal.ready (o 16 .w16), .rflag (o 16 .w16), .rclear 1, .meter (o 16 .w16) 0x8000 2, .meter (o 16 .w16) 0x8040 2, .icinv (some (0, 1))],
      let s := awaiting v
      (s.slot s.cur).wait = .outside v 0xFFFFFFFF ∧ (s.slot s.cur).run = some (runOf s) ∧ (runOf s).pends = [] ∧ (runOf s).back ≤ s.now ∧
        s.now < (runOf (withRun s (fun R => { R with back := 1 }))).back) ∧
    (let s := awaiting (.rclear 0)
     findRcb s 0 0x8040 = none ∧ (findRcb s 0 0x8000).map (fun b => tabFind s.meters (effRcb s b).meter) = some (some [1, 2, 3])) :=
  ⟨all_issue (by decide +kernel), by decide +kernel⟩

/-- Tables that map the first GiB of every stage to itself: the second stage from 0x10000 to space 2, the first from 0x20000. -/
def tables (m : Memory) : Memory :=
  let w (m : Memory) (a e : Nat) : Memory := m.writeN (memKey 2 a) 8 e
  let m := w (w (w m 0x10000 0xC000000000011000) 0x11000 0xC000000000012000) 0x12000 (0x80000000000000E0 + 10 * 2 ^ 58 + 2 * 2 ^ 55)
  w (w (w m 0x20000 0xC000000000021000) 0x21000 0xC000000000022000) 0x22000 (0x80000000000000F0 + 10 * 2 ^ 58)

/-- A deeper table of the second stage: five levels to a page of 4 KiB of device memory. -/
def deep : Memory :=
  let w (m : Memory) (a e : Nat) : Memory := m.writeN (memKey 2 a) 8 e
  w (w (w (w (w [] 0x10000 0xC000000000011000) 0x11000 0xC000000000012000) 0x12000 0xC000000000013000) 0x13000 0xC000000000014000) 0x14008
    (0x80000000000050E0 + 2 * 2 ^ 55)

/-- Panel 0 of one twin and its virtual device 0, whose tables are `tables` and whose root block is at 0x8000. -/
def board (s : State) : State :=
  { s with mem := tables s.mem, ready := { s.ready with mgmt := true, cxl := true, twins := 1 },
           panels := [(0, [BitVec.ofNat 64 (2 ^ 63 + 2 ^ 52 + 2 ^ 40 + 4 * 2 ^ 32 + 2 ^ 27), 1, 0, 0, 0, 0, 0x20000, 0x10000])],
           vds := [(0, [0x8000000000008000, 0x0000010000000000, 0x100000, 100, 0x60000, 4, 0x20000, 0x10000])] }

/-- TLBI or TLBSYNC in a handler. -/
def handling (op v : Nat) (q : List TlbiReq) : State := withK (withGang (board (at_ op)) (fun G => { G with tlbi := q })) 1 v

/-- The first GiB as `tables` maps it. -/
def gib : TlbE := { placeTlb with size := 2 ^ 30, size1 := 2 ^ 30, size2 := 2 ^ 30, dkey := memKey 2 0x12000 }

def tlbi1 : TlbiReq := { panel := 0, vd := 0, va := some 0x2000, waits := none }

theorem witness_TranslationsAndInvalidations :
    (let e (i : Nat) : Nat := [0xC000000000011000, 0xC000000000012000, 0xC000000000013000, 0xC000000000014000, 0x80000000000050E0 + 2 * 2 ^ 55].getD i 0
     (∀ i, i < 5 → deep.readN (devKey 0 ((if i = 0 then 0x10000 else fld (e (i - 1)) 12 40 * 2 ^ 12) + 8 * (0x1234 / 2 ^ (48 - 9 * i) % (if i = 0 then 16 else 512)))) 8 = e i) ∧
     (∀ i, i < 4 → fld (e i) 52 12 = 0xC00 ∧ fld (e i) 0 12 = 0) ∧ fld (e 4) 0 5 = 0 ∧ fld (e 4) 8 4 = 0 ∧ bit (e 4) 63 = true ∧ bit (e 4) 62 = false ∧
     fld (e 4) 58 4 = 0 ∧ fld (e 4) 55 3 = 2 ∧ bit (e 4) 52 = false) ∧
    ((∀ i, i < 5 → Memory.readN [] (devKey 0 ((if i = 0 then 0x10000 else 0) + 8 * (0 / 2 ^ (48 - 9 * i) % (if i = 0 then 16 else 512)))) 8 = 0) ∧ bit 0 63 = false) ∧
    (∃ e, walk (board (at_ 0x200)) (dieOf 0) 0 0x2000 = .inr e ∧ e.dt = false ∧ ∀ o ∈ ((board (at_ 0x200)).core 0).tlb, o.covers 0 0x2000 = false) ∧
    walk (at_ 0x200) (dieOf 0) 0 0x2000 = .inl 9 ∧
    (∀ p ∈ ([(sysInfo hd0 [] true, handling 0x384 0x2000 []), (sysInfo hd0 [] true, handling 0x384 (4 * 2 ^ 60) []), (sysInfo hd0 [] true, handling 0x385 0 []),
        (sysInfo hd0 [] true, handling 0x385 0 [tlbi1]), (sysInfo hd0 [] true, handling 0x386 0 [])] : List (WordInfo × State)), Issues p.1 p.2 (runOf p.2)) ∧
    participants (handling 0x384 0x2000 []) (handling 0x384 0x2000 []).cur (runOf (handling 0x384 0x2000 [])) hd0 false ≠ 0 ∧ nvdOf (handling 0x384 0x2000 []) 0 = 4 ∧
    Quiet (handling 0x386 0 []) ∧ linesSent (handling 0x386 0 []) 0 = true ∧
    (let s := handling 0x385 0 [tlbi1]
     (s.gang 0).tlbi = [tlbi1] ∧ inFlight s (ctxId 0 0) = []) ∧
    let s := handling 0x385 0 [tlbi1]
    inFlight { s with reds := [red5] } (ctxId 0 0) = [5] ∧
    (let s := s.setCore 1 { s.core 1 with l1 := [line0] }
     (tabFind s.cores 1).isSome = true ∧ (panelCore s 1).1 = 0 ∧ line0.dirty.getLsbD 3 = true ∧ linesSent s 1 = true ∧ inFlight s (ctxId 0 0) = [] ∧ s.reds = [] ∧ s.agenda = [] ∧ s.poison = [] ∧ ∀ c ∈ s.cores, c.1 = 1 ∨ c.2.l1 = []) := by
  refine ⟨by decide +kernel, by decide +kernel, ⟨gib, by decide +kernel⟩, by decide +kernel,
    all_issue (by decide +kernel), by decide +kernel, by decide +kernel, quiet_of (by decide +kernel), by decide +kernel, by decide +kernel, by decide +kernel, by decide +kernel⟩

/-- The first MiB of device memory in the system address space, on core 0; frames at 0x30000 and vectors at 0x40000. -/
def framed (s : State) : State :=
  let e : TlbE := { placeTlb with ctx := 16, size := 2 ^ 20, size2 := 2 ^ 20 }
  s.setCore 0 { s.core 0 with tlb := [e], tframe := 0x30000, tvec := 0x40000 }

/-- The slot at the cursor has trapped. -/
def trapped (s : State) : State := withSlot s (fun X => { X with run := none, wait := .trapped TrapInfo.placed })

/-- A handler of lanes 0 to 31 at its ERET. -/
def returning : State :=
  let s := ending (framed (at_ 0x381)) .eret
  { s with mem := s.mem.writeN (memKey 2 0x30350) 4 0xFFFFFFFF }

/-- The service gang, its slot A waiting for the timer. -/
def service (w : Wait) (ws : List (Nat × Option (SlotRef × Nat))) : State :=
  let s := withSlot (at_ 0x38B) (fun X => { X with wait := w, run := none })
  s.setCore 0 { s.core 0 with expired := some ws }

/-- A gang of 8 stitches, with overflow rows in its window. -/
def overflow (win : List (Nat × Bool)) : State := withGang (at_ 0x040) (fun G => { G with bound := 8, window := win, starve := 52 })

theorem witness_TrapsAndReturns :
    (let s := trapped (framed (at_ 0x040))
     let X := s.slot s.cur
     X.wait = .trapped TrapInfo.placed ∧ isSvc s.cur.gang = false ∧ X.mask ≠ 0 ∧ X.hnd = none ∧ (s.gang 0).co = none ∧
      (s.slot (otherSlot s.cur)).hnd = none ∧ (s.gang 0).width ≠ 64 ∧ s.poison = [] ∧ (s.core 0).l1 = [] ∧ s.reds = [] ∧ s.agenda = [] ∧ unspoilt s 0 = true ∧
      deliveryReady s s.cur = true ∧ deliveryReady { s with ready := { s.ready with vlayers := 0 } } s.cur = false ∧
      (∀ i, i < 1024 → ((s.core 0).tlb.find? (fun e => e.covers 16 (0x30000 + i) && !(accWrites .write && e.dt && !e.d))).map (fun e => e.check (0x30000 + i) .write false none)
        = some (.ok 2 (memKey 2 (0x30000 + i)))) ∧
      ∀ i, i < 8 → ((s.core 0).tlb.find? (fun e => e.covers 16 (0x400A0 + i) && !(accWrites .read && e.dt && !e.d))).map (fun e => e.check (0x400A0 + i) .read false none)
        = some (.ok 2 (memKey 2 (0x400A0 + i)))) ∧
    (let s := trapped (at_ 0x040)
     (∀ e ∈ (s.core 0).tlb, e.covers 16 0 = false) ∧ walk s (dieOf 0) 16 0 = .inl 9) ∧
    (let s := returning
     let X := s.slot s.cur
     let R := runOf s
     X.wait = .resolving ∧ X.run = some R ∧ R.term = some (.eret, 1) ∧ R.pends = [] ∧ R.lates = [] ∧ R.recld = [] ∧ R.failed = 0 ∧ R.faults = [] ∧
      R.trapi = none ∧ X.hnd.map (·.depth) = some 0 ∧ isSvc s.cur.gang = false ∧ (s.gang 0).co = none ∧ (s.gang 0).rebuild = none ∧ (s.gang 0).stack = [] ∧
      (s.gang 0).width ≠ 64 ∧ R.store = [] ∧ framesReady s s.cur.gang .read = true ∧ unspoilt s 0 = true ∧ s.agenda = [] ∧ s.reds = [] ∧ s.poison = [] ∧ X.mask ≠ 0 ∧ X.mask.toNat = bytesNat ((List.range 4).map (fun i => coreByte s 0 (memKey 2 (0x30350 + i))))) ∧
    (∀ p ∈ [(withRun (ending (at_ 0x380) .next) (fun R => { R with trapi := some (255, 0xFFFFFFFF) }), false), (withRun (ending (at_ 0x38B) (.jmp 4)) (fun R => { R with idle := true }), true)],
      let s : State := p.1
      let X := s.slot s.cur
      let R := runOf s
      X.wait = .resolving ∧ X.run = some R ∧ R.pends = [] ∧ R.lates = [] ∧ R.recld = [] ∧ R.failed = 0 ∧ R.alts = [] ∧ R.faults = [] ∧ R.watch = none ∧
      R.store = [] ∧ R.hdr.guarded = false ∧ X.mask ≠ 0 ∧ (s.gang s.cur.gang).co = none ∧ (s.gang s.cur.gang).rebuild = none ∧ (s.gang s.cur.gang).stack = [] ∧
      isSvc s.cur.gang = p.2 ∧ (p.2 = false → X.hnd = none ∧ R.trapi = some (255, X.mask)) ∧ (p.2 = true → R.trapi = none ∧ R.idle = true)) ∧
    (let s := service .idle [(5, none)]
     (s.core 0).expired = some [(5, none)] ∧ (s.gang 63).a.wait = .idle ∧ (s.gang 63).a.mask ≠ 0 ∧ (s.gang 63).a.tok = none ∧ (s.gang 63).b = Slot.free ∧ (s.gang 63).stack = []) ∧
    (let s := service .none [(5, none)]
     (s.core 0).expired = some [(5, none)] ∧ (s.gang 63).a.wait ≠ .idle ∧ (s.gang 63).b.wait ≠ .idle) ∧
    (let s := overflow []
     52 ≤ (s.gang 0).starve ∧ 0 ∉ (s.core 0).forced ∧ (s.gang 0).bound ≤ 8 * 127 ∧ 8 * 127 < declared s 0 ∧ (s.gang 0).window = [] ∧ s.poison = []) ∧
    let s := overflow ((List.range 16).map (fun i => (i + 1, false)))
    ∃ rest, (s.gang 0).window = (1, false) :: rest ∧ rest.length = 15 ∧ 127 ∉ (s.gang 0).window.map (·.1) := by
  refine ⟨by decide +kernel, by decide +kernel, by decide +kernel, by decide +kernel, by decide +kernel, by decide +kernel, by decide +kernel,
    (List.range 15).map (fun i => (i + 2, false)), by decide +kernel⟩

/-- Words of 64 bits written at an address of device memory. -/
def words (m : Memory) (a : Nat) (ws : List Nat) : Memory := (mapFrom (fun i w => (i, w)) 0 ws).foldl (fun m e => m.writeN (memKey 2 (a + 8 * e.1)) 8 e.2) m

/-- The root block of the device: a leaf that overrides every field. -/
def root1 : Rcb := { Rcb.blank with addr := 0x8000, quantum := 1000, emax := 5000, meter := 5, ovr := 0x3FF }

def queue1 (ls : List Nat) : Queue := { panel := 0, rcb := 0x8000, q := 0, launches := ls, deficit := 0, idle := true }

/-- A launch of one team of one V gang of 8 stitches, its block at 0x9000 and its kernel at 0xA000 (19 R336). -/
def block1 : List Nat := [0x1000, 0xA000, 1 + 2 ^ 20 + 2 ^ 40, 8 + 2 ^ 24, 0, 1000]
def desc1 : List Nat := [0, 0x1000, 0x2000, 0, 0, 8 + 2 ^ 16]

/-- A board whose queue holds some launches, whose handle 0 is bound to it, and with a block in memory. -/
def launching (op : Nat) (block : List Nat) (ls : List Nat) : State :=
  let s := (board (at_ op)).updLaunch 1 (fun L => { L with rcb := 0x8000 })
  { s with mem := words (words s.mem 0x9000 block) 0xA000 desc1, rcbs := [root1], queues := [queue1 ls], meters := [(5, List.replicate 9 0)],
           handles := [(0, { leaf := some (0x8000, 0), status := 0, reading := none })] }

/-- 20 R355, R356: a walk on a die reads the entries that its walkers keep, until a TLBI of the page drops them; walks on the other die read memory. -/
theorem test_walkers_keep_entries :
    let s := keepTables (board (at_ 0x200)) 0 0 0x2000
    let u := { s with mem := s.mem.writeN (s.tables.foldl (fun k e => if e.stage2 then k else max k e.key) 0) 8 0 }
    s.tables.length = 6 ∧ (s.tables.all (fun e => bit e.word 63 && e.serves 0)) = true ∧ walk u 0 0 0x2000 = walk s 0 0 0x2000 ∧ walk u 1 0 0x2000 = .inl 8 ∧
      walk (dropTlb u 0 (some 0x2FFF)) 0 0 0x2000 = .inl 8 := by
  decide +kernel

theorem witness_TranslationsAndInvalidations_tables :
    (let s : State := { at_ 0x200 with tables := (keepTables (board (at_ 0x200)) 0 0 0x2000).tables.take 1 }
     s.mem.wf = true ∧ ∃ e, s.tables = [e] ∧ e.die = 0 ∧ e.serves 0 = true) ∧
    (∀ e ∈ (at_ 0x200).tables, e.die = 0 → e.serves 0 = false) := by
  refine ⟨⟨by decide +kernel, ?_⟩, by decide +kernel⟩
  exact ⟨_, rfl, by decide +kernel, by decide +kernel⟩

/-- The words of a region control block and their place in host memory (27 R414). -/
def registering (ws : List Nat) : State :=
  let s := launching 0x310 block1 []
  let s := { s with mem := words s.mem 0x8000 ws, rcbs := [], queues := [] }
  { s with mem := (s.mem.writeN (memKey 4 0x1000) 4 0).writeN (memKey 4 0x1008) 8 0x8000 }

def rootWords : List Nat := [2 ^ 63, 1000 * 2 ^ 32, 1 * 2 ^ 32 + 65535 * 2 ^ 16, 0xFFFFFFFF00000000 + 5000, 5, 0x3FF]

/-- What a check of a block finds. -/
def checked (s : State) (a : Nat) : Option Nat := match checkRcb s 0 a with
  | .inl r => some r
  | .inr _ => none

/-- The entries of `tables`. -/
structure Mapped (m : Memory) : Prop where
  a : m.readN (devKey 0 0x10000) 8 = 0xC000000000011000
  b : m.readN (devKey 0 0x11000) 8 = 0xC000000000012000
  c : m.readN (devKey 0 0x12000) 8 = 0x80000000000000E0 + 10 * 2 ^ 58 + 2 * 2 ^ 55
  d : m.readN (devKey 0 0x20000) 8 = 0xC000000000021000
  e : m.readN (devKey 0 0x21000) 8 = 0xC000000000022000
  f : m.readN (devKey 0 0x22000) 8 = 0x80000000000000F0 + 10 * 2 ^ 58

theorem walk2_mapped {m : Memory} (h : Mapped m) {a : Nat} (ha : a < 2 ^ 30) :
    walk2 m 0 a 5 0 0x10000 = some { addr := 0, size := 2 ^ 30, entry := 0x80000000000000E0 + 10 * 2 ^ 58 + 2 * 2 ^ 55, first := 0x12000 } := by
  have e0 : a / granule 0 = 0 := Nat.div_eq_of_lt (by simp only [granule]; omega)
  have e1 : a / granule 1 = 0 := Nat.div_eq_of_lt (by simp only [granule]; omega)
  have e2 : a / granule 2 = 0 := Nat.div_eq_of_lt (by simp only [granule]; omega)
  have r0 : readEntry 0xC000000000011000 0 0x10000 0 true = some (.next 0x11000) := by decide +kernel
  have r1 : readEntry 0xC000000000012000 1 0x11000 0 true = some (.next 0x12000) := by decide +kernel
  have r2 : readEntry (0x80000000000000E0 + 10 * 2 ^ 58 + 2 * 2 ^ 55) 2 0x12000 0 true =
      some (.leaf { addr := 0, size := 2 ^ 30, entry := 0x80000000000000E0 + 10 * 2 ^ 58 + 2 * 2 ^ 55, first := 0x12000 }) := by decide +kernel
  simp only [walk2, e0, e1, e2, Nat.zero_mod, Nat.mul_zero, Nat.add_zero, Nat.zero_add, h.a, h.b, h.c, r0, r1, r2]


theorem walk1_mapped {m : Memory} (h : Mapped m) {a : Nat} (ha : a < 2 ^ 30) :
    walk1 m 0 0x10000 a 5 0 0x20000 = .leaf { addr := 0, size := 2 ^ 30, entry := 0x80000000000000F0 + 10 * 2 ^ 58, first := 0x22000 } := by
  have e0 : a / granule 0 = 0 := Nat.div_eq_of_lt (by simp only [granule]; omega)
  have e1 : a / granule 1 = 0 := Nat.div_eq_of_lt (by simp only [granule]; omega)
  have e2 : a / granule 2 = 0 := Nat.div_eq_of_lt (by simp only [granule]; omega)
  have w (x : Nat) (hx : x < 2 ^ 30) := walk2_mapped h hx
  have r0 : readEntry 0xC000000000021000 0 0x20000 0 false = some (.next 0x21000) := by decide +kernel
  have r1 : readEntry 0xC000000000022000 1 0x21000 0 false = some (.next 0x22000) := by decide +kernel
  have r2 : readEntry (0x80000000000000F0 + 10 * 2 ^ 58) 2 0x22000 0 false =
      some (.leaf { addr := 0, size := 2 ^ 30, entry := 0x80000000000000F0 + 10 * 2 ^ 58, first := 0x22000 }) := by decide +kernel
  simp only [walk1, e0, e1, e2, Nat.zero_mod, Nat.mul_zero, Nat.add_zero, Nat.zero_add, w 0x20000 (by decide), w 0x21000 (by decide), w 0x22000 (by decide),
    show 0x20000 % 2 ^ 30 = 0x20000 by decide, show 0x21000 % 2 ^ 30 = 0x21000 by decide, show 0x22000 % 2 ^ 30 = 0x22000 by decide, h.d, h.e, h.f, r0, r1, r2]

theorem useHome_only (s : State) (k : Nat) : ∃ h, useHome s k = { s with home := h } := by
  unfold useHome
  split <;> exact ⟨_, rfl⟩

theorem homes_only (l : List Nat) (s : State) : ∃ h, l.foldl useHome s = { s with home := h } := by
  induction l generalizing s with
  | nil => exact ⟨_, rfl⟩
  | cons k l ih =>
    obtain ⟨h, e⟩ := useHome_only s k
    obtain ⟨h', e'⟩ := ih { s with home := h }
    exact ⟨h', by simp only [List.foldl_cons, e, e']⟩

theorem mgmtXlate_mapped {s : State} (h : Mapped s.mem) {ctx a : Nat} {acc : Acc} (hx : ctx < 17) (hr : ctxRoots s ctx = (0x20000, 0x10000)) (ha : a < 2 ^ 30) (hacc : acc ≠ .fetch) :
    ∃ h, mgmtXlate s ctx a acc = ({ s with home := h }, .ok 2 (memKey 2 a)) := by
  have hw : walk { s with cores := [] } (dieOf Config.nCores) ctx a = .inr { gib with ctx := ctx } := by
    have hm : a % 2 ^ 30 = a := Nat.mod_eq_of_lt ha
    have hd : a / 2 ^ 30 = 0 := Nat.div_eq_of_lt ha
    have hr' : ctxRoots { s with cores := [] } ctx = (0x20000, 0x10000) := hr
    have hp : ctx / 17 = 0 := Nat.div_eq_of_lt hx
    have hs : fld (0x80000000000000E0 + 10 * 2 ^ 58 + 2 * 2 ^ 55) 55 3 = 2 := by decide
    have hv : walkMem { s with cores := [] } (dieOf Config.nCores) ctx = s.mem := rfl
    simp only [walk, hv, hr', hp, walk1_mapped h ha, hm, Nat.zero_add, walk2_mapped h ha, hd, Nat.min_self, Nat.zero_mul, h.c, hs, mapsReserved]
    rfl
  have ht : tlbServes { s with cores := [] } Config.nCores ctx a acc = none := rfl
  obtain ⟨h', eh⟩ := homes_only (walkKeys { s with cores := [] } (dieOf Config.nCores) ctx a) { s with cores := [] }
  have hc : TlbE.check { gib with ctx := ctx } a acc false none = .ok 2 (memKey 2 a) := by
    have hm : a % 2 ^ 30 = a := Nat.mod_eq_of_lt ha
    cases acc with
    | fetch => exact absurd rfl hacc
    | read | write | readWrite => simp [TlbE.check, gib, placeTlb, accOk, hm, devKey, memKey] <;> omega
  refine ⟨h', ?_⟩
  simp only [mgmtXlate, Sys2Proof.Machine.translate, ht, walkUses, eh, hw, hc]
  simp [gib, placeTlb, tlbInsert, State.setCore]

theorem mgmtRead_mapped {s : State} (h : Mapped s.mem) (hp : s.poison = []) {ctx : Nat} (hx : ctx < 17) (hr : ctxRoots s ctx = (0x20000, 0x10000)) :
    ∀ n a, a + n ≤ 2 ^ 30 → mgmtRead s ctx a n = some (s.mem.readBytes (memKey 2 a) n)
  | 0, a, _ => rfl
  | n + 1, a, ha => by
    have hm : a % 2 ^ 56 = a := Nat.mod_eq_of_lt (by omega)
    have hq : s.poisoned (memKey 2 a) = false := by simp [State.poisoned, hp]
    obtain ⟨_, e⟩ := mgmtXlate_mapped h hx hr (by omega : a < 2 ^ 30) (by decide : Acc.read ≠ .fetch)
    simp only [mgmtRead, hm, e, hq, mgmtRead_mapped h hp hx hr n (a + 1) (by omega)]
    simp [Memory.readBytes, List.range_succ_eq_map, Function.comp_def, memKey, Nat.add_assoc, Nat.add_comm 1]

/-- The launch that a block and a descriptor describe, where they are sound. -/
def launchOfWords (s : State) (q : Queue) (vd addr : Nat) (b : Rcb) (block desc : List Word64) : Option Launch :=
  let L : Launch := { panel := q.panel, vd, rcb := q.rcb, queue := q.q, block, blockAddr := addr, desc, walk := 0, dispatched := 0,
                      again := [], retired := 0, dropped := false, gbars := [], cbars := [], sent := 0, recv := 0, sweep := none }
  let g := L.blk 8 16 12
  let L := { L with gbars := if L.grid then List.replicate 4 (Barrier.init (if g = 0 then L.teams else g)) else [] }
  if blockBits block && blockFields L (effRcb s b).emax && (!L.grid || fitsEmpty s L) then some L else none

theorem parse_of {s : State} {q : Queue} {vd addr : Nat} {b : Rcb} {block desc : List Word64} (ha : addr % 64 = 0 ∧ addr < 2 ^ 56)
    (hb : mgmtWords s (ctxId q.panel vd) addr 16 = some block) (hd : mgmtWords s (ctxId q.panel vd) (fld (descWord block 1) 0 56) 8 = some desc) :
    parseBlock s q vd addr b = launchOfWords s q vd addr b block desc := by
  have h1 : ¬ (addr % 64 ≠ 0 ∨ 2 ^ 56 ≤ addr) := by omega
  simp only [parseBlock, h1, if_false, hb, hd, Option.bind_eq_bind, Option.bind_some, launchOfWords]

theorem words_mapped {s : State} (h : Mapped s.mem) (hp : s.poison = []) {ctx : Nat} (hr : ctxRoots s ctx = (0x20000, 0x10000)) {a n : Nat} {l : List Word64}
    (ha : a + 8 * n ≤ 2 ^ 30) (hl : wordsOf n (s.mem.readBytes (memKey 2 a) (8 * n)) = l) (hx : ctx < 17 := by decide) : mgmtWords s ctx a n = some l := by
  simp [mgmtWords, mgmtRead_mapped h hp hx hr (8 * n) a ha, hl]

def nums (l : List Nat) (n : Nat) : List Word64 := (List.range n).map (fun i => BitVec.ofNat 64 (l.getD i 0))

theorem mapped_launching : ∀ s ∈ [launching 0x310 block1 [], promote (launching 0x310 block1 []) 0, promote (launching 0x310 (block1.set 3 0) []) 0], Mapped s.mem := by
  intro b hb
  simp only [List.mem_cons, List.not_mem_nil, or_false] at hb
  rcases hb with rfl | rfl | rfl <;> exact ⟨by decide +kernel, by decide +kernel, by decide +kernel, by decide +kernel, by decide +kernel, by decide +kernel⟩

theorem block_parses : (parseBlock (launching 0x310 block1 []) (queue1 []) 0 0x9000 root1).isSome = true ∧
    (parseBlock (promote (launching 0x310 block1 []) 0) (queue1 []) 0 0x9000 root1).isSome = true ∧
    (parseBlock (promote (launching 0x310 (block1.set 3 0) []) 0) (queue1 []) 0 0x9000 root1).isSome = false := by
  refine ⟨?_, ?_, ?_⟩
  · rw [parse_of (s := launching 0x310 block1 []) (q := queue1 []) (vd := 0) (addr := 0x9000) (block := nums block1 16) (desc := nums desc1 8) (by decide)
      (words_mapped (mapped_launching _ (by simp)) rfl (by decide +kernel) (by decide) (by decide +kernel))
      (words_mapped (mapped_launching _ (by simp)) rfl (by decide +kernel) (by decide) (by decide +kernel))]
    decide +kernel
  · rw [parse_of (s := promote (launching 0x310 block1 []) 0) (q := queue1 []) (vd := 0) (addr := 0x9000) (block := nums block1 16) (desc := nums desc1 8) (by decide)
      (words_mapped (mapped_launching _ (by simp)) rfl (by decide +kernel) (by decide) (by decide +kernel))
      (words_mapped (mapped_launching _ (by simp)) rfl (by decide +kernel) (by decide) (by decide +kernel))]
    decide +kernel
  · rw [parse_of (s := promote (launching 0x310 (block1.set 3 0) []) 0) (q := queue1 []) (vd := 0) (addr := 0x9000) (block := nums (block1.set 3 0) 16) (desc := nums desc1 8) (by decide)
      (words_mapped (mapped_launching _ (by simp)) rfl (by decide +kernel) (by decide) (by decide +kernel))
      (words_mapped (mapped_launching _ (by simp)) rfl (by decide +kernel) (by decide) (by decide +kernel))]
    decide +kernel

theorem mapped_registering : ∀ w ∈ [rootWords, rootWords.set 5 0, rootWords.set 0 (2 ^ 63 + 0x8040), rootWords.set 4 6], Mapped (registering w).mem := by
  intro w hw
  simp only [List.mem_cons, List.not_mem_nil, or_false] at hw
  rcases hw with rfl | rfl | rfl | rfl <;>
    exact ⟨by decide +kernel, by decide +kernel, by decide +kernel, by decide +kernel, by decide +kernel, by decide +kernel⟩

/-- What a check of a block of given words finds: nothing, or a result. -/
theorem check_of {s : State} {d : List Word64} (hd : mgmtWords s (sysCtx 0) 0x8000 8 = some d) : checked s 0x8000 =
    (let b := Rcb.ofWords 0 0x8000 d
     if !rcbSound d b then some 2
     else if (if b.parent = 0 then !isRoot s 0 0x8000 else (findRcb s 0 b.parent).isNone) then some 3
     else if (findRcb s 0 0x8000).any (fun (o : Rcb) => o.parent != b.parent || o.leaf != b.leaf || o.nq != b.nq) then some 3
     else if (tabFind s.meters b.meter).isNone then some 4
     else none) := by
  have h1 : ¬ (0x8000 % 64 ≠ 0 ∨ 2 ^ 56 ≤ 0x8000) := by decide
  simp only [checked, checkRcb, h1, if_false, hd]
  repeat' split
  all_goals simp_all

theorem block_checks : ∀ p ∈ [(rootWords, none), (rootWords.set 5 0, some 2), (rootWords.set 0 (2 ^ 63 + 0x8040), some 3), (rootWords.set 4 6, some 4)],
    checked (registering p.1) 0x8000 = p.2 := by
  intro p hp
  simp only [List.mem_cons, List.not_mem_nil, or_false] at hp
  rcases hp with rfl | rfl | rfl | rfl
  · rw [check_of (d := nums rootWords 8) (words_mapped (mapped_registering _ (by simp)) rfl (by decide +kernel) (by decide) (by decide +kernel))]
    decide +kernel
  · rw [check_of (d := nums (rootWords.set 5 0) 8) (words_mapped (mapped_registering (rootWords.set 5 0) (by simp)) rfl (by decide +kernel) (by decide) (by decide +kernel))]
    decide +kernel
  · rw [check_of (d := nums (rootWords.set 0 (2 ^ 63 + 0x8040)) 8)
      (words_mapped (mapped_registering (rootWords.set 0 (2 ^ 63 + 0x8040)) (by simp)) rfl (by decide +kernel) (by decide) (by decide +kernel))]
    decide +kernel
  · rw [check_of (d := nums (rootWords.set 4 6) 8) (words_mapped (mapped_registering (rootWords.set 4 6) (by simp)) rfl (by decide +kernel) (by decide) (by decide +kernel))]
    decide +kernel

/-- The parent block of a child whose words have a METER. -/
def child (meter : Nat) : State := { registering ((rootWords.set 0 (2 ^ 63 + 0x8040)).set 4 meter) with rcbs := [{ root1 with addr := 0x8040 }] }

theorem child_words : ∀ n ∈ [5, 6], mgmtWords (child n) (sysCtx 0) 0x8000 8 = some (nums ((rootWords.set 0 (2 ^ 63 + 0x8040)).set 4 n) 8) := by
  intro n hn
  simp only [List.mem_cons, List.not_mem_nil, or_false] at hn
  rcases hn with rfl | rfl <;>
    exact words_mapped ⟨by decide +kernel, by decide +kernel, by decide +kernel, by decide +kernel, by decide +kernel, by decide +kernel⟩ rfl (by decide +kernel) (by decide)
      (by decide +kernel)

/-- A doorbell that is being read when a cycle begins, and the machine after that cycle. -/
def submitting (block ls : List Nat) (v : Nat) : State :=
  { launching 0x310 block ls with agenda := [.cycle], handles := [(0, { leaf := some (0x8000, 0), status := 0, reading := some (v, 1) })] }

def ticked (s : State) : State := cyclePassed { s with agenda := [] }

theorem ticked_parses : (parseBlock (ticked (submitting block1 [] 0x9000)) (queue1 []) 0 0x9000 root1).isSome = true ∧
    (parseBlock (ticked (submitting (block1.set 3 0) [] 0x9000)) (queue1 []) 0 0x9000 root1).isSome = false := by
  have m (b : List Nat) (hb : b = block1 ∨ b = block1.set 3 0) : Mapped (ticked (submitting b [] 0x9000)).mem := by
    rcases hb with rfl | rfl <;> exact ⟨by decide +kernel, by decide +kernel, by decide +kernel, by decide +kernel, by decide +kernel, by decide +kernel⟩
  refine ⟨?_, ?_⟩
  · rw [parse_of (s := ticked (submitting block1 [] 0x9000)) (q := queue1 []) (vd := 0) (addr := 0x9000) (block := nums block1 16) (desc := nums desc1 8) (by decide)
      (words_mapped (m _ (.inl rfl)) rfl (by decide +kernel) (by decide) (by decide +kernel))
      (words_mapped (m _ (.inl rfl)) rfl (by decide +kernel) (by decide) (by decide +kernel))]
    decide +kernel
  · rw [parse_of (s := ticked (submitting (block1.set 3 0) [] 0x9000)) (q := queue1 []) (vd := 0) (addr := 0x9000) (block := nums (block1.set 3 0) 16) (desc := nums desc1 8)
      (by decide) (words_mapped (m _ (.inr rfl)) rfl (by decide +kernel) (by decide) (by decide +kernel))
      (words_mapped (m _ (.inr rfl)) rfl (by decide +kernel) (by decide) (by decide +kernel))]
    decide +kernel

theorem witness_LaunchesAndTheirQueues :
    (∀ p ∈ ([(syncInfo hd0 [o 16 .w8] true, launching 0x310 block1 [])] : List (WordInfo × State)), Issues p.1 p.2 (runOf p.2)) ∧
    Quiet (launching 0x310 block1 []) ∧ linesSent (launching 0x310 block1 []) 0 = true ∧
    (let s := launching 0x310 block1 []
     participants s s.cur (runOf s) hd0 false ≠ 0 ∧ (launchOf s 0).map (fun L => (L.panel, L.rcb, L.queue, L.vd)) = some (0, 0x8000, 0, 0) ∧
      (s.handle (0 * 512 + (1 - 1))).leaf = some (0x8000, 0) ∧ vdOfRcb s 0 0x8000 = some 0 ∧ findQueue s 0 0x8000 0 = some (queue1 []) ∧
      findRcb s 0 0x8000 = some root1 ∧ (s.handle (0 * 512 + (2 - 1))).leaf = none) ∧
    (parseBlock (promote (launching 0x310 block1 []) 0) (queue1 []) 0 0x9000 root1).isSome = true ∧
    (parseBlock (promote (launching 0x310 (block1.set 3 0) []) 0) (queue1 []) 0 0x9000 root1).isSome = false ∧
    (queue1 (List.replicate 64 1)).launches.length = 64 ∧ (queue1 (List.replicate 63 1)).launches.length < 64 ∧
    (let s := launching 0x310 block1 []
     s.ready.mgmt = true ∧ s.ready.cxl = true ∧ ({ s.ready with cxl := false } : Ready).cxl = false ∧ (s.handle 0).reading = none ∧ fld (5 * 2 ^ 60) 60 4 = 5 ∧
      fld 0x9000 60 4 = 0 ∧ ((submitting block1 [] 0x9000).handle 0).reading = some (0x9000, 1)) ∧
    (let s := submitting block1 [] 0x9000
     s.agenda = [.cycle] ∧ timedDue s = none ∧ 1 ≤ s.mclock + 1 ∧ (s.mclock + 1) % 8192 ≠ 0 ∧ findQueue (ticked s) 0 0x8000 0 = some (queue1 []) ∧
      findRcb (ticked s) 0 0x8000 = some root1 ∧ findQueue (ticked { s with queues := [] }) 0 0x8000 0 = none ∧ 0x9001 % 64 ≠ 0) ∧
    ((parseBlock (ticked (submitting block1 [] 0x9000)) (queue1 []) 0 0x9000 root1).isSome = true ∧
      (parseBlock (ticked (submitting (block1.set 3 0) [] 0x9000)) (queue1 []) 0 0x9000 root1).isSome = false) ∧
    (let s : State := { launching 0x310 block1 [] with agenda := [.doorbellRead 0] }
     s.agenda = [.doorbellRead 0] ∧ s.ready.cxl = true) ∧
    (let s := registering rootWords
     s.mailbox.busy = false ∧ s.ready.mgmt = true ∧ s.ready.cxl = true ∧ s.mem.readN (memKey 4 0x1008) 8 = 0x8000 ∧ s.mem.readN (memKey 4 0x1000) 4 = 0) ∧
    (∀ p ∈ [(rootWords, none), (rootWords.set 5 0, some 2), (rootWords.set 0 (2 ^ 63 + 0x8040), some 3), (rootWords.set 4 6, some 4)],
      checked (registering p.1) 0x8000 = p.2) ∧
    (∀ n ∈ [5, 6], let b := Rcb.ofWords 0 0x8000 (nums ((rootWords.set 0 (2 ^ 63 + 0x8040)).set 4 n) 8)
      mgmtWords (child n) (sysCtx 0) 0x8000 8 = some (nums ((rootWords.set 0 (2 ^ 63 + 0x8040)).set 4 n) 8) ∧
      rcbSound (nums ((rootWords.set 0 (2 ^ 63 + 0x8040)).set 4 n) 8) b = true ∧ b.parent = 0x8040 ∧ findRcb (child n) 0 0x8040 ≠ none ∧
      findRcb (child n) 0 0x8000 = none ∧ findRcb { child n with rcbs := [] } 0 0x8040 = none ∧ (tabFind (child n).meters b.meter).isSome = (n == 5)) ∧
    let s : State := { launching 0x310 block1 [] with rcbs := [root1, { root1 with addr := 0x8040, parent := 0x8000, ovr := 1 }] }
    findRcb s 0 0x8040 = some { root1 with addr := 0x8040, parent := 0x8000, ovr := 1 } ∧ findRcb s 0 0x8000 = some root1 := by
  refine ⟨all_issue (by decide +kernel), quiet_of (by decide +kernel), by decide +kernel, by decide +kernel, block_parses.2.1, block_parses.2.2, by decide, by decide, by decide +kernel,
    by decide +kernel, ticked_parses, by decide +kernel, by decide +kernel, block_checks, ?_, by decide +kernel⟩
  intro n hn
  refine ⟨child_words n hn, ?_⟩
  revert n; decide +kernel

/-- A queue whose turn it is, with one launch that has a team to dispatch, on a panel with the given twins up. -/
def turn (ls : List Nat) (deficit : Int) (twins : BitVec 96) : State :=
  let s := launching 0x310 block1 ls
  let s := s.updLaunch 1 (fun L => { L with block := nums block1 16, desc := nums desc1 8, walk := 0, dispatched := 0 })
  { s with queues := [{ queue1 ls with deficit }], slice := [(0, (0, false, 0))], ready := { s.ready with twins } }

/-- The state, and its charge, of a placement that succeeds. -/
def unitOk (x : UnitPlaced) : Option (State × Nat) := match x with
  | .ok s n => some (s, n)
  | .none | .no | .error _ _ => none

def unitNo (x : UnitPlaced) : Bool := match x with
  | .no => true
  | .ok _ _ | .none | .error _ _ => false

theorem unit_no {x : UnitPlaced} (h : unitNo x = true) : x = .no := by
  cases x <;> simp_all [unitNo]

theorem unit_ok {x : UnitPlaced} {p : State × Nat → Bool} (h : (unitOk x).any p = true) : ∃ u n, x = .ok u n ∧ p (u, n) = true := by
  cases x with
  | ok u n => exact ⟨u, n, rfl, by simpa [unitOk] using h⟩
  | none | no | error => simp [unitOk] at h

/-- What a visit turns to before it dispatches. -/
def visiting (s : State) : State := { s with visit := tabSet s.visit 0 0 }

/-- The team of a retirement: its gang gone, its queue known. -/
def retiring (walk : Nat) : State :=
  let s := turn [1] 0 1
  { s with gangs := [] }.updLaunch 1 (fun L => { L with walk })

/-- A launch of one team of one gang. -/
def launch1 : Launch := { Launch.placed with rcb := 0x8000, block := nums block1 16, desc := nums desc1 8, walk := 0, dispatched := 0 }

/-- A state with team 1 of launch 1. -/
def having (s : State) (f : Team → Team) (g : Launch → Launch) : State := (s.setTeam 1 (f Team.placed)).setLaunch 1 (g launch1)

theorem witness_TeamsStartAndEnd :
    (∀ p ∈ [([], 0, 1), ([1], 0, 0), ([1], -2000, 1), ([1], 0, 1)], let s := turn p.1 p.2.1 p.2.2
      s.queues = [{ queue1 p.1 with deficit := p.2.1 }] ∧ (queue1 p.1).panel = 0 ∧ tabFind s.slice 0 = some (0, false, 0) ∧ vdOfRcb s 0 0x8000 = some 0) ∧
    (let s : State := { turn [1] 0 1 with saved := [{ team := 7, body := Team.placed, panel := 0, vd := 0, image := 0, byCtx := false, lanes := [] }] }
     s.queues = [queue1 [1]] ∧ (s.launch? 1).isSome = true ∧ savedAhead s (queue1 [1]) = true ∧ savedAhead (turn [1] 0 1) (queue1 [1]) = false) ∧
    placeNext (visiting (turn [1] 0 0)) { queue1 [1] with deficit := 0 } = .no ∧
    (∃ u n, placeNext (visiting (turn [1] (-2000) 1)) { queue1 [1] with deficit := -2000 } = .ok u n ∧ (-2000 : Int) + 1000 ≤ 0) ∧
    (∃ u n, placeNext (visiting (turn [1] 0 1)) { queue1 [1] with deficit := 0 } = .ok u n) ∧
    (let q2 : Queue := { queue1 [1] with deficit := 1000, idle := false }
     ∃ u n, placeNext (setQueue (visiting (turn [1] 0 1)) q2) q2 = .ok u n ∧ ((findQueue u 0 0x8000 0).any (fun q => decide (q.deficit ≤ (n : Int)))) = true) ∧
    (let s := turn [1] 0 1
     findRcb s 0 0x8000 = some root1 ∧ (gangPlaces 1 [(4, 0, 8), (5, 8, 8)]).Nodup) ∧
    (teamQuiet (turn [1] 0 1) 1 = false ∧ (∀ w ∈ [0, 1], let s := retiring w
      (s.team? 1).isSome = true ∧ teamQuiet s 1 = true ∧ (s.launch? 1).map (fun L => (L.blk 10 0 56, L.parts, L.spent)) = some (0, 1, w == 1) ∧
        findQueue s 0 0x8000 0 = some (queue1 [1]) ∧ (visited s 0).any (fun x => x.is 0 0x8000 0) = true ∧ (∀ e ∈ s.teams, e.1 = 1 ∨ e.2.launch ≠ 1) ∧ s.saved = [])) ∧
    (let s := turn [1] 0 1
     (s.team? 1).map (fun T => (T.launch, T.ended)) = some (1, none) ∧ (s.launch? 1).isSome = true ∧ loaderOf s 1 = none) ∧
    (let ts : List Loaded := [{ team := 1, known := false, image := 0x100000, byCtx := true, lanes := [], room := none }]
     let s := withSlot (having (at_ 0x38A) id id) (fun X => { X with wait := .loading ts (o 16 .w8) 0xFFFFFFFF })
     (s.team? 1).isSome = true ∧ (s.launch? 1).isSome = true ∧ loaderOf s 1 = some (s.cur, ts) ∧ (s.gang s.cur.gang).team = none ∧
      (s.slot s.cur).wait = .loading ts (o 16 .w8) 0xFFFFFFFF ∧ (s.slot s.cur).run = some (runOf s)) ∧
    let s := (turn [1] 0 1).updTeam 1 (fun T => { T with ended := some (48, 0), partner := some 2 })
    (s.team? 1).map (·.ended) = some (some (48, 0)) := by
  have h2 : (placeNext (visiting (turn [1] (-2000) 1)) { queue1 [1] with deficit := -2000 } |> unitOk).any (fun _ => true) = true := by decide +kernel
  have h3 : (placeNext (visiting (turn [1] 0 1)) { queue1 [1] with deficit := 0 } |> unitOk).any (fun _ => true) = true := by decide +kernel
  have h4 : let q2 : Queue := { queue1 [1] with deficit := 1000, idle := false }
    (unitOk (placeNext (setQueue (visiting (turn [1] 0 1)) q2) q2)).any (fun x => (findQueue x.1 0 0x8000 0).any (fun q => decide (q.deficit ≤ (x.2 : Int)))) = true := by
    decide +kernel
  obtain ⟨u2, n2, e2, _⟩ := unit_ok h2
  obtain ⟨u3, n3, e3, _⟩ := unit_ok h3
  exact ⟨by decide +kernel, by decide +kernel, unit_no (by decide +kernel), ⟨u2, n2, e2, by decide⟩, ⟨u3, n3, e3⟩, unit_ok h4, by decide +kernel, by decide +kernel,
    by decide +kernel, by decide +kernel, by decide +kernel⟩

theorem badPage_mapped {s : State} (h : Mapped s.mem) {panel base n : Nat} {acc : Acc} (hr : ctxRoots s (sysCtx panel) = (0x20000, 0x10000))
    (hb : base + n + 4096 ≤ 2 ^ 30) (hacc : acc ≠ .fetch) (hx : sysCtx panel < 17 := by decide) : badPage s panel base n acc = none := by
  simp only [badPage, List.findSome?_eq_none_iff, List.mem_range]
  intro i hi
  have : (base + 4096 * i) % 2 ^ 56 = base + 4096 * i := Nat.mod_eq_of_lt (by omega)
  obtain ⟨_, e⟩ := mgmtXlate_mapped h hx hr (by omega : base + 4096 * i < 2 ^ 30) hacc
  simp only [this, e]

theorem sysByte_mapped {s : State} (h : Mapped s.mem) (hp : s.poison = []) {ctx a : Nat} (hx : ctx < 17) (hr : ctxRoots s ctx = (0x20000, 0x10000)) (ha : a < 2 ^ 30) :
    sysByte s ctx a = (s.mem.read (memKey 2 a), false) := by
  have hm : a % 2 ^ 56 = a := Nat.mod_eq_of_lt (by omega)
  obtain ⟨_, e⟩ := mgmtXlate_mapped h hx hr ha (by decide : Acc.read ≠ .fetch)
  simp only [sysByte, sysKey, hm, e, hp, List.isEmpty_nil, Bool.not_true, Bool.false_and]

theorem rd_mapped {s : State} (h : Mapped s.mem) (hp : s.poison = []) {m : Image} {off n v : Nat} (hr : ctxRoots s (sysCtx m.panel) = (0x20000, 0x10000))
    (ha : m.addr + off + n ≤ 2 ^ 30) (hv : s.mem.readN (memKey 2 (m.addr + off)) n = v) (hx : sysCtx m.panel < 17 := by decide) : m.rd s off n = v := by
  subst hv
  simp only [Image.rd, Memory.readN, Memory.readBytes]
  congr 1
  refine List.map_congr_left (fun i hi => ?_)
  simp only [List.mem_range] at hi
  rw [sysByte_mapped h hp hx hr (by omega)]
  simp [memKey, Nat.add_assoc]

theorem mapped_put {s : State} (h : Mapped s.mem) {a : Nat} (ha : 0x30000 ≤ a) (mask b : Byte) : Mapped (s.put (memKey 2 a) mask b).mem := by
  have e (x : Nat) (hx : x + 8 ≤ 0x30000) : (s.put (memKey 2 a) mask b).mem.readN (devKey 0 x) 8 = s.mem.readN (devKey 0 x) 8 := by
    simp only [Memory.readN, Memory.readBytes, State.put]
    congr 1
    refine List.map_congr_left (fun i hi => ?_)
    simp only [List.mem_range] at hi
    rw [Memory.read_write, if_neg]
    simp only [devKey, memKey]; omega
  exact ⟨(e _ (by decide)).trans h.a, (e _ (by decide)).trans h.b, (e _ (by decide)).trans h.c, (e _ (by decide)).trans h.d, (e _ (by decide)).trans h.e,
    (e _ (by decide)).trans h.f⟩

theorem imgWrite_mapped (ctx : Nat) (hx : ctx < 17) (bs : Marked) (s : State) (a : Nat) (h : Mapped s.mem) (hr : ctxRoots s ctx = (0x20000, 0x10000)) (h1 : 0x30000 ≤ a)
    (h2 : a + bs.length ≤ 2 ^ 30) : (imgWrite s ctx a bs).2 = none ∧ Mapped (imgWrite s ctx a bs).1.mem ∧ ctxRoots (imgWrite s ctx a bs).1 ctx = (0x20000, 0x10000) := by
  induction bs generalizing s a with
  | nil => exact ⟨rfl, h, hr⟩
  | cons b bs ih =>
    simp only [List.length_cons] at h2
    have hlt : a < 2 ^ 30 := by omega
    have hm : a % 2 ^ 56 = a := Nat.mod_eq_of_lt (by omega)
    obtain ⟨w, e⟩ := mgmtXlate_mapped h hx hr hlt (by decide : Acc.write ≠ .fetch)
    have hp : ctxRoots (({ s with home := w } : State).put (memKey 2 a) 0xFF b.1) ctx = (0x20000, 0x10000) := by
      obtain ⟨v, e'⟩ := useHome_only { s with home := w } (memKey 2 a)
      simp only [State.put, e']; exact hr
    simp only [imgWrite, hm, e]
    split
    all_goals exact ih _ (a + 1) (mapped_put (s := { s with home := w }) h h1 _ _) hp (by omega) (by omega)

theorem imgParts_mapped (ctx base : Nat) (hx : ctx < 17) (ps : List (Nat × Marked)) (s : State) (h : Mapped s.mem) (hr : ctxRoots s ctx = (0x20000, 0x10000)) (h1 : 0x30000 ≤ base)
    (h2 : ∀ p ∈ ps, base + p.1 + p.2.length ≤ 2 ^ 30) : (imgParts s ctx base ps).2 = none := by
  induction ps generalizing s with
  | nil => rfl
  | cons p ps ih =>
    have hw := imgWrite_mapped ctx hx p.2 s (base + p.1) h hr (by omega) (h2 p (by simp))
    simp only [imgParts]
    split
    · rename_i s' a e; rw [e] at hw; simp at hw
    · rename_i s' e; rw [e] at hw; exact ih s' hw.2.1 hw.2.2 (fun q hq => h2 q (by simp [hq]))

/-- The service gang of core 0 at CTXSV or CTXLD, with an image's address and a position, on the board. -/
def switching (op a p : Nat) : State := withK (withK { board (at_ op) with rcbs := [root1] } 2 a) 3 p

/-- A state with the image of a team of one gang without lanes at 1 MiB (21 R368). -/
def imaged (s : State) : State :=
  { s.setLaunch 1 launch1 with mem := words (words s.mem 0x100000 [2 ^ 56 + 2 ^ 40 + 2 ^ 32 + 0x28000, 0, 0, 2 ^ 42]) 0x1073F0 [2 ^ 24] }

def image1 : Image := { panel := 0, addr := 0x100000, launch := launch1, lanes := [] }

/-- CTXLD of that image: as it is, beside a gang that runs a recipe of the team that is loaded, or out of the slice of its device. -/
def loading (b : Fin 3) : State :=
  let s := imaged (switching 0x38A 0x100000 0)
  match b with
  | 0 => s
  | 1 => s.setGang 1 { Gang.blank with team := some s.nextTeam, rebuild := some { a := Slot.free, todo := [] } }
  | 2 => { s with slice := [(0, (1, false, 0))] }

theorem mapped_loading (b : Fin 3) : Mapped (loading b).mem :=
  ⟨by revert b; decide +kernel, by revert b; decide +kernel, by revert b; decide +kernel, by revert b; decide +kernel, by revert b; decide +kernel,
    by revert b; decide +kernel⟩

theorem roots_loading (b : Fin 3) : ctxRoots (loading b) (sysCtx 0) = (0x20000, 0x10000) := by revert b; decide +kernel

theorem clean_loading (b : Fin 3) : (loading b).poison = [] := by revert b; decide +kernel

/-- A state whose memory, tables and poison are those of `loading`. -/
structure Loadable (s : State) : Prop where
  mem : s.mem = (loading 0).mem
  panels : s.panels = (loading 0).panels
  vds : s.vds = (loading 0).vds
  poison : s.poison = []

theorem loadable_loading (b : Fin 3) : Loadable (loading b) :=
  ⟨by revert b; decide +kernel, by revert b; decide +kernel, by revert b; decide +kernel, clean_loading b⟩

theorem rd_loading {s : State} (h : Loadable s) {off n v : Nat} (ha : off + n ≤ 0x100000) (hv : (loading 0).mem.readN (memKey 2 (0x100000 + off)) n = v) :
    image1.rd s off n = v :=
  rd_mapped (h.mem ▸ mapped_loading 0) h.poison
    ((show ctxRoots s (sysCtx 0) = ctxRoots (loading 0) (sysCtx 0) by simp only [ctxRoots, State.panel, State.vd, h.panels, h.vds]).trans (roots_loading 0))
    (by simp only [image1]; omega) (by rw [h.mem]; exact hv)

theorem head_loading {s : State} (h : Loadable s) (i v : Nat) (hi : i < 8) (hv : (loading 0).mem.readN (memKey 2 (0x100000 + 8 * i)) 8 = v) : image1.head s i = v :=
  rd_loading h (by omega) hv

theorem gangs_loading {s : State} (h : Loadable s) : image1.gangs s = 1 := by
  simp only [Image.gangs, head_loading h 0 (2 ^ 56 + 2 ^ 40 + 2 ^ 32 + 0x28000) (by decide) (by decide +kernel)]; decide

theorem sec_loading {s : State} (h : Loadable s) (off n v : Nat) (hn : off + n ≤ 4096) (hv : (loading 0).mem.readN (memKey 2 (0x107000 + off)) n = v) :
    image1.sec s 0 off n = v :=
  rd_loading h (by omega) (by rw [← hv]; congr 2; omega)

theorem secs_loading {s : State} (h : Loadable s) : image1.gangSecs s = [(0, 1)] := by
  simp [Image.gangSecs, gangs_loading h, sec_loading h 0x3F4 1 0 (by decide) (by decide +kernel)]

theorem num_loading {s : State} (h : Loadable s) : image1.num s 0 = 0 := sec_loading h 0x3F1 1 0 (by decide) (by decide +kernel)

theorem copies_loading {s : State} (h : Loadable s) : image1.ncopies s = 0 := by
  have hd : image1.desc s 0 56 8 = 0 := rd_loading h (by decide) (by decide +kernel)
  have hf : firstBelow 32 (fun i => fld (image1.desc s i 56 8) 0 21 == 0) = some 0 := by
    have e : (firstBelow 32 (fun i => fld (image1.desc s i 56 8) 0 21 == 0)) = (List.range 32).find? (fun i => fld (image1.desc s i 56 8) 0 21 == 0) := rfl
    rw [e, show List.range 32 = 0 :: (List.range 32).tail by decide, List.find?_cons, hd]
    rfl
  simp [Image.ncopies, hf]

/-- The team that the image restores. -/
def restoring1 (b : Fin 3) : Restoring :=
  { team := (loading b).nextTeam,
    body := { startTeam (loading b) launch1 1 0 0 { runs := [], grant := 0, spad := 0 } none (effRcb (loading b) root1) with idx := 0, cbar := launch1.teams + (loading b).nextTeam }, img := image1, known := false }

theorem loaded1 (b : Fin 3) : loadedTeam (loading b) 0 0x100000 0 = some (restoring1 b) := by
  have e1 : (loading b).saved = [] := by revert b; decide +kernel
  have e2 : launchAt (loading b) 0 0 = some (1, launch1) := by clear e1; revert b; decide +kernel
  have e4 : findRcb (loading b) 0 launch1.rcb = some root1 := by clear e1 e2; revert b; decide +kernel
  have h := loadable_loading b
  have h1 : bytesNat ((List.range 8).map (fun k => (sysByte (loading b) (sysCtx 0) (0x100000 + 8 * 1 + k)).1)) = 0 := head_loading h 1 0 (by decide) (by decide +kernel)
  have h2 : bytesNat ((List.range 8).map (fun k => (sysByte (loading b) (sysCtx 0) (0x100000 + 8 * 2 + k)).1)) = 0 := head_loading h 2 0 (by decide) (by decide +kernel)
  simp only [loadedTeam, e1, List.find?_nil, h1, h2, e2, e4, Option.bind_eq_bind, Option.bind_some]
  rfl

theorem image_ok (b : Fin 3) : image1.ok (loading b) = true := by
  have h := loadable_loading b
  have h0 := head_loading h 0 (2 ^ 56 + 2 ^ 40 + 2 ^ 32 + 0x28000) (by decide) (by decide +kernel)
  have h1 := head_loading h 1 0 (by decide) (by decide +kernel)
  have h2 := head_loading h 2 0 (by decide) (by decide +kernel)
  have h3 := head_loading h 3 (2 ^ 42) (by decide) (by decide +kernel)
  have h6 := head_loading h 6 0 (by decide) (by decide +kernel)
  have hr : image1.nrows (loading b) = 0 := by simp only [Image.nrows, h3]; decide
  have hgr : image1.grant (loading b) = 1 := by simp only [Image.grant, h3]; decide
  have ht : (List.range 25).all (fun i => fld (image1.head (loading b) (7 + i)) 0 64 == 0) = true := by
    simp only [List.all_eq_true, List.mem_range]
    intro i hi
    have e : (List.range 25).all (fun i => (loading 0).mem.readN (memKey 2 (0x100000 + 8 * (7 + i))) 8 == 0) = true := by decide +kernel
    have e' := List.all_eq_true.mp e i (List.mem_range.mpr hi)
    rw [show image1.head (loading b) (7 + i) = 0 from rd_loading h (by omega) (by simpa using e')]; decide
  have hb : image1.rowBase (loading b) 1 = 0 := by
    simp only [Image.rowBase, show List.range 1 = [0] by decide, List.map_cons, List.map_nil, sec_loading h 0x3E0 16 0 (by decide) (by decide +kernel)]; decide
  have s0 := sec_loading h 0x3F0 1 0 (by decide) (by decide +kernel)
  have s2 := sec_loading h 0x3F2 1 0 (by decide) (by decide +kernel)
  have s3 := sec_loading h 0x3F3 1 1 (by decide) (by decide +kernel)
  have s9 := sec_loading h 0x390 4 0 (by decide) (by decide +kernel)
  have sb := sec_loading h 0x3B0 4 0 (by decide) (by decide +kernel)
  simp only [Image.ok, ht, h0, h1, h2, h3, h6, copies_loading h, gangs_loading h, secs_loading h, num_loading h, hr, hgr, hb, List.all_cons, List.all_nil, List.map_cons,
    List.map_nil, s0, s2, s3, s9, sb]
  clear h h0 h1 h2 h3 h6 hr hgr ht hb s0 s2 s3 s9 sb
  revert b; decide +kernel

theorem restores (s : State) (v : Restoring) (core : Nat) (hb : ((s.core core).bins.filter (·.bound)).length = 0)
    (ha : (allocWith s core v.img.launch.scratch (fun _ => v.img.needs s) [v.img.grant s]).isSome = true) : (restoreTeam s v core).isSome = true := by
  have h1 : (v.img.bins s v.team).length ≤ 16 := by
    simp only [Image.bins, List.length_map]
    have := List.length_filter_le (fun i => v.img.rd s (0x2000 + 1280 * i + 24) 1 == 1) (List.range 16)
    simpa using this
  have h2 : (v.img.bins s v.team).length + ((s.core core).bins.filter (·.bound)).length ≤ 16 := by omega
  simp only [restoreTeam, h2, if_true, Option.isSome_map, ha]

theorem restoreAt_one {s : State} {v : Restoring} {c x : Nat} {y : State × List Nat} (hp : v.body.partner = none) (pin : v.img.pinned s = false)
    (hx : panelCoreAt s v.img.panel c = some x) (hy : restoreTeam s v x = some y) : restoreAt s [v] c = some (resumeTeam y.1 v y.2) := by
  simp [restoreAt, hp, pin, hx, hy]

theorem tryRestore_one {s u : State} {v : Restoring} {c : Nat} (hp : v.body.partner = none) (hl : v.img.lost s = none) (ho : v.img.ok s = true)
    (hrc : recipesOk s v = true) (hu : restoreAt s [v] c = some u) : tryRestore s (some (v.team, c)) [v] = .ok (stir u v.img.panel) := by
  have hc : byCluster [v] = [[v]] := by simp [byCluster, List.eraseDups_cons]
  have hcl : restoreClusters (some (v.team, c)) [[v]] s = some u := by simp [restoreClusters, hp, hu, leastBy]
  simp [tryRestore, hl, ho, hrc, hc, hcl]

theorem loadImage_one {s u : State} {v : Restoring} {core panel c a n : Nat} (hc : panelCore s core = (panel, c)) (hb : badPage s panel a 0x27000 .read = none)
    (hv : loadedTeam s panel a core = some v) (hn : fld (v.img.head s 0) 0 32 = n) (hb' : badPage s panel a n .read = none) (hp : v.body.partner = none)
    (hk : v.known = false) (ho : sliceOpen s panel v.img.launch.vd = true) (hro : reopen s v = s) (ht : tryRestore s (some (v.team, c)) [v] = .ok u) :
    loadImage s core a = ({ u with nextTeam := s.nextTeam + 1 }, 0, [loadedOf s v]) := by
  simp [loadImage, hc, hb, hv, hn, hb', hp, hk, ho, hro, ht]

theorem updLaunch_rest (s : State) (l : Nat) (f : Launch → Launch) : (s.updLaunch l f).mem = s.mem ∧ (s.updLaunch l f).panels = s.panels ∧
    (s.updLaunch l f).vds = s.vds ∧ (s.updLaunch l f).poison = s.poison ∧ (s.updLaunch l f).gangs = s.gangs := by
  simp only [State.updLaunch]; split <;> exact ⟨rfl, rfl, rfl, rfl, rfl⟩

theorem needs_loading {s : State} (h : Loadable s) : image1.needs s = [(1, 1)] := by
  have h3 := head_loading h 3 (2 ^ 42) (by decide) (by decide +kernel)
  have hgr : image1.grant s = 1 := by simp only [Image.grant, h3]; decide
  have hf : ([((0 : Nat), (1 : Nat))].filter (fun p => image1.launch.gangs ≤ image1.num s p.1)) = [] := by
    simp only [List.filter_cons, num_loading h, List.filter_nil]; decide +kernel
  simp only [Image.needs, secs_loading h, hf, List.map_nil, hgr]; decide +kernel

/-- The gangs of a state are those of another with a gang at one place that runs no recipe. -/
def OneMore (s u : State) (g : Nat) : Prop := ∃ G : Gang, G.rebuild = none ∧ u.gangs = tabSet s.gangs g G

/-- Restoring a team of one gang and no copies puts that gang in its place and changes no other. -/
theorem resumed_gangs {s : State} (h : Loadable s) {v : Restoring} (hi : v.img = image1) {core : Nat} {y : State × List Nat}
    (hy : restoreTeam s v core = some y) (ha : (allocWith s core launch1.scratch (fun _ => [(1, 1)]) [1]).map (fun a => ((placesOf [(1, 1)] a.runs)[0]?).getD 0) = some 0) :
    OneMore s (resumeTeam y.1 v y.2) 0 := by
  have hs : image1.launch.scratch = 0 := by decide +kernel
  have h3 := head_loading h 3 (2 ^ 42) (by decide) (by decide +kernel)
  have hgr : image1.grant s = 1 := by simp only [Image.grant, h3]; decide
  have hl : image1.launch = launch1 := rfl
  have hp (u : State) (hu : Loadable u) (ps : List Nat) : image1.placeOf u ps 0 = (ps[0]?).getD 0 := by
    simp only [Image.placeOf, num_loading hu, show (0 : Nat) < image1.launch.gangs by decide +kernel, if_true]
  have hg : Loadable y.1 ∧ (y.2[0]?).getD 0 = 0 ∧ OneMore s y.1 0 := by
    have hu (c : Core) (T : Team) (l : Nat) (f : Launch → Launch) : Loadable (((s.setCore core c).setTeam v.team T).updLaunch l f) :=
      have e := updLaunch_rest ((s.setCore core c).setTeam v.team T) l f
      ⟨e.1.trans h.mem, e.2.1.trans h.panels, e.2.2.1.trans h.vds, e.2.2.2.1.trans h.poison⟩
    have hx (c : Core) (T : Team) (l : Nat) (f : Launch → Launch) := secs_loading (hu c T l f)
    have hq (c : Core) (T : Team) (l : Nat) (f : Launch → Launch) := hp _ (hu c T l f)
    simp only [restoreTeam, hi, hs, List.range_zero, List.foldl_nil, hx, List.foldl_cons, hq, needs_loading h, hgr] at hy
    split at hy
    · obtain ⟨a, e, rfl⟩ := Option.map_eq_some_iff.mp hy
      rw [← hl, hs, e] at ha
      simp only [Option.map_some, Option.some.injEq] at ha
      have e5 (c : Core) (T : Team) (l : Nat) (f : Launch → Launch) := (updLaunch_rest ((s.setCore core c).setTeam v.team T) l f)
      refine ⟨⟨?_, ?_, ?_, ?_⟩, ha, _, ?_, (congrArg (fun gs => tabSet gs _ _) (e5 _ _ _ _).2.2.2.2).trans (congrArg (fun k => tabSet s.gangs k _) ha)⟩
      · exact ((e5 _ _ _ _).1).trans h.mem
      · exact ((e5 _ _ _ _).2.1).trans h.panels
      · exact ((e5 _ _ _ _).2.2.1).trans h.vds
      · exact ((e5 _ _ _ _).2.2.2.1).trans h.poison
      · rfl
    · cases hy
  obtain ⟨h1, h2, G, hG, e⟩ := hg
  have h1' (X : Gang) : Loadable (y.1.setGang 0 X) := ⟨h1.mem, h1.panels, h1.vds, h1.poison⟩
  simp only [resumeTeam, hi, copies_loading h1, List.range_zero, List.foldl_nil, secs_loading h1, List.foldl_cons, hp _ h1, h2]
  split
  · exact ⟨G, hG, e⟩
  · have hr (X : Gang) : image1.sec (y.1.setGang 0 X) 0 0x3F3 1 = 1 := sec_loading (h1' X) 0x3F3 1 1 (by decide) (by decide +kernel)
    have hgg : (y.1.gang 0).rebuild = none := by rw [State.gang, e, tabGet, tabFind_tabSet_same]; exact hG
    obtain ⟨X, hX, eX⟩ : ∃ X : Gang, X.rebuild = (y.1.gang 0).rebuild ∧ loadOverflow y.1 0 = y.1.setGang 0 X :=
      Exists.intro _ (And.symm ⟨rfl, rfl⟩)
    simp only [eX, hr, Nat.one_ne_zero, if_false, List.isEmpty_nil, if_true, State.gang_setGang_same, State.setGang_setGang]
    refine ⟨X, hX.trans hgg, ?_⟩
    show tabSet y.1.gangs 0 X = _
    rw [e, tabSet_tabSet]

theorem bins_loading (b : Fin 3) : (((loading b).core 0).bins.filter (·.bound)).length = 0 := by revert b; decide +kernel

theorem fits_loading (b : Fin 3) : (allocWith (loading b) 0 launch1.scratch (fun _ => [(1, 1)]) [1]).map (fun a => ((placesOf [(1, 1)] a.runs)[0]?).getD 0) = some 0 := by
  revert b; decide +kernel

theorem place_loading (b : Fin 3) : panelCoreAt (loading b) 0 0 = some 0 ∧ panelCore (loading b) 0 = (0, 0) ∧ (b ≠ 2 → sliceOpen (loading b) 0 launch1.vd = true) ∧
    reopen (loading b) (restoring1 b) = loading b ∧ image1.lost (loading b) = none := by
  revert b; decide +kernel

theorem load_ok (b : Fin 3) (hb : b ≠ 2) : ∃ u, loadImage (loading b) 0 0x100000 = (u, 0, [loadedOf (loading b) (restoring1 b)]) ∧ OneMore (loading b) u 0 := by
  have h := loadable_loading b
  have bad (n : Nat) (hn : 0x100000 + n + 4096 ≤ 2 ^ 30) : badPage (loading b) 0 0x100000 n .read = none := badPage_mapped (mapped_loading b) (roots_loading b) hn (by decide)
  have h0 := head_loading h 0 (2 ^ 56 + 2 ^ 40 + 2 ^ 32 + 0x28000) (by decide) (by decide +kernel)
  have h3 := head_loading h 3 (2 ^ 42) (by decide) (by decide +kernel)
  have h6 := head_loading h 6 0 (by decide) (by decide +kernel)
  have hgr : image1.grant (loading b) = 1 := by simp only [Image.grant, h3]; decide
  have hn := needs_loading h
  have hr : (restoreTeam (loading b) (restoring1 b) 0).isSome = true := by
    refine restores (loading b) (restoring1 b) 0 (bins_loading b) ?_
    show (allocWith (loading b) 0 launch1.scratch (fun _ => image1.needs (loading b)) [image1.grant (loading b)]).isSome = true
    rw [hn, hgr]
    have := congrArg Option.isSome (fits_loading b)
    rwa [Option.isSome_map] at this
  obtain ⟨y, hy⟩ := Option.isSome_iff_exists.mp hr
  have hpin : image1.pinned (loading b) = false := by simp only [Image.pinned, h6]; decide
  have hrc : recipesOk (loading b) (restoring1 b) = true := by
    have e : (restoring1 b).img = image1 := rfl
    simp only [recipesOk, e, secs_loading h, List.all_cons, List.all_nil, sec_loading h 0x3F3 1 1 (by decide) (by decide +kernel)]
    rfl
  have hat := restoreAt_one (s := loading b) (v := restoring1 b) (c := 0) rfl hpin (place_loading b).1 hy
  refine ⟨_, loadImage_one (place_loading b).2.1 (bad 0x27000 (by decide)) (loaded1 b) (show fld (image1.head (loading b) 0) 0 32 = 0x28000 by rw [h0]; decide)
    (bad 0x28000 (by decide)) rfl rfl ((place_loading b).2.2.1 hb) (place_loading b).2.2.2.1 (tryRestore_one rfl (place_loading b).2.2.2.2 (image_ok b) hrc hat),
    resumed_gangs h rfl hy (fits_loading b)⟩

theorem any_tabSet {α : Type} (t : Tab α) (k : Nat) (v : α) (p : Nat × α → Bool) (hf : tabFind t k = none) (hp : p (k, v) = false) : (tabSet t k v).any p = t.any p := by
  induction t with
  | nil => simp [tabSet, hp]
  | cons e t ih =>
    simp only [tabFind] at hf
    split at hf
    · cases hf
    · next hn =>
      simp only [tabSet]
      split
      · simp [hp]
      · simp [Ne.symm hn, ih hf]

theorem loads (b : Fin 3) (hb : b ≠ 2) : let s := (loading b).setRun (loading b).cur (runOf (loading b))
    ∃ u ts, (s.gang s.cur.gang).window = [] ∧ loadImage s 0 0x100000 = (u, 0, ts) ∧ u.gang s.cur.gang = s.gang s.cur.gang ∧ recipesRun u ts = (b == 1) := by
  have e : (loading b).setRun (loading b).cur (runOf (loading b)) = loading b := by clear hb; revert b; decide +kernel
  have w : ((loading b).gang (loading b).cur.gang).window = [] := by clear hb e; revert b; decide +kernel
  have q : recipesRun (loading b) [loadedOf (loading b) (restoring1 b)] = (b == 1) := by clear hb e w; revert b; decide +kernel
  obtain ⟨u, hu, G, hG, hg⟩ := load_ok b hb
  have f : tabFind (loading b).gangs 0 = none ∧ (loading b).cur.gang ≠ 0 := by clear hb e w q hu hG hg; revert b; decide +kernel
  rw [e]
  refine ⟨u, _, w, hu, by simp only [State.gang, hg, tabGet, tabFind_tabSet_other _ _ _ _ f.2], ?_⟩
  rw [← q]
  simp only [recipesRun, hg]
  exact any_tabSet _ _ _ _ f.1 (by simp [hG])

theorem load_shut : ∃ v, loadedTeam (loading 2) 0 0x100000 0 = some v ∧ badPage (loading 2) 0 0x100000 0x27000 .read = none ∧
    badPage (loading 2) 0 0x100000 (v.img.head (loading 2) 0 % 2 ^ 32) .read = none ∧ sliceOpen (loading 2) 0 v.img.launch.vd = false := by
  have h0 : (restoring1 2).img.head (loading 2) 0 = 2 ^ 56 + 2 ^ 40 + 2 ^ 32 + 0x28000 := head_loading (loadable_loading 2) 0 _ (by decide) (by decide +kernel)
  refine ⟨restoring1 2, loaded1 2, badPage_mapped (mapped_loading 2) (roots_loading 2) (by decide) (by decide), ?_, by decide +kernel⟩
  rw [h0]
  exact badPage_mapped (mapped_loading 2) (roots_loading 2) (by decide) (by decide)

/-- A team without gangs that is to be written to its image. -/
def closing : State := having (board State.reset) (fun T => { T with image := some 0x100000, pre := .save, remap := some 0x200000, scratch := 0 }) id

theorem padTo_length (n : Nat) (bs : List Byte) : (padTo n bs).length ≤ n := by
  simp only [padTo, List.length_take]; omega

theorem plain_length (bs : List Byte) : (plain bs).length = bs.length := by simp [plain]

theorem recs_length (l : List RecSlot) : (l.flatMap (fun r => natBytes 32 r.body.toNat ++ padTo 16 (natBytes 1 (b2n r.valid)))).length ≤ 48 * l.length := by
  induction l with
  | nil => simp
  | cons r l ih =>
    have := padTo_length 16 (natBytes 1 (b2n r.valid))
    have h : (natBytes 32 r.body.toNat).length = 32 := by simp [natBytes]
    simp only [List.flatMap_cons, List.length_append, List.length_cons, h]; omega

theorem write_empty {s : State} {t a : Nat} {T : Team} {L : Launch} (hT : s.team? t = some T) (hL : s.launch? T.launch = some L) (ha : T.image = some a)
    (hg : gangsByNum (flushReds (promote s T.core) (fun d => d.team == some t)) t = [])
    (hm : Mapped (flushReds (promote s T.core) (fun d => d.team == some t)).mem)
    (hr : ctxRoots (flushReds (promote s T.core) (fun d => d.team == some t)) (sysCtx L.panel) = (0x20000, 0x10000))
    (h1 : 0x30000 ≤ a) (h2 : a + 0x28000 ≤ 2 ^ 30) (hq : T.recs.length = 64) (hx : sysCtx L.panel < 17 := by decide) : (writeImage s t).2 = none := by
  simp only [writeImage, hT, hL, ha, hg, gangParts]
  refine imgParts_mapped _ _ hx _ _ hm hr h1 ?_
  intro p hp
  simp only [List.mem_cons, List.not_mem_nil, or_false] at hp
  rcases hp with rfl | rfl | rfl | rfl | rfl | rfl | rfl | rfl
  · simp only [plain_length, barSection, List.length_append]
    have := padTo_length 256 (T.bars.flatMap barBytes)
    have := padTo_length 128 (if holdsCluster T then (tabGet [] L.cbars T.cbar).flatMap barBytes else [])
    have := padTo_length 128 (if T.idx = 0 then L.gbars.flatMap barBytes else [])
    omega
  · simp only [plain_length, tileSection]; exact Nat.le_trans (Nat.add_le_add_left (padTo_length 256 _) _) (by omega)
  · simp only [plain_length, recSection]
    have := recs_length T.recs
    omega
  · simp only [plain_length, copySection]; exact Nat.le_trans (Nat.add_le_add_left (padTo_length 4096 _) _) (by omega)
  · simp only [plain_length, binSection]; exact Nat.le_trans (Nat.add_le_add_left (padTo_length 20480 _) _) (by omega)
  · simp only [plain_length]; exact Nat.le_trans (Nat.add_le_add_left (padTo_length 131072 _) _) (by omega)
  · simp only [List.length_nil]; omega
  · simp only [plain_length, headerBytes]; exact Nat.le_trans (Nat.add_le_add_left (padTo_length 256 _) _) (by omega)

theorem pair_of {α β : Type} {x : α × β} {b : β} (h : x.2 = b) : ∃ u, x = (u, b) := ⟨x.1, by rw [← h]⟩

theorem write_closing : ∃ u, writeImage closing 1 = (u, none) := by
  have hn : (writeImage closing 1).2 = none :=
    write_empty (s := closing) (t := 1) (a := 0x100000) (T := { Team.placed with image := some 0x100000, pre := .save, remap := some 0x200000, scratch := 0 }) (L := launch1)
      (by decide +kernel) (by decide +kernel) rfl (by decide +kernel)
      ⟨by decide +kernel, by decide +kernel, by decide +kernel, by decide +kernel, by decide +kernel, by decide +kernel⟩ (by decide +kernel) (by decide) (by decide)
      (by decide +kernel)
  exact pair_of hn

theorem mapped_having : ∀ s ∈ [having (board State.reset) id id, switching 0x389 0x100000 0], Mapped s.mem := by
  intro s hs
  simp only [List.mem_cons, List.not_mem_nil, or_false] at hs
  rcases hs with rfl | rfl <;> exact ⟨by decide +kernel, by decide +kernel, by decide +kernel, by decide +kernel, by decide +kernel, by decide +kernel⟩

/-- Team 1 with a gang that stands at an entry, on the board. -/
def standing1 (f : Team → Team) (g : Launch → Launch) : State :=
  (having (board State.reset) f g).setGang 0 { Gang.blank with team := some 1, a := Slot.at 0x1000 0xFFFFFFFF none, live := 0xFFFFFFFF, bound := 1024 }

/-- A launch that takes more core-cycles than its allowance, or is idempotent. -/
def costly (idem : Nat) (L : Launch) : Launch := { L with block := nums (block1 ++ [0, 0, 0, 0]) 16 |>.set 5 0x100000 |>.set 4 (BitVec.ofNat 64 (idem * 2 ^ 29)) }

/-- A saved team whose launch is over, or whose image is all zeros, in its device's slice. -/
def savedOut (known : Bool) : State :=
  let s := { (if known then State.reset.setLaunch 1 launch1 else State.reset) with slice := [(0, (0, false, 0))] }
  { s with saved := [{ team := 1, body := Team.placed, panel := 0, vd := 0, image := 0x100000, byCtx := false, lanes := [] }] }

def tried (x : Tried) : Option State ⊕ (Nat × Nat × Nat) := match x with
  | .ok s => .inl (some s)
  | .room => .inl none
  | .bad t c d => .inr (t, c, d)

theorem tried_ok {x : Tried} (h : (match tried x with | .inl o => o.isSome | .inr _ => false) = true) : ∃ u, x = .ok u := by
  cases x with
  | ok s => exact ⟨s, rfl⟩
  | room => simp [tried] at h
  | bad => simp [tried] at h

theorem tried_bad {x : Tried} {t c d : Nat} (h : (match tried x with | .inl _ => false | .inr y => y == (t, c, d)) = true) : x = .bad t c d := by
  cases x with
  | bad t' c' d' => simp [tried] at h; rw [h.1, h.2.1, h.2.2]
  | ok => simp [tried] at h
  | room => simp [tried] at h

/-- Two enabled virtual devices, with the queues of both, and the slice of one. -/
def slices (ended : Bool) (ls : List Nat) : State :=
  let s := board State.reset
  { s with vds := s.vds ++ [(1, [0x8000000000008040, 0, 0, 0, 0, 0, 0x20000, 0x10000])], rcbs := [root1, { root1 with addr := 0x8040 }],
           queues := [{ queue1 ls with rcb := 0x8040 }], slice := [(0, (0, ended, 0))] }

/-- Two gangs of a team that wait at barriers for each other; `n` gangs of a panel's walk are known. -/
def cycle (prev : List (SlotRef × Nat)) : State :=
  let s := having (board State.reset) (fun T => { T with ngang := 2, bars := List.replicate 16 (Barrier.init 2) }) id
  let g (b : Nat) : Gang :=
    { Gang.blank with team := some 1, a := { Slot.at 0x1000 0xFFFFFFFF none with wait := .barrier (.team 1 b) false false }, live := 0xFFFFFFFF, bound := 8 }
  { (s.setGang 0 (g 0)).setGang 1 (g 1) with deadPrev := [(0, prev)] }

theorem witness_UnitsArePreempted :
    (∀ p ∈ ([(0x389, 1, 0), (0x389, 0x100000, 16), (0x389, 0x100000, 5), (0x389, 0x100000, 0), (0x38A, 1, 0), (0x38A, 0x100000, 1), (0x38A, 0x100000, 0)] : List (Nat × Nat × Nat)),
      let s := switching p.1 p.2.1 p.2.2
      Issues { sysInfo hd0 [o 16 .w8] true with svc := true } s (runOf s) ∧ participants s s.cur (runOf s) hd0 false ≠ 0 ∧ kreg s s.cur 2 = p.2.1 ∧ kreg s s.cur 3 = p.2.2) ∧
    teamAt (switching 0x389 0x100000 5) 0 5 = none ∧
    (let s := having (switching 0x389 0x100000 0) id id
     teamAt s 0 0 = some 1 ∧ (s.team? 1).map (fun T => (T.launch, T.partner, T.pre, T.core)) = some (1, none, .none, 0) ∧
       (s.launch? 1).map (fun L => L.grid) = some false ∧ (s.team? 1).map (largestImage s 1) = some 0x2A000 ∧ (panelCore s 0).1 = 0) ∧
    (badPage (having { switching 0x389 0x100000 0 with mem := [] } id id) 0 0x100000 0x2A000 .write).isSome = true ∧
    badPage (having (switching 0x389 0x100000 0) id id) 0 0x100000 0x2A000 .write = none ∧
    (badPage { switching 0x38A 0x100000 0 with mem := [] } 0 0x100000 0x27000 .read).isSome = true ∧
    (badPage (switching 0x38A 0x100000 0) 0 0x100000 0x27000 .read = none ∧ loadedTeam (switching 0x38A 0x100000 0) 0 0x100000 0 = none) ∧
    (∀ b : Fin 3, b ≠ 2 → let s := (loading b).setRun (loading b).cur (runOf (loading b))
      ∃ u ts, (s.gang s.cur.gang).window = [] ∧ loadImage s 0 0x100000 = (u, 0, ts) ∧ u.gang s.cur.gang = s.gang s.cur.gang ∧ recipesRun u ts = (b == 1)) ∧
    (∃ v, loadedTeam (loading 2) 0 0x100000 0 = some v ∧ badPage (loading 2) 0 0x100000 0x27000 .read = none ∧
      badPage (loading 2) 0 0x100000 (v.img.head (loading 2) 0 % 2 ^ 32) .read = none ∧ sliceOpen (loading 2) 0 v.img.launch.vd = false) ∧
    (let ts : List Loaded := [{ team := 1, known := false, image := 0x100000, byCtx := true, lanes := [], room := none }]
     let s := withSlot (having (at_ 0x38A) id id) (fun X => { X with wait := .loading ts (o 16 .w8) 0xFFFFFFFF })
     (s.slot s.cur).wait = .loading ts (o 16 .w8) 0xFFFFFFFF ∧ (s.slot s.cur).run = some (runOf s) ∧ recipesRun s ts = false ∧
      recipesRun (s.setGang 0 { Gang.blank with team := some 1, rebuild := some { a := Slot.free, todo := [] } }) ts = true) ∧
    (let ok (s : State) : Bool := (s.team? 1).any (fun T => T.launch == 1 && T.partner == none && T.ended == none) && (s.launch? 1).any (fun L => !L.grid && !L.twin && L.panel == 0 && L.vd == 0)
     let left (s : State) : Option (Nat × Nat) := (s.team? 1).bind (fun T => (s.launch? 1).map (fun L => (L.cost T.eff.emax - chargeOf s T, fld (descWord (s.vd 0 0) 1) 0 32)))
     let pre (p : Pre) (T : Team) : Team := { T with pre := p }
     let s0 := standing1 (fun T => { T with resid := 100000 }) id
     let s1 := standing1 id (costly 1)
     let s2 := standing1 id (costly 0)
     let s3 := standing1 (pre (.drain 0)) id
     let s4 := { s3 with vds := [(0, [0x8000000000008000, 10, 0x100000, 100, 0x60000, 4, 0x20000, 0x10000])] }
     let s5 := standing1 (pre .flush) id
     let s6 : State := { standing1 id id with reserved := [{ vd := 0, panel := 0, team := 9, base := 0x100000, len := 6553600 }] }
     let s7 := standing1 (fun T => { T with pre := .save, image := some 0x100000, scratch := 0 }) id
     let s8 := s7.setTile 4 { Tile.reset with holder := some 1, cls := .loan, last := some 1 }
     let s9 : State := { s6 with teams := [(1, { Team.placed with pre := .noRoom })] }
     ([s0, s1, s2, s3, s4, s5, s6, s7, s8, s9, closing].all ok = true) ∧
     left s0 = some (0, 0) ∧ left s1 = some (0x100000, 0) ∧ left s2 = some (0x100000, 0) ∧ (s1.launch? 1).map Launch.idem = some true ∧ (s1.team? 1).map (chargeOf s1) = some 0 ∧
     (s2.launch? 1).map Launch.idem = some false ∧ (s0.team? 1).map (·.pre) = some .none ∧ (s3.team? 1).map (·.pre) = some (.drain 0) ∧ s3.now = 0 ∧
     fld (descWord (s4.vd 0 0) 1) 0 32 = 10 ∧ (s5.team? 1).map (·.pre) = some .flush ∧
     saveRoom s6 0 0 0x2E000 = none ∧ (s6.team? 1).map (fun T => (largestImage s6 1 T, T.image)) = some (0x2E000, none) ∧ saveRoom s2 0 0 0x2E000 = some 0x100000 ∧
     flushDue s0 1 = false ∧ flushDue s5 1 = true ∧ saveStep s7 [1] = some .remap ∧ (beginRemap s7 1).2 = none ∧ saveStep s8 [1] = some .loans ∧
     saveStep (standing1 (pre .save) id) [1] = none ∧ saveStep closing [1] = some .close ∧ (closing.team? 1).map (·.image) = some (some 0x100000) ∧
     (s9.team? 1).map (fun T => (T.pre, T.image, largestImage s9 1 T)) = some (.noRoom, none, 0x2E000)) ∧
    badPage (standing1 id id) 0 0x100000 0x2E000 .write = none ∧
    (∃ u, writeImage closing 1 = (u, none)) ∧
    (∀ b ∈ [false, true], let s := savedOut b
      (s.saved.find? (fun v => v.image == 0x100000 && restoreDue s v)).isSome = true ∧ s.saved.length = 1) ∧
    (let s := savedOut false
     ∃ u, tryRestore s none ((s.saved.flatMap (savedUnit s)).filterMap (fun u => restoringOf s u u.image)) = .ok u) ∧
    (let s := savedOut true
     tryRestore s none ((s.saved.flatMap (savedUnit s)).filterMap (fun u => restoringOf s u u.image)) = .bad 1 52 0 ∧ (savedUnit s { team := 1, body := Team.placed, panel := 0, vd := 0, image := 0x100000, byCtx := false, lanes := [] }) = s.saved ∧
       (∀ v ∈ s.saved, v.team = 1 ∧ v.body.ended = none) ∧
      (restoreTeam s { team := 1, body := Team.placed, img := image1, known := true } 0).isSome = true) ∧
    (tabFind (slices false [1]).slice 0 = some (0, false, 0) ∧ runnable (slices false [1]) 0 1 = true ∧ residents (slices true [1]) 0 = [] ∧
      tabFind (slices true [1]).slice 0 = some (0, true, 0) ∧ runnable (slices true [1]) 0 ((0 + 1) % 16) = true) ∧
    (let later (s : State) : State := { s with mclock := 10000 }
     sliceOver (later (slices false [1])) 0 = true ∧ runnable (later (slices false [1])) 0 1 = true ∧ sliceOver (having (slices false []) id id) 0 = false ∧
      let s := later (having (slices false []) id id)
      sliceOver s 0 = true ∧ residents s 0 ≠ [] ∧ ∀ w, w < 16 → w ≠ 0 → runnable s 0 w = false) ∧
    (let s : State := { slices false [1] with slice := [] }
     tabFind s.slice 0 = none ∧ residents s 0 = [] ∧ runnable s 0 1 = true ∧ (∀ i, i < 1 → runnable s 0 i = false) ∧
       tabFind (having s id id).slice 0 = none ∧ residentVd (having s id id) 0 = some 0) ∧
    (let s := having (slices false []) id id
     (∀ w, w < 16 → w ≠ 0 → runnable s 0 w = false) ∧ residents s 0 ≠ [] ∧ residents (having (slices true []) id id) 0 ≠ []) ∧
    (let s := cycle []
     let all := (s.gangs.filter (fun e => e.2.team.any (residents s 0).contains)).map (·.1)
     (∀ g ∈ stuck s all, (agentsOf s [g]).all (tabGet [] s.deadPrev 0).contains = false) ∧ stuck s all ≠ []) ∧
    let s := cycle [({ gang := 0, b := false }, 0), ({ gang := 1, b := false }, 0)]
    let all := (s.gangs.filter (fun e => e.2.team.any (residents s 0).contains)).map (·.1)
    (s.team? 1).map (·.ended) = some none ∧ (s.gangs.map (·.1)).Nodup ∧ (∀ e ∈ s.gangs, e.2.team = none ∨ e.2.team = some 1) ∧
      stuck s ((stuck s all).filter (fun g => (agentsOf s [g]).all (tabGet [] s.deadPrev 0).contains)) ≠ [] := by
  have m1 := mapped_having (switching 0x389 0x100000 0) (by simp)
  have m2 := mapped_having (having (board State.reset) id id) (by simp)
  refine ⟨?_, by decide +kernel, by decide +kernel, by decide +kernel, ?_, by decide +kernel, ⟨?_, by decide +kernel⟩, loads, load_shut, by decide +kernel, by decide +kernel, ?_, write_closing, by decide +kernel,
    tried_ok (by decide +kernel), ⟨tried_bad (by decide +kernel), by decide +kernel⟩, by decide +kernel, by decide +kernel, by decide +kernel, by decide +kernel, by decide +kernel, by decide +kernel⟩
  · intro p hp
    have h : allCheck ([(0x389, 1, 0), (0x389, 0x100000, 16), (0x389, 0x100000, 5), (0x389, 0x100000, 0), (0x38A, 1, 0), (0x38A, 0x100000, 1), (0x38A, 0x100000, 0)].map
        (fun (p : Nat × Nat × Nat) => ({ sysInfo hd0 [o 16 .w8] true with svc := true }, switching p.1 p.2.1 p.2.2))) = true := by decide +kernel
    refine ⟨all_issue h _ (List.mem_map_of_mem hp), ?_⟩
    revert p; decide +kernel
  · exact badPage_mapped (s := having (switching 0x389 0x100000 0) id id) (show Mapped (switching 0x389 0x100000 0).mem from m1) (by decide +kernel) (by decide) (by decide)
  · exact badPage_mapped (s := switching 0x38A 0x100000 0) ⟨by decide +kernel, by decide +kernel, by decide +kernel, by decide +kernel, by decide +kernel, by decide +kernel⟩ (by decide +kernel) (by decide) (by decide)
  · exact badPage_mapped (s := standing1 id id) (show Mapped (having (board State.reset) id id).mem from m2) (by decide +kernel) (by decide) (by decide)

/-- A board with a command of the mailbox for panel 0 in host memory at 4 KiB: the words at 4, at 8 and at 64. -/
def mailing (a b c : Nat) : State :=
  let s := having (board State.reset) id id
  { s with mem := (((s.mem.writeN (memKey 4 0x1000) 4 0).writeN (memKey 4 0x1004) 4 a).writeN (memKey 4 0x1008) 8 b).writeN (memKey 4 0x1040) 8 c,
           meters := [(5, List.replicate 9 7)] }

/-- A panel of twin 1 whose host links are those of panel 0, or others. -/
def panel1 (links : Nat) : List (BitVec 64) := [BitVec.ofNat 64 (2 ^ 63 + 1 * 2 ^ 59 + 2 ^ 52 + links * 2 ^ 40 + 4 * 2 ^ 32 + 2 ^ 27), 2, 0, 0, 0, 0, 0x20000, 0x10000]

/-- Panel 0 with a spare, twin 5, in the place of its twin 0. -/
def spared : List (BitVec 64) := ((board State.reset).panel 0).set 4 0x8005

/-- Core 0 with a line whose first byte is dirty. -/
def dirtied (s : State) : State :=
  s.setCore 0 { s.core 0 with l1 := [{ line := lineOf (devKey 0 0x2000), data := 7, valid := 1, dirty := 1, bad := 0, who := [] }] }

/-- A window of a peer and of the host, link 3 up with a weight of the panel, and a contribution that travels on it. -/
def peers : State :=
  { board State.reset with
    panels := [(0, ((board State.reset).panel 0).set 3 (BitVec.ofNat 64 (2 ^ 15)))]
    windows := [(7, (0x1000, 0x2000))]
    hdm := [(0, (0x1000, 0x1000))]
    links := [(3, { up := true, seq := 4, lost := [] })]
    routes := [(1, 8)]
    latent := [(2, 5)]
    reds := [{ red5 with key := memKey 3 (2 ^ 44), team := some 1, link := some 3 }] }

theorem onLink_peers : ∀ d ∈ peers.reds, onLink 3 d = true := by decide +kernel

/-- The functions that an access within one line of device memory needs are ready, whichever of the panel's groups is the line's. -/
def opens (s : State) (key n : Nat) : Bool := match linesOf key n with
  | [l] => keyRegion (l * 128) == 2 && vaultReady s (homeTwin s (l * 128)) && (panelGroups (s.panel (keyAddr (l * 128) / 2 ^ 52)) ++ [0]).all (s.ready.lpg.getLsbD ·)
  | _ => false

theorem opens_ready {s : State} {key n : Nat} (h : opens s key n = true) : extReady s key n = true := by
  simp only [opens] at h
  split at h
  · next l hl =>
    simp only [Bool.and_eq_true, beq_iff_eq, List.all_eq_true] at h
    obtain ⟨⟨h2, hv⟩, hg⟩ := h
    simp only [extReady, hl, List.all_cons, List.all_nil, Bool.and_true, placeReady, h2, hv, Bool.true_and]
    refine hg _ ?_
    simp only [groupOf, List.mem_append]
    cases e : (panelGroups (s.panel (keyAddr (l * 128) / 2 ^ 52)))[Config.channelOf (lineOf (l * 128)) % (panelGroups (s.panel (keyAddr (l * 128) / 2 ^ 52))).length]? with
    | none => exact .inr (by simp)
    | some g => exact .inl (List.mem_of_getElem? e)
  · cases h

/-- An access that finds its functions ready goes where none of its source waits, and else waits with it. -/
theorem ext_goes {s : State} {i : Instr} {key n : Nat} (h : opens s key n = true) (w : s.waiting.any (sameSource i) = false) : extWaits s i key n = false := by
  simp [extWaits, opens_ready h, w]

theorem ext_waits {s : State} {i : Instr} {key n : Nat} (w : s.waiting.any (sameSource i) = true) : extWaits s i key n = true := by simp [extWaits, w]

def opened : State := { peers with ready := Ready.placed }
def heldOut : State := { opened with waiting := [.hostCxlMemAccess 1 (.read 0 4), .peerRequest 7 (.read 0 4)] }

theorem opens_opened : opens opened (devKey 0 (0x1FFC - 0x1000)) 4 = true ∧ ∀ p, p < 16 → opens opened (devKey p 0x1FFC) 4 = true := by decide +kernel

theorem witness_ManagementAndOutsideEvents :
    (panelBusy (having (board State.reset) id id) 1 = false ∧ panelBusy (having (board State.reset) id id) 0 = true ∧
      (let s := board State.reset
       let e := s.panel 0
       (0, e) ∈ s.panels ∧ bit (descWord e 0) 63 = true ∧ bit (descWord (panel1 1) 0) 63 = true ∧ fld (descWord e 0) 40 12 &&& fld (descWord (panel1 1) 0) 40 12 ≠ 0 ∧
         panelBusy s 1 = false ∧ panelOk s 1 (maskWords panelMasks (panel1 2)) = true ∧ newSpares s 1 (maskWords panelMasks (panel1 2)) = [] ∧
         panelBusy s 0 = false ∧ panelOk s 0 (maskWords panelMasks spared) = true ∧ newSpares s 0 (maskWords panelMasks spared) = [(0, 5)] ∧ s.mem.wf = true ∧
         ∀ e ∈ s.cores, e.2.l1 = [])) ∧
    (let s : State := { (having (launching 0x310 block1 []) (fun T => { T with eff := root1 }) id).setTile 3 tileOf1 with used := [(5, List.replicate 9 1)] }
     (s.teamBody 1).map (·.eff) = some root1 ∧ tabFind s.meters root1.meter = some (List.replicate 9 0) ∧ (List.replicate 9 0).length = 9 ∧
      tabFind s.used root1.meter = some (List.replicate 9 1) ∧ (s.tiles.map (·.1)).Nodup ∧ tilesHeldBy s 1 = [3] ∧ isExtent 3 = false ∧ (s.tile 3).passing = none ∧
      tabFind s.meters 6 = none ∧ (tabFind s.meters 5).isSome = true) ∧
    (let s := mailing 1 0 5
     s.mailbox.busy = false ∧ s.ready.mgmt = true ∧ s.ready.cxl = true ∧ 0x1000 % 4096 = 0 ∧ 0x1001 % 4096 ≠ 0 ∧ bit (descWord (s.panel (s.mem.readN (memKey 4 0x1000) 4)) 0) 63 = true ∧
      s.mem.readN (memKey 4 0x1004) 4 = 1 ∧ tabFind s.meters (s.mem.readN (memKey 4 0x1040) 8) = some (List.replicate 9 7) ∧
      bit (descWord ({ s with panels := [] }.panel 0) 0) 63 = false) ∧
    (∀ n ∈ [5, 6], let s : State := { mailing 0 0 0 with mailbox := { cmd := 4, buf := 0x1000, busy := true, result := 0, panel := 0, waits := [(0, 5)] }, reds := [{ red5 with id := n }] }
     s.mailbox.busy = true ∧ s.mailbox.cmd = 4 ∧ (stillUnder s s.mailbox.waits = [] ↔ n = 6) ∧ (tabFind (dirtied s).cores 0).isSome = true ∧ (panelCore s 0).1 = 0 ∧ linesSent s 0 = true) ∧
    (let s := dirtied (board State.reset)
     ∃ ln, findLine (s.core 0) (lineOf (devKey 0 0x2000)) = some ln ∧ ln.dirty = 1) ∧
    (({ mailing 1 0 5 with errors := [(3, 4)] } : State).errors[0]? = some (3, 4)) ∧
    (let host := fun (s : State) a n => s.mem.readN (memKey 4 a) n
     2 ≤ host (mailing 2 0 0) 0x1004 4 ∧ host (mailing 0 1 0) 0x1008 8 % 4096 ≠ 0 ∧ (host (mailing 1 0x1000 0) 0x1004 4 = 1 ∧ host (mailing 1 0x1000 0) 0x1008 8 ≠ 0) ∧
     (∀ p ∈ [(0, 0x2000), (1, 0)], let s := mailing p.1 p.2 0
       host s 0x1004 4 < 2 ∧ host s 0x1008 8 % 4096 = 0 ∧ (host s 0x1004 4 = 1 → host s 0x1008 8 = 0) ∧ host s 0x1010 16 = 0 ∧ panelUnder s 0 = []) ∧
     panelUnder { mailing 0 0x2000 0 with reds := [red5] } 0 ≠ []) ∧
    (peers.poison = [] ∧ peers.ready.cxl = true ∧ (∀ e ∈ peers.panels, bit (descWord e.2 0) 63 = true → fld (descWord e.2 0) 27 5 ≠ 2) ∧
      peers.panels.find? (fun e => bit (descWord e.2 0) 63 && fld (descWord e.2 0) 27 5 == 1) = some (0, peers.panel 0) ∧ tabFind peers.hdm 0 = some (0x1000, 0x1000) ∧
      0x1FFF + [(1 : Byte)].length ≤ 0x1000 + 0x1000 ∧ 0x1000 + 0x1000 < 0x2000 + [(1 : Byte)].length ∧ tabFind peers.latent 2 = some 5 ∧ tabFind peers.latent 3 = none ∧
      tabFind peers.windows 7 = some (0x1000, 0x2000) ∧ 0x1FFF + [(1 : Byte)].length ≤ 0x2000 ∧ 0x2000 < 0x2000 + [(1 : Byte)].length ∧ Ty.n32.bits = 8 * 4 ∧
      0x1FFC + 4 ≤ 0x2000) ∧
    (∀ q ∈ ([.read 0x1FFC 4, .write 0x1FFC [1, 2, 3, 4], .atomic .add .n32 0x1FFC 1 0] : List ExtReq),
      extAddr q = 0x1FFC ∧ extBytes q = 4 ∧
      extWaits opened (.hostCxlMemAccess 1 q) (devKey 0 (0x1FFC - 0x1000)) 4 = false ∧ extWaits heldOut (.hostCxlMemAccess 1 q) (devKey 0 (0x1FFC - 0x1000)) 4 = true ∧
      ∀ p, p < 16 → extWaits opened (.peerRequest 7 q) (devKey p 0x1FFC) 4 = false ∧ extWaits heldOut (.peerRequest 7 q) (devKey p 0x1FFC) 4 = true) ∧
    ((peers.link 3).up = true ∧ (peers.link 3).seq = 4 ∧ (peers.link 4).up = false ∧ (∃ d, peers.reds = [d] ∧ d.owner = some 1) ∧ doomed peers (some 1) = false ∧ ∀ d ∈ peers.reds, onLink 3 d = true) ∧
    (peers.ready.mgmt = true ∧ peers.ready.twins.getLsbD 95 = false ∧ State.reset.ready.mgmt = false) := by
  refine ⟨by decide +kernel, by decide +kernel, by decide +kernel, by decide +kernel, ⟨_, rfl, rfl⟩, by decide +kernel, by decide +kernel, by decide +kernel,
    fun q hq => ⟨by revert q; decide +kernel, by revert q; decide +kernel, ext_goes opens_opened.1 rfl, ext_waits rfl,
      fun p hp => ⟨ext_goes (opens_opened.2 p hp) rfl, ext_waits rfl⟩⟩,
    ⟨by decide +kernel, by decide +kernel, by decide +kernel, ⟨_, rfl, rfl⟩, by decide +kernel, onLink_peers⟩, by decide +kernel⟩

theorem witness_RegisterWritesKeepTheRest : 1016 + 8 ≤ 1024 ∧ (31 < 32) := by decide

theorem witness_MemoryHasOneForm : Memory.wf [] = true ∧ Memory.wf ([] : Memory) = true ∧ Memory.read [] 5 = 0 ∧ 0 < 1 := by decide +kernel

theorem witness_StepsKeepTheMemoryForm : (dev 0x208).mem.wf = true ∧ (match step (dev 0x208) with | .next _ => true | .fault _ | .refused _ => false) = true := by
  decide +kernel

/-- The state where a step takes the header of a trace, runs a word of it, or finds a word out of place or one that decodes to nothing. -/
def stepping (op : Nat) : State := placeWord State.reset (op * 2 ^ 53)

/-- A state whose core 0 has no trace in its cache. -/
def uncached (s : State) : State := s.setCore 0 { s.core 0 with traces := [] }

theorem witness_StepsRunTheDecodedWord :
    (∀ op ∈ [0x001, 0x003, 0x0BF], let s := stepping op
      s.agenda = [.issue 0 0] ∧ twinIssue { s with agenda := [] } 0 = some { gang := 0, b := false }) ∧
    (let r : SlotRef := { gang := 0, b := false }
     (∀ p ∈ [(0x003, true), (0x0BF, false)], let s := stepping p.1
       (s.slot r).run.any (fun R => let w := ((R.words[R.pos]?).getD 0).toNat
         decide (R.pos < R.hdr.len ∧ opIsHeader (opOf w) = false ∧ opIsTerm (opOf w) = false) && (decodeWord w ((R.words[R.pos + 1]?).getD 0).toNat).isSome == p.2) = true) ∧
     (let R := { runOf (at_ 0x003) with pos := 1, words := [0x0060000000000000#64, 0x0060000000000000#64] }
      let s := withRun (stepping 0x003) (fun _ => R)
      (s.slot r).run = some R ∧ ¬ (R.pos < R.hdr.len) ∧ opIsTerm (opOf ((R.words[R.pos]?).getD 0).toNat) = false) ∧
     ((stepping 0x001).slot r).run = none ∧
     (match (fetchTrace { stepping 0x001 with agenda := [], cur := r } r).2 with | .inr _ => true | .inl _ => false) = true ∧
     (match (fetchTrace { (uncached (stepping 0x001)) with agenda := [], cur := r, mem := [] } r).2 with | .inl _ => true | .inr _ => false) = true ∧
     (let held (s : State) : Option TraceE := cachedTrace s 0 (gangCtx s r).1 (s.slot r).entry
      let s := { stepping 0x001 with agenda := [], cur := r }
      held s = some (placeTrace (2 ^ 53) 0) ∧ (placeTrace (2 ^ 53) 0).ready ≤ s.now ∧ held (uncached s) = none ∧
        let t := s.setCore 0 { s.core 0 with traces := [{ placeTrace (2 ^ 53) 0 with ready := 9 }] }
        held t = some { placeTrace (2 ^ 53) 0 with ready := 9 } ∧ t.now < 9)) ∧
    (let s := at_ 0x003
     s.agenda = [] ∧ nextEvent s = none ∧ nextIssue s = some { gang := 0, b := false }) ∧
    (nextEvent (retiring 1)).isSome = true ∧
    (let s := withSlot (at_ 0x003) (fun X => { X with wait := .join })
     s.agenda = [] ∧ nextEvent s = none ∧ nextIssue s = none) := by
  decide +kernel

/-- A scheduler that has selected a word in this cycle, and headers that can be fetched and that cannot. -/
theorem witness_StepsRunTheDecodedWord_waits :
    (let s := stepping 0x003
     schedTaken ((s.setCore 0 { s.core 0 with withheld := [0] }).core 0) 0 = true ∧ schedTaken (s.core 0) 0 = false) ∧
    (let s := { stepping 0x001 with agenda := [], cur := { gang := 0, b := false } }
     let u := uncached s
     fetchUnready s s.cur = false ∧ fetchUnready u s.cur = false ∧ fetchUnready { u with ready := { s.ready with vlayers := 0, lpg := 0 } } s.cur = true) := by
  decide +kernel

theorem witness_WordsAreCheckedAtIssue :
    (∀ p ∈ [at_ 0x080, guarded (at_ 0x080)], let s : State := p
      let R := runOf s
      let G := s.gang 0
      let bad (w : WordInfo) : Bool := !(w.ok && (w.srcs ++ w.dsts).all (opndOk (stitchLimit s s.cur)))
      let low (w : WordInfo) : Bool := R.hdr.guarded && w.noGuard
      let plain := WordInfo.plain hd0 0 [] [o 16 .w8] true
      liveRun s s.cur = some R ∧ overBound G 1 = false ∧ R.lates = [] ∧ R.pends = [] ∧ isSvc s.cur.gang = false ∧ G.co = none ∧ G.rebuild = none ∧ (s.slot s.cur).hnd = none ∧
      ({ plain with group := 0xB } : WordInfo).allowed s s.cur = false ∧ ({ plain with svc := true } : WordInfo).allowed s s.cur = false ∧
      low { plain with noGuard := true } = R.hdr.guarded ∧
      (∀ os ∈ [o 1020 .w8, o 4 .w16], let w := { plain with dsts := [os] }
        w.allowed s s.cur = true ∧ low w = false ∧ bad w = true) ∧
      (let w := { plain with grd := true }
       w.allowed s s.cur = true ∧ low w = false ∧ bad w = false ∧ (R.hdr.guarded = false → w.within R = false)) ∧ sysMode s s.cur = false) ∧
    ({ WordInfo.plain hd0 0 [] [] true with grd := true } : WordInfo).within { runOf (guarded (at_ 0x080)) with nGrd := 7 } = false := by
  decide +kernel

/-- Results on their way before a trap, an overflow row that is not in the window, and a poisoned row read, with a team and without. -/
theorem witness_WordsAreCheckedAtIssue_waits :
    (let s := withRun (at_ 0x080) (fun R => { R with pends := [.pr 0 1 (.now 1)], back := 9 })
     (runOf s).hdr.guarded = false ∧ returned s (runOf s) = false) ∧
    missingRow (overflow []) 0 [o 64 .w8] = some 8 ∧
    (∀ s ∈ [at_ 0x080, at_ 0x387], let G := s.gang s.cur.gang
     let bad := { G with lanes := mapLanes 1 (fun _ L => { L with poison := BitVec.ofNat 128 (2 ^ 2) }) G.lanes }
     missingRow s s.cur.gang [o 16 .w8] = none ∧ readsPoison bad 1 [o 16 .w8] = true) ∧
    ((at_ 0x080).gang 0).team.isSome = true ∧ ((at_ 0x387).gang (at_ 0x387).cur.gang).team = none := by
  decide +kernel

theorem witness_DecodingEncodedWordsGivesThemBack : let i := Instr.addi ⟨hd0, ⟨16, .w8⟩, ⟨0, .w8⟩, 1, .n32, false⟩
    i.wf = true ∧ encode i = some [0x1000021400A002B0] := by decide +kernel

theorem witness_StitchesHoldTheValue : 7 < WCode.w8.stitches ∧ 7 < 8 := by decide

/-! ## Words of the spec's tables of encodings -/

/-- 07 (the words of its example), 08 (the words of `shfldemo`), 09 (the words of `qdemo`), and words of 10 to 13 and 18. -/
theorem test_decode_words : ∀ p ∈ ([
    (0x0020020000000000, .trace { hdr0 with len := 2 }),
    (0x0020430000090100, .trace { hdr0 with guarded := true, len := 3, ord := 1, grdn := 1, wset := 2 }),
    (0x0BA0001400000001, .mov ⟨hd0, o 0 .w8, .special 0, .none, false⟩),
    (0x1100011400005800, .movi ⟨hd0, o 8 .w8, 1, .i32, false⟩),
    (0x1120001400001600, .movhi ⟨hd0, o 0 .w8, 0, .n32, false⟩),
    (0x18E0021400A04502, .shfl ⟨hd0, .down, o 16 .w8, o 0 .w8, o 8 .w8⟩),
    (0xB140020008A0A130, .qblk ⟨{ hd0 with sw := true }, o 16 .w1, o 20 .w2, o 8 .w8, .none, true, true⟩),
    (0x316003141000A120, .dqblk ⟨hd0, o 24 .w8, o 16 .w1, o 20 .w2, true⟩),
    (0x5400031400A08056, .atoms ⟨hd0, .add, o 24 .w8, o 0 .w8, 1, 1, .n32⟩),
    (0x4800021400A08016, .lds ⟨hd0, o 16 .w8, o 0 .w8, 1, 0, .n32, false⟩),
    (0x6840080000000000, .release ⟨hd0, 4⟩),
    (0x68600C3800000000, .coreg ⟨hd0, 6, 7⟩),
    (0x6880082800021400, .tileq ⟨hd0, o 16 .w8, 5, 4⟩)] : List (Nat × Instr)), decodeTableWord 64 p.1 = some p.2 := by
  decide +kernel

theorem test_decode_more_words : ∀ p ∈ ([
    (0xE900000000000000, .codone ⟨true⟩),
    (0xE940000000000000, .corefuse ⟨true⟩),
    (0xD8C0000140021400, .msync ⟨{ hd0 with sw := true }, o 16 .w8, 10, false⟩),
    (0x58A0186940000030, .accq ⟨hd0, 12, 13, 10, true, true⟩),
    (0x6000883100800000, .cpy ⟨{ hd0 with pg := 1 }, 4, 6, 8, .team 1⟩),
    (0x60A0060000000000, .bwait ⟨hd0, 3⟩),
    (0x61C0186800000000, .waitm ⟨hd0, 12, 13⟩),
    (0x8240000000020000, .barw ⟨true, .team 2⟩),
    (0x6120120000800000, .barexp ⟨hd0, 1, 9⟩),
    (0x70E0001800100000, .sample ⟨hd0, o 0 .w16, 16⟩),
    (0x7160000000000000, .idle ⟨hd0⟩),
    (0x81A0000000008A00, .callt ⟨true, 0, o 8 .w8⟩)] : List (Nat × Instr)), decodeTableWord 64 p.1 = some p.2 := by
  decide +kernel

/-! ## Ill-formed instructions, one for each check -/

theorem test_ill_formed_fields : ∀ i ∈ ([
    .trace { hdr0 with len := 64 }, .trace { hdr0 with ord := 2 ^ 20 }, .trace { hdr0 with grdn := 8 }, .trace { hdr0 with bufn := 9 }, .trace { hdr0 with wset := 17 },
    .grd ⟨{ hd0 with sw := true }, ⟨false, 2⟩, 0⟩, .grd ⟨hd0, ⟨false, 32⟩, 0⟩, .grd ⟨hd0, ⟨false, 2⟩, 2 ^ 24⟩, .nop ⟨{ hd0 with pg := 32 }⟩, .nop ⟨{ hd0 with neg := true }⟩,
    .jmp ⟨true, 2 ^ 24⟩, .jsel ⟨true, ⟨false, 1⟩, 0, 0, 2 ^ 24⟩, .jtab ⟨true, 2 ^ 25, o 0 .w8⟩, .call ⟨true, 0, o 1024 .w16⟩, .ret ⟨true, o 1024 .w16⟩, .loop ⟨true, 64, 0⟩,
    .yield ⟨true, 0, .batch 64⟩, .yield ⟨true, 0, .barrier .none false⟩, .barw ⟨true, .none⟩, .barw ⟨true, .cluster 8⟩, .barw ⟨true, .grid 4⟩, .barw ⟨true, .team 16⟩,
    .add ⟨hd0, o 1024 .w8, o 0 .w8, o 8 .w8, .n32, false⟩, .add ⟨hd0, o 0 .w8, o 0 .w8, o 8 .w8, .f32, false⟩, .neg ⟨hd0, o 0 .w8, o 0 .w8, .none, false⟩,
    .addc ⟨hd0, o 0 .w8, o 0 .w8, o 8 .w8, .n32, 4⟩, .mov ⟨hd0, o 0 .w8, .special 15, .none, false⟩, .mov ⟨hd0, o 0 .w8, .special 0, .none, true⟩,
    .cmp ⟨hd0, 32, o 0 .w8, o 8 .w8, .n32, .eq⟩, .addi ⟨hd0, o 0 .w8, o 0 .w8, 2048, .n32, false⟩, .shli ⟨hd0, o 0 .w8, o 0 .w8, 64, .n32, false⟩,
    .shli ⟨hd0, o 0 .w8, o 0 .w8, -1, .n32, false⟩, .cmpi ⟨hd0, 1, o 0 .w8, -2049, .n32, .eq⟩, .movi ⟨hd0, o 0 .w8, 2 ^ 20, .n32, false⟩,
    .movhi ⟨hd0, o 0 .w8, 0, .n64, false⟩] : List Instr), i.wf = false := by
  decide +kernel

theorem test_ill_formed_values : ∀ i ∈ ([
    .movs ⟨hd0, o 0 .w8, 15, false⟩, .vote ⟨hd0, .all 32, ⟨false, 0⟩⟩, .kadd ⟨false, 64, 0, .reg 0, .n64, false⟩, .kadd ⟨false, 0, 0, .imm (2 ^ 20), .n64, false⟩,
    .kmovi ⟨false, 0, 2 ^ 21, .n64, false⟩, .kmovhi ⟨false, 0, 2 ^ 20, .n32, false⟩, .kcmp ⟨hd0, 1, 0, .imm (2 ^ 19), .n64, .eq⟩,
    .fadd ⟨hd0, o 0 .w8, o 0 .w8, o 8 .w8, .e4m3, .rne, false⟩, .fadd ⟨hd0, o 0 .w8, o 0 .w8, o 8 .w8, .f16, .rne, true⟩,
    .fdiv ⟨hd0, o 0 .w8, o 0 .w8, o 8 .w8, .bf16, .rne, false⟩, .fadd2 ⟨hd0, o 0 .w8, o 0 .w8, o 8 .w8, .f32, .rne⟩, .fdot4 ⟨hd0, o 0 .w8, o 0 .w8, o 8 .w8, .f16, .rne⟩,
    .cvt ⟨hd0, o 0 .w8, o 0 .w8, .e8m0, .f64, .rne, false⟩, .cvti ⟨hd0, o 0 .w8, o 0 .w8, .n32, .n32, .rne, false⟩,
    .qblk ⟨hd0, o 16 .w1, o 20 .w2, o 8 .w8, .h32, true, true⟩, .ld { ld15 with imm := 256 }, .ld { ld15 with q := 64 }, .ld { ld15 with ty := .none }, .ldx { ld15 with ty := .n12 },
    .atoms ⟨hd0, .inc, o 24 .w8, o 0 .w8, 1, 1, .i32⟩, .reds ⟨hd0, .cas, o 8 .w8, o 0 .w8, 1, 0, .n32⟩, .fence ⟨hd0, .d, .none⟩,
    .charge ⟨hd0, 12, 2, 10, .grid 1, true, true⟩, .charge ⟨hd0, 12, 2, 10, .none, false, true⟩, .mma ⟨hd0, 64, 2, 10, .none, false⟩, .msync ⟨hd0, o 16 .w8, 64, false⟩,
    .cpy ⟨hd0, 4, 6, 8, .grid 0⟩, .bararv ⟨hd0, 16⟩, .cbar ⟨hd0, 8⟩, .gbar ⟨hd0, 4⟩, .bartst ⟨hd0, 1, .none, false⟩, .waitm ⟨hd0, 64, 0⟩, .trapi ⟨hd0, 256⟩,
    .ctlw ⟨hd0, .timer, 1⟩, .meterr ⟨hd0, o 0 .w16, 1, 9⟩, .sample ⟨hd0, o 0 .w16, 64⟩] : List Instr), i.wf = false := by
  decide +kernel

/-! ## Single steps with the spec's results -/

/-- The state after an instruction. -/
def after (i : Instr) (s : State) : State := match exec i s with
  | .next t => t
  | .fault _ | .refused _ => State.reset

/-- The results on their way at the cursor land. -/
def landing (s : State) : State := land s s.cur (runOf s)

/-- An operand in a lane of gang 0, with the lane's flags. -/
def seen (s : State) (l : Nat) (a : Opnd) : Nat × Nat := ((((s.gang 0).lane l).rd a), (((s.gang 0).lane l).fpsr.toNat))

/-- A word of V code whose lanes hold 32-bit values at s0 and s8. -/
def pair (a b : Nat) : State := withLanes (at_ 0x040) (fun _ L => (L.wr 0 8 a).wr 8 8 b)

/-- 03, after R59: 0x4080_0000 at s0:8 reads as 0x80 at s4:2. -/
theorem test_stitches : let L := Lane.reset.wr 0 8 0x40800000
    L.rdAt 4 2 = 0x80 ∧ L.stitch 5 = 8 ∧ L.stitch 7 = 4 ∧ L.stitch 6 = 0 := by decide +kernel

/-- 08, after R171: 30,000 + 100 at .i16 into 8 bits. -/
theorem test_add_narrows : let s := withLanes (at_ 0x040) (fun _ L => (L.wr 0 4 30000).wr 4 2 100)
    (seen (after (.add ⟨hd0, o 8 .w2, o 0 .w4, o 4 .w2, .i16, true⟩) s) 0 (o 8 .w2)).1 = 127 ∧
    (seen (after (.add ⟨hd0, o 8 .w2, o 0 .w4, o 4 .w2, .i16, false⟩) s) 0 (o 8 .w2)).1 = 0x94 := by decide +kernel

/-- 03 (the run of its example): MOVHI, the sum of the old value, the read that spans two rows, and the landing of FRCP over a later MOVI. -/
theorem test_movhi_and_add : (seen (after (.movhi ⟨hd0, o 0 .w8, 0x40800, .n32, false⟩) (at_ 0x040)) 0 (o 0 .w8)).1 = 0x40800000 ∧
    (seen (after (.add ⟨hd0, o 16 .w8, o 8 .w8, o 8 .w8, .n32, false⟩) (pair 0x40800000 0x5678)) 31 (o 16 .w8)).1 = 0xACF0 := by decide +kernel

theorem test_frcp_lands : let s := after (.frcp ⟨hd0, o 8 .w8, o 0 .w8, .f32, .rne, false⟩) (pair 0x40800000 0x5678)
    (seen s 3 (o 8 .w8)).1 = 0x5678 ∧ (seen (landing s) 3 (o 8 .w8)).1 = 0x3E800000 := by decide +kernel

/-- 05 (examples of conversion). -/
theorem test_conversions : (∀ p ∈ [(0xC0200000, 0xFFFFFFFE, 16), (0x4F32D05E, 0x7FFFFFFF, 1)],
      seen (landing (after (.cvt ⟨hd0, o 16 .w8, o 0 .w8, .i32, .f32, .rne, false⟩) (lane0 (pair p.1 0)))) 0 (o 16 .w8) = (p.2.1, p.2.2)) ∧
    (∀ p ∈ [(0x43960000, Rm.rne, false, 0x79, 16), (0x43E60000, .rne, false, 0x7E, 16), (0x43FA0000, .rne, false, 0x7F, 20), (0x43FA0000, .rne, true, 0x7E, 20),
        (0x43FA0000, .rtz, false, 0x7E, 20)],
      seen (landing (after (.cvt ⟨hd0, o 16 .w2, o 0 .w8, .e4m3, .f32, p.2.1, p.2.2.1⟩) (lane0 (pair p.1 0)))) 0 (o 16 .w2) = (p.2.2.2.1, p.2.2.2.2)) := by decide +kernel

/-- 05 (examples of conversion): e8m0 ties to the even byte. -/
theorem test_conversions_to_scales : ∀ p ∈ [(0x40C00000, 0x82), (0x40A00000, 0x81)],
    seen (landing (after (.cvt ⟨hd0, o 16 .w2, o 0 .w8, .e8m0, .f32, .rne, false⟩) (lane0 (pair p.1 0)))) 0 (o 16 .w2) = (p.2, 16) := by decide +kernel

/-- 10 (the run of its reduction): 2^24 + 1 is a tie rounded to even, inexact. -/
theorem test_fadd_tie : seen (landing (after (.fadd ⟨hd0, o 16 .w8, o 0 .w8, o 8 .w8, .f32, .rne, false⟩) (lane0 (pair 0x4B800000 0x3F800000)))) 0 (o 16 .w8) =
    (0x4B800000, 16) := by decide +kernel

/-- 08 (the run of `shfldemo`): lane 3's source stands in the other slot. -/
theorem test_shfl_down : let s := withSlot (withLanes (at_ 0x0C7) (fun l L => (L.wr 0 8 l).wr 8 8 1)) (fun X => { X with mask := 0xF })
    (List.range 4).map (fun l => (seen (landing (after (.shfl ⟨hd0, .down, o 16 .w8, o 0 .w8, o 8 .w8⟩) s)) l (o 16 .w8)).1) = [1, 2, 3, 3] := by decide +kernel

/-- 09 (the run of `qdemo`): lanes 7 and 20 of its blocks of sixteen, with the largest value of each. -/
theorem test_qblk : let s := landing (after (.qblk ⟨hd0, o 16 .w1, o 20 .w2, o 8 .w8, .none, true, true⟩)
      (withLanes (at_ 0x040) (fun l L => L.wr 8 8 (match l with | 7 => 0x40E00000 | 15 => 0x41700000 | 20 => 0x41A00000 | 31 => 0x41F80000 | _ => 0))))
    seen s 7 (o 16 .w1) = (4, 16) ∧ (seen s 20 (o 16 .w1)).1 = 5 ∧ (seen s 20 (o 20 .w2)).1 = 0x81 := by
  decide +kernel

/-- 09 (the run of `qdemo`). -/
theorem test_dqblk : let s := landing (after (.dqblk ⟨hd0, o 24 .w8, o 16 .w1, o 20 .w2, true⟩)
      (withLanes (at_ 0x040) (fun l L => (L.wr 16 1 7).wr 20 2 (if l < 16 then 0x80 else 0x81))))
    seen s 15 (o 24 .w8) = (0x41600000, 0) ∧ seen s 31 (o 24 .w8) = (0x41E00000, 0) := by decide +kernel

/-- 05 R122 (its example): the accumulator 1.0 takes the tree result of 2^24 + 2, a tie to the even pattern. -/
theorem test_tree_sum : let f (v : Nat) : FRes := { v, fl := 0 }
    treeSum 4 ([f 0x4B800000, f 0, f 0x3F800000, f 0x3F800000] ++ List.replicate 12 (f 0)) = f 0x4B800001 ∧
    addF (f 0x3F800000) (f 0x4B800001) = { v := 0x4B800002, fl := 16 } := by decide +kernel

/-- 08 R169: LOOP with zero leaves 2^64 - 1 and branches back. -/
theorem test_loop_wraps : let s := after (.loop ⟨true, 5, -3⟩) (withRun (withK (at_ 0x00F) 5 0) (fun R => { R with hdr := { R.hdr with len := 0 } }))
    kreg s s.cur 5 = 2 ^ 64 - 1 := by decide +kernel

end Tests
end Sys2Proof
end

/-! Stitches, rows and operands of a lane as fields of its register file's number (03 R59). -/

namespace Sys2Proof

/-- A field inside a field is a field of the whole. -/
theorem fld_fld {lo' m' m : Nat} (w lo : Nat) (h : lo' + m' ≤ m) : fld (fld w lo m) lo' m' = fld w (lo + lo') m' := by
  obtain ⟨k, rfl⟩ := Nat.exists_eq_add_of_le h
  unfold fld
  rw [Nat.add_assoc, Nat.pow_add 2 lo', Nat.mod_mul_right_div_self,
    Nat.mod_mod_of_dvd _ (Nat.pow_dvd_pow 2 (Nat.le_add_right m' k)), Nat.div_div_eq_div_mul, ← Nat.pow_add]

/-- A field is its lower part with its upper part above it. -/
theorem fld_add (w lo m n : Nat) : fld w lo (m + n) = fld w lo m + 2 ^ m * fld w (lo + m) n := by
  unfold fld
  rw [Nat.pow_add 2 m, Nat.mod_mul, Nat.div_div_eq_div_mul, ← Nat.pow_add]

/-- Extracting bits is reading a field of the number. -/
theorem toNat_extractLsb'_eq_fld {w : Nat} (x : BitVec w) (lo n : Nat) : (x.extractLsb' lo n).toNat = fld x.toNat lo n := by
  rw [BitVec.extractLsb'_toNat, Nat.shiftRight_eq_div_pow, fld]

namespace Machine

theorem Lane.stitch_eq_fld (L : Lane) (n : Nat) : L.stitch n = fld L.st.toNat (4 * n) 4 :=
  toNat_extractLsb'_eq_fld ..

theorem Lane.rdAt_eq_fld (L : Lane) (a n : Nat) : L.rdAt a n = fld L.st.toNat (4 * a) (4 * n) :=
  toNat_extractLsb'_eq_fld ..

theorem Lane.toNat_row_eq_fld (L : Lane) (n : Nat) : (L.row n).toNat = fld L.st.toNat (32 * n) 32 :=
  toNat_extractLsb'_eq_fld ..

theorem Lane.rd_eq_rdAt (L : Lane) (o : Opnd) : L.rd o = L.rdAt o.start o.w.stitches := rfl

/-- Stitch `i` of `n` stitches from `a` is stitch `a + i` of the lane. -/
theorem Lane.fld_rdAt (L : Lane) (a : Nat) {i n : Nat} (hi : i < n) : fld (L.rdAt a n) (4 * i) 4 = L.stitch (a + i) := by
  rw [L.rdAt_eq_fld, fld_fld _ _ (show 4 * i + 4 ≤ 4 * n by omega), ← Nat.mul_add, L.stitch_eq_fld]

/-- Stitch `j` of row `n` is stitch `8n + j` of the lane. -/
theorem Lane.fld_row (L : Lane) (n : Nat) {j : Nat} (hj : j < 8) : fld (L.row n).toNat (4 * j) 4 = L.stitch (8 * n + j) := by
  rw [L.toNat_row_eq_fld, fld_fld _ _ (show 4 * j + 4 ≤ 32 by omega), L.stitch_eq_fld, show 32 * n + 4 * j = 4 * (8 * n + j) by omega]

theorem Lane.rdAt_zero (L : Lane) (a : Nat) : L.rdAt a 0 = 0 := by
  simp [L.rdAt_eq_fld, fld, Nat.mod_one]

/-- Stitches from `a` on are stitch `a` with the ones after it above it. -/
theorem Lane.rdAt_succ (L : Lane) (a n : Nat) : L.rdAt a (n + 1) = L.stitch a + 16 * L.rdAt (a + 1) n := by
  rw [L.rdAt_eq_fld, show 4 * (n + 1) = 4 + 4 * n by omega, fld_add, L.stitch_eq_fld, L.rdAt_eq_fld, Nat.mul_succ,
    show 16 = 2 ^ 4 from rfl]

/-- A value is the concatenation of its stitches, the lowest-numbered on the right. -/
theorem Lane.rdAt_eq_foldr_stitch (L : Lane) (a n : Nat) :
    L.rdAt a n = (List.range n).foldr (fun i v => L.stitch (a + i) + 16 * v) 0 := by
  induction n generalizing a with
  | zero => exact L.rdAt_zero a
  | succ n ih =>
    rw [L.rdAt_succ, ih (a + 1), List.range_succ_eq_map, List.foldr_cons, List.foldr_map]
    simp only [Nat.add_zero, Nat.succ_eq_add_one, Nat.add_assoc, Nat.add_comm 1]

/-- Settles O51: an operand, a row and a stitch are fields of one number, a stitch's field lies within the others', and an operand's field splits
into its stitches one by one. -/
theorem stitchesHoldTheValue : Obligations.StitchesHoldTheValue := by
  intro L
  refine ⟨fun o i hi => ?_, fun n j hj => L.fld_row n hj, fun o => ?_⟩
  · rw [L.rd_eq_rdAt, L.fld_rdAt _ hi]
  · rw [L.rd_eq_rdAt, L.rdAt_eq_foldr_stitch]

end Machine
end Sys2Proof

/-! LOOP issues and decrements, and a trace that ends in a jump resolves to one group (08 R169, 04 R88). -/

namespace Sys2Proof
namespace Machine

/-! ## Uniform registers after an update (03 R73) -/

@[simp] theorem kreg_setSlot (s : State) (r : SlotRef) (X : Slot) (k : Nat) : kreg (s.setSlot r X) r k = kreg s r k := by
  simp [kreg]

@[simp] theorem kreg_issued (s : State) (r r' : SlotRef) (words cyc : Nat) (p : Nat × Nat) (k : Nat) :
    kreg (issued s r words cyc p) r' k = kreg s r' k :=
  kreg_of_still ((aside_issued s r words cyc p).gangs r'.gang) k

@[simp] theorem slot_uniEff_run (s : State) (r : SlotRef) (R : Run) (k v : Nat) :
    ((uniEff s r R k v).slot r).run = some { R with pends := cancelUni R.pends k } := by
  rw [uniEff_eq, passed_slot]

/-- Writing a uniform register leaves every other one. -/
theorem kreg_uniEff (s : State) (r : SlotRef) (R : Run) (k v : Nat) {i : Nat} (hi : i < 64) :
    kreg (uniEff s r R k v) r i = if i = k then v % 2 ^ 64 else kreg s r i := by
  rw [uniEff_eq, kreg, passed_gang]
  simp only [Vector.toList_ofFn, List.getElem?_ofFn, hi, dite_true, Option.getD_some]
  split
  · exact BitVec.toNat_ofNat v 64
  · simp [kreg, hi]

/-- Restoring lanes is about lanes only: it leaves what the gang wrote once for all of them. -/
@[simp] theorem kreg_restoreLanes (s : State) (r : SlotRef) (R : Run) (m : Mask) (k : Nat) :
    kreg (restoreLanes s r R m) r k = kreg s r k := by
  unfold restoreLanes kreg
  rw [State.gang_setGang_same]
  dsimp only
  split <;> rfl

/-- One less modulo 2^64, where zero wraps to 2^64 - 1. -/
theorem pat_sub_one (n : Nat) : pat ((n : Int) - 1) 64 = (n + (2 ^ 64 - 1)) % 2 ^ 64 := by
  unfold pat
  omega

/-! ## The issue of a terminator (04 R88) -/

/-- The state in which a terminator has its effect at issue: the overflow rows that it names are the most recently used of the window (03 R70). -/
def enterTerm (w : TermInfo) (s : State) : State :=
  if (s.gang s.cur.gang).window.isEmpty then s else s.setGang s.cur.gang (touchWindow (s.gang s.cur.gang) w.srcs w.dsts)

@[simp] theorem kreg_enterTerm (w : TermInfo) (s : State) (k : Nat) : kreg (enterTerm w s) s.cur k = kreg s s.cur k := by
  unfold enterTerm
  split
  · rfl
  · simp [kreg, touchWindow]

@[simp] theorem slot_enterTerm (w : TermInfo) (s : State) : (enterTerm w s).slot s.cur = s.slot s.cur := by
  unfold enterTerm
  split
  · rfl
  · rw [State.slot_setGang_same]
    exact Gang.slot_with ..

/-- A slot that may issue its next word runs the trace of that word. -/
theorem run_of_liveRun {s : State} {r : SlotRef} {R : Run} (h : liveRun s r = some R) : (s.slot r).run = some R := by
  have hw := liveRun_wait h
  unfold liveRun at h
  simp only [hw] at h
  split at h
  · exact absurd h (by simp)
  · exact h

@[simp] theorem run_issued (s : State) (r : SlotRef) (words cyc : Nat) (p : Nat × Nat) :
    ((issued s r words cyc p).slot r).run = (s.slot r).run := by
  obtain ⟨-, hrun, -⟩ := Slot.view_of_still (Gang.slot_of_still r.b ((aside_issued s r words cyc p).gangs r.gang))
  exact hrun

/-- A terminator that passes the checks has its effect at issue, and its slot waits to resolve with it. -/
theorem termWord_resolving {w : TermInfo} {s : State} {R R' : Run} (h : TermIssues w s R) {eff : State → SlotRef → Term × State}
    {x : Term} {u : State} (he : eff (enterTerm w s) s.cur = (x, u)) (hr : (u.slot s.cur).run = some R') :
    termWord w eff s = .next (issued (u.setSlot s.cur
      { u.slot s.cur with run := some { R' with term := some (x, R'.pos + 1) }, wait := .resolving })
      s.cur 1 (1 + extraReads w.srcs) (R'.pos + w.words, R'.hdr.ord)) := by
  obtain ⟨hrun, hbound, hallowed, hwatch, hguard, hoperands, hcounts, hwindow, hwhole⟩ := h
  have hhalf : ¬ (w.words = 2 ∧ R.half = false) := fun hw => by simp [hwhole hw.1] at hw
  unfold enterTerm at he
  unfold termWord
  simp only [hrun, hbound, hallowed, hwatch, hguard, hoperands, hcounts, hwindow, hhalf, he, hr, Bool.false_eq_true, Bool.not_true, if_false]

/-! ## LOOP (08 R169) -/

/-- What LOOP does at issue: the counter is written once for the gang, and its new value chooses the target. -/
def loopAtIssue (x : LoopOp) (s : State) (r : SlotRef) : Term × State :=
  let k := pat ((kreg s r x.k : Int) - 1) 64
  let s := match (s.slot r).run with
    | some R => uniEff s r R x.k k
    | none => s
  (if k = 0 then .next else .jmp x.off, s)

theorem exec_loop (x : LoopOp) (s : State) :
    exec (.loop x) s = termWord { TermInfo.plain with withWatch := true } (loopAtIssue x) s := rfl

theorem loopAtIssue_of_run (x : LoopOp) {s : State} {r : SlotRef} {R : Run} (h : (s.slot r).run = some R) :
    loopAtIssue x s r =
      (if (kreg s r x.k + (2 ^ 64 - 1)) % 2 ^ 64 = 0 then .next else .jmp x.off,
        uniEff s r R x.k ((kreg s r x.k + (2 ^ 64 - 1)) % 2 ^ 64)) := by
  simp only [loopAtIssue, h, pat_sub_one]

/-- LOOP's decrement and choice as the gang's uniform registers and the trace hold them after its issue. -/
theorem loop_counts_down {x : LoopOp} {s : State} {R : Run} (h : TermIssues { TermInfo.plain with withWatch := true } s R) :
    let k := (kreg s s.cur x.k + (2 ^ 64 - 1)) % 2 ^ 64
    ∃ t R', exec (.loop x) s = .next t ∧ (∀ i, i < 64 → kreg t s.cur i = if i = x.k then k else kreg s s.cur i) ∧
      (t.slot s.cur).run = some R' ∧ R'.term = some (if k = 0 then .next else .jmp x.off, R.pos + 1) := by
  intro k
  have he := loopAtIssue_of_run x ((congrArg Slot.run (slot_enterTerm { TermInfo.plain with withWatch := true } s)).trans (run_of_liveRun h.runs))
  rw [kreg_enterTerm] at he
  refine ⟨_, _, (exec_loop x s).trans (termWord_resolving h he (slot_uniEff_run ..)), fun i hi => ?_,
    (run_issued ..).trans (congrArg Slot.run (State.slot_setSlot_same ..)), rfl⟩
  rw [kreg_issued, kreg_setSlot, kreg_uniEff _ _ _ _ _ hi, kreg_enterTerm, Nat.mod_mod]

/-! ## Slots with no divergence stack (04 R92, R93) -/

theorem popPath_nil (n : Nat) : popPath n [] = none := by cases n <;> rfl

theorem fillSlot_of_stack_nil {G : Gang} (h : G.stack = []) (now : Nat) (b : Bool) : fillSlot now G b = none := by
  have hp : nextPath G b = none := by
    unfold nextPath
    split <;> simp [h, popPath_nil]
  simp [fillSlot, hp]

theorem atJoin_of_stack_nil {G : Gang} (h : G.stack = []) (b : Bool) : atJoin G b = false := by
  unfold atJoin
  dsimp only
  cases (G.slot b).tok with
  | none => exact Bool.and_false _
  | some id => cases (G.slot b).hnd <;> simp [handlerTop, h, findTok]

theorem freesNow_of_stack_nil {G : Gang} (h : G.stack = []) (b : Bool) : freesNow G b = false := by
  unfold freesNow
  dsimp only
  split <;> simp [h, findTok]

theorem settleLoop_of_stack_nil {G : Gang} (h : G.stack = []) (now n : Nat) : settleLoop now n G = G := by
  cases n with
  | zero => rfl
  | succ n =>
    simp [settleLoop, settleStep, fillSlot_of_stack_nil h, atJoin_of_stack_nil h, freesNow_of_stack_nil h]

theorem atEnd_of_mask_ne_zero {G : Gang} {b : Bool} (h : (G.slot b).mask ≠ 0) : G.atEnd = false := by
  cases b <;> simp_all [Gang.slot, Gang.atEnd]

/-- With no token to join and no path to take, settling changes no slot: a gang that still has lanes does not end either. -/
theorem slot_settle_of_stack_nil {s : State} {r : SlotRef} (h : (s.gang r.gang).stack = []) (hm : (s.slot r).mask ≠ 0) :
    (settle s r.gang).slot r = s.slot r := by
  unfold settle
  dsimp only
  rw [settleLoop_of_stack_nil h, atEnd_of_mask_ne_zero hm]
  exact State.slot_setGang_same ..

/-! ## The resolution of a trace that goes on at one address (04 R88) -/

theorem Run.faulted_eq_zero {R : Run} (h : R.faults = []) : R.faulted = 0 := by
  simp only [Run.faulted, h, tabFind, Option.isSome_none]
  decide

theorem landOne_eq (R : Run) (G : Gang) (p : Pend) : ∃ lanes k, landOne R G p = { G with lanes, k } := by
  unfold landOne
  split
  · split <;> exact ⟨_, _, rfl⟩
  · split <;> exact ⟨_, _, rfl⟩
  · exact ⟨_, _, rfl⟩
  · split <;> exact ⟨_, _, rfl⟩

theorem foldl_landOne_eq (R : Run) (ps : List Pend) (G : Gang) : ∃ lanes k, ps.foldl (landOne R) G = { G with lanes, k } := by
  induction ps generalizing G with
  | nil => exact ⟨G.lanes, G.k, rfl⟩
  | cons p ps ih =>
    obtain ⟨lanes, k, hp⟩ := landOne_eq R G p
    rw [List.foldl_cons, hp]
    exact ih _

/-- A landing changes, of a gang, lanes, uniform registers and the marks of its window. -/
theorem land_passed (s : State) (r : SlotRef) (R : Run) :
    ∃ lanes k win, land s r R = passed s r lanes k win { R with pends := [], lates := [] } := by
  obtain ⟨lanes, k, hG⟩ := foldl_landOne_eq R R.pends (s.gang r.gang)
  unfold land
  simp only [hG]
  split
  · exact ⟨lanes, k, (s.gang r.gang).window, rfl⟩
  · exact ⟨lanes, k, _, rfl⟩

@[simp] theorem stack_land (s : State) (r : SlotRef) (R : Run) : ((land s r R).gang r.gang).stack = (s.gang r.gang).stack := by
  obtain ⟨lanes, k, win, h⟩ := land_passed s r R
  simp [h, passed_gang]

@[simp] theorem rebuild_land (s : State) (r : SlotRef) (R : Run) : ((land s r R).gang r.gang).rebuild = (s.gang r.gang).rebuild := by
  obtain ⟨lanes, k, win, h⟩ := land_passed s r R
  simp [h, passed_gang]

@[simp] theorem stack_restoreLanes (s : State) (r : SlotRef) (R : Run) (m : Mask) :
    ((restoreLanes s r R m).gang r.gang).stack = (s.gang r.gang).stack := by
  unfold restoreLanes
  rw [State.gang_setGang_same]
  dsimp only
  split <;> rfl

@[simp] theorem stack_drainHold (s : State) (r : SlotRef) (n : Nat) : ((drainHold s r n).gang r.gang).stack = (s.gang r.gang).stack := by
  simp [drainHold]

@[simp] theorem live_cons_zero (a : Nat) (w : Wait) (gs : List (Nat × Mask × Wait)) : live ((a, 0#64, w) :: gs) = live gs := rfl

theorem live_single {m : Mask} (hm : m ≠ 0) (a : Nat) (w : Wait) : live [(a, m, w)] = [(a, m, w)] := by
  simpa [live] using hm

@[simp] theorem readsPoison_nil (G : Gang) (m : Mask) : readsPoison G m [] = false := by
  simp [readsPoison]

/-- A lone group takes the slot with the slot's token, and pushes nothing. -/
theorem placeGroups_single (now : Nat) (G : Gang) (b : Bool) (a : Nat) (m : Mask) (w : Wait) (j : Option Nat) :
    placeGroups now G b [(a, m, w)] j 0 = G.setSlot b ((G.slot b).take a m (G.slot b).tok w) := rfl

theorem slot_settle_placeGroups_single {s : State} {r : SlotRef} (h : (s.gang r.gang).stack = []) {m : Mask} (hm : m ≠ 0) (a : Nat) (w : Wait)
    (j : Option Nat) :
    (settle (s.setGang r.gang (placeGroups s.now (s.gang r.gang) r.b [(a, m, w)] j 0)) r.gang).slot r =
      (s.slot r).take a m (s.slot r).tok w := by
  have hslot : (s.setGang r.gang ((s.gang r.gang).setSlot r.b ((s.slot r).take a m (s.slot r).tok w))).slot r =
      (s.slot r).take a m (s.slot r).tok w := State.slot_setSlot_same ..
  rw [placeGroups_single]
  refine (slot_settle_of_stack_nil ?_ ?_).trans hslot
  · rw [State.gang_setGang_same, Gang.setSlot_stack, h]
  · exact fun hzero => hm ((congrArg Slot.mask hslot).symm.trans hzero)

theorem resolveReady_of_jump {s : State} {r : SlotRef} {R : Run} {x : Term} {off : Nat} (hs : R.store = []) (ht : R.term = some (x, off))
    (hx : x = .next ∨ ∃ o, x = .jmp o) : resolveReady s r R = true := by
  rcases hx with rfl | ⟨o, rfl⟩ <;> simp [resolveReady, releaseWaits, hs, ht]

/-- The state in which a trace's groups are placed: its results have landed, a guarded trace with no lane failed or faulted has restored none, and
nothing drains. -/
def beforePlacing (s : State) (r : SlotRef) (R : Run) : State :=
  let R1 := { R with pends := [], lates := [] }
  drainHold (if R.hdr.guarded then restoreLanes (land s r R) r R1 0 else land s r R) r 0

@[simp] theorem stack_beforePlacing (s : State) (r : SlotRef) (R : Run) : ((beforePlacing s r R).gang r.gang).stack = (s.gang r.gang).stack := by
  rw [beforePlacing, stack_drainHold]
  split
  · rw [stack_restoreLanes, stack_land]
  · exact stack_land s r R

/-- A trace that ends with NEXT or JMP, with nothing else to settle, leaves its slot's group at the one continuation. -/
theorem resolve_of_jump {s : State} {r : SlotRef} {R : Run} {x : Term} {off : Nat} {o : Int} (h : Ends s r R x off)
    (hstack : (s.gang r.gang).stack = []) (hx : x = .next ∧ o = 1 ∨ x = .jmp o) :
    let a := pcAdd (pcAdd (s.slot r).entry off) o
    let u := beforePlacing s r R
    resolve s r = settle (u.setGang r.gang (placeGroups u.now (u.gang r.gang) r.b [(a, (s.slot r).mask, .none)] (some a) 0)) r.gang := by
  obtain ⟨hmask, hwait, hrun, hterm, ⟨hpends, hlates, hrecld⟩, ⟨hwatch, hidle, hstore⟩, ⟨hfailed, halts, hfaults, htrapi⟩, -, hrebuild⟩
    := h
  have hready := resolveReady_of_jump (s := s) (r := r) hstore hterm (hx.imp And.left (⟨_, ·⟩))
  have hback : (R.landable && returned s R) = true := by simp [Run.landable, returned, Run.groupDone, hpends, hlates, hrecld]
  unfold resolve
  simp only [hwait, hrun, hterm, hback, hready]
  -- no lane has failed, faulted or trapped, so the one group is the whole slot; its mask stays symbolic
  rcases hx with ⟨rfl, rfl⟩ | rfl <;>
    simp [-BitVec.reduceNot, -BitVec.reduceAllOnes, hterm, hfailed, halts, hfaults, Run.faulted_eq_zero, htrapi, hstore, hwatch, hidle, hrebuild,
      hstack, Term.srcs, passWait, termGroups, altGroups, live_single hmask, pushes, commit, writeLink, drained, arriveAt, beforePlacing]

theorem entry_resolve_of_jump {s : State} {r : SlotRef} {R : Run} {x : Term} {off : Nat} {o : Int} (h : Ends s r R x off)
    (hstack : (s.gang r.gang).stack = []) (hx : x = .next ∧ o = 1 ∨ x = .jmp o) :
    ((resolve s r).slot r).entry = pcAdd (pcAdd (s.slot r).entry off) o := by
  rw [resolve_of_jump h hstack hx, slot_settle_placeGroups_single ((stack_beforePlacing s r R).trans hstack) h.mask]
  rfl

/-- Settles O60: the decrement and the choice at issue are `loop_counts_down`, both targets are `entry_resolve_of_jump`, and the restoring of lanes
is `kreg_restoreLanes`. -/
theorem loopsCountDown : Obligations.LoopsCountDown := by
  unfold Obligations.LoopsCountDown
  refine ⟨fun x s R hx h => ?_, fun s r R x off h hstack => ⟨fun o hx => ?_, fun hx => ?_⟩, kreg_restoreLanes⟩
  · obtain ⟨t, R', hexec, hk, hrun, hterm⟩ := loop_counts_down (x := x) h
    exact ⟨t, R', hexec, (hk x.k hx).trans (if_pos rfl), fun i hi hne => (hk i hi).trans (if_neg hne), hrun, hterm⟩
  · exact ⟨resolve s r, rfl, entry_resolve_of_jump h hstack (.inr hx)⟩
  · exact ⟨resolve s r, rfl, entry_resolve_of_jump h hstack (.inl ⟨hx, rfl⟩)⟩

end Machine
end Sys2Proof

/-! A retiring ACCZ clears the accumulator slices in its mask and leaves every other byte and the status words (12 R268). -/

namespace Sys2Proof
namespace Machine

/-! ## Memory without a run of bytes -/

theorem read_forget (m : Memory) (k n a : Nat) :
    (forget m k n).read a = if k ≤ a ∧ a < k + n then unlisted a else m.read a := by
  have hfind : tabFind (forget m k n) a = if !(k ≤ a && a < k + n) then tabFind m a else none :=
    tabFind_filter_key m (fun x => !(k ≤ x && x < k + n)) a
  rw [Memory.read, tabGet, hfind]
  by_cases h : k ≤ a ∧ a < k + n
  · simp [h]
  · rw [if_neg h, if_pos (by rw [← Bool.decide_and, decide_eq_false h]; rfl)]
    rfl

theorem read_foldl_forget (key : Nat → Nat) (n a : Nat) (ts : List Nat) (m : Memory) :
    (ts.foldl (fun m t => forget m (key t) n) m).read a =
      if ∃ t ∈ ts, key t ≤ a ∧ a < key t + n then unlisted a else m.read a := by
  induction ts generalizing m with
  | nil => simp
  | cons t ts ih =>
    rw [List.foldl_cons, ih, read_forget]
    by_cases hhead : key t ≤ a ∧ a < key t + n <;> simp [hhead]

theorem bytesNat_replicate_zero (n : Nat) : bytesNat (List.replicate n 0) = 0 := by
  induction n with
  | zero => rfl
  | succ n ih => rw [List.replicate_succ, bytesNat, ih]; rfl

theorem readN_eq_zero {m : Memory} {k n : Nat} (h : ∀ i < n, m.read (k + i) = 0) : m.readN k n = 0 := by
  have hbytes : m.readBytes k n = List.replicate n 0 := by
    rw [Memory.readBytes, List.eq_replicate_iff]
    exact ⟨by simp, by simpa using h⟩
  rw [Memory.readN, hbytes, bytesNat_replicate_zero]

/-! ## The slices of a command (12 R253, R258) -/

/-- Elements of a slice lie one after the other, 4 bytes each. -/
theorem sliceKey_eq_add (t e : Nat) : sliceKey t e = sliceKey t 0 + 4 * e := by
  simp only [sliceKey, accKey, memKey]
  omega

/-- No accumulator byte is a macro scale byte, so an unlisted one reads as zero. -/
theorem unlisted_of_sliceKey_le {t k : Nat} (h : sliceKey t 0 ≤ k) : unlisted k = 0 := by
  have hregion : 8 ≤ keyRegion k :=
    (Nat.le_div_iff_mul_le (by decide)).2 (Nat.le_trans (Nat.le_add_right ..) h)
  exact if_neg (by omega)

theorem mem_quartersOf {qmask q : Nat} : q ∈ quartersOf qmask ↔ q < 4 ∧ bit qmask q = true := by
  simp [quartersOf]

theorem MatCmd.mem_cores {c : MatCmd} {core : Nat} :
    core ∈ c.cores ↔ core = c.core ∨ (c.tw = true ∧ core = otherCore c.core) := by
  unfold MatCmd.cores
  cases c.tw <;> simp

theorem mem_quarterTiles {cores : List Nat} {qmask t : Nat} :
    t ∈ quarterTiles cores qmask ↔ ∃ core ∈ cores, ∃ q, (q < 4 ∧ bit qmask q = true) ∧ quarterTile core q = t := by
  simp [quarterTiles, mem_quartersOf]

/-! ## What the steps of a retirement change (12 R260 to R262) -/

theorem unpoisonSlices_eq (s : State) (c : MatCmd) : ∃ p, unpoisonSlices s c = { s with poison := p } := by
  unfold unpoisonSlices
  generalize quarterTiles c.cores c.qmask = ts
  induction ts generalizing s with
  | nil => exact ⟨s.poison, rfl⟩
  | cons t ts ih =>
    rw [List.foldl_cons, State.unpoison]
    split
    · exact ih s
    · exact ih _

theorem doAccz_eq (s : State) (c : MatCmd) :
    ∃ p, doAccz s c = { s with
      poison := p, mem := (quarterTiles c.cores c.qmask).foldl (fun m t => forget m (sliceKey t 0) 32768) s.mem } := by
  obtain ⟨p, hp⟩ := unpoisonSlices_eq s c
  exact ⟨p, by rw [doAccz, hp]⟩

theorem barSet_eq (s : State) (b : BarId) (x : Barrier) : ∃ ts ls, barSet s b x = { s with teams := ts, launches := ls } := by
  cases b <;> simp only [barSet, State.updTeam, State.updLaunch] <;> split <;> exact ⟨_, _, rfl⟩

theorem barCheck_barSet_eq (s : State) (b : BarId) (x : Barrier) :
    ∃ ag ts ls, barCheck (barSet s b x) b = { s with agenda := ag, teams := ts, launches := ls } := by
  obtain ⟨ts, ls, hset⟩ := barSet_eq s b x
  simp only [hset, barCheck]
  split
  · split <;> exact ⟨_, ts, ls, rfl⟩
  · exact ⟨_, ts, ls, rfl⟩

theorem barArrive_eq (s : State) (b : BarId) (members bytes : Nat) :
    ∃ ag ts ls, barArrive s b members bytes = { s with agenda := ag, teams := ts, launches := ls } := by
  unfold barArrive
  split
  · exact ⟨_, _, _, rfl⟩
  · exact barCheck_barSet_eq ..

theorem matArrive_eq (s : State) (c : MatCmd) :
    ∃ ag ts ls, matArrive s c = { s with agenda := ag, teams := ts, launches := ls } := by
  unfold matArrive
  split
  · exact barArrive_eq ..
  · exact ⟨_, _, _, rfl⟩

theorem checkRetire_eq (s : State) (t : Nat) : ∃ ag, checkRetire s t = { s with agenda := ag } := by
  unfold checkRetire
  split <;> exact ⟨_, rfl⟩

/-- The sequence without a command that has retired, which is the last of its cores; MSYNCs are not looked at yet. -/
def offSequence (s : State) (c : MatCmd) : State :=
  let s := c.cores.foldl (fun (s : State) k => s.setCore k { s.core k with lastMma := isMma c }) s
  { s with mats := s.mats.filter (fun b => b.id != c.id) }

theorem offSequence_eq (s : State) (c : MatCmd) : ∃ cs ms, offSequence s c = { s with cores := cs, mats := ms } := by
  unfold offSequence
  generalize c.cores = ks
  induction ks generalizing s with
  | nil => exact ⟨s.cores, _, rfl⟩
  | cons k ks ih => exact ih (s.setCore k { s.core k with lastMma := isMma c })

/-- A trace with no late results has no MSYNC that could become known. -/
theorem msyncSlot_of_no_lates {s : State} {r : SlotRef} (h : ∀ R, (s.slot r).run = some R → R.lates = []) : msyncSlot s r = s := by
  unfold msyncSlot
  split
  · rfl
  · next R hR => simp [h R hR]

theorem msyncAll_of_no_lates {s : State} (h : ∀ r R, (s.slot r).run = some R → R.lates = []) : msyncAll s = s := by
  unfold msyncAll
  generalize allSlots s = rs
  induction rs with
  | nil => rfl
  | cons r rs ih => rw [List.foldl_cons, msyncSlot_of_no_lates (h r), ih]

/-! ## The retirement of an ACCZ -/

/-- An ACCZ reads no byte and writes no place, so no poison keeps it from its effect (27 R418 to R420). -/
theorem retirePoison_of_accz {s : State} {c : MatCmd} (h : c.op = .accz) : retirePoison s c = none := by
  have hsrc : srcPoison s c = none := by simp [srcPoison, srcKeys, MatCmd.srcs, h]
  have hdst : dstLost s c = none := by simp [dstLost, dstKeys, MatCmd.dsts, h]
  have hengine : engineReads c = [] := by simp [engineReads, h]
  have hany : s.poison.find? (fun p => (engineReads c).any (fun r => r.1 ≤ p && p < r.1 + r.2)) = none := by simp [hengine]
  simp only [retirePoison, hsrc, hdst, hany, ite_self]

/-- The retirement of a command other than an MMA that writes no place and that no poison keeps from its effect. -/
theorem exec_retire_writing_no_place {s : State} {c : MatCmd} (hfind : findMat s c.id = some c) (hretire : canRetire s c = true)
    (hpoison : retirePoison s c = none) (hmma : isMma c = false) (hdsts : c.dsts = []) :
    exec (.matrixCommandRetire c.id) s =
      .next (checkRetire (matArrive (msyncAll (offSequence (doMat (resample s c).1 c (resample s c).2) c)) c) c.team) := by
  change execMatrixCommandRetire c.id s = _
  simp [execMatrixCommandRetire, offSequence, hfind, hretire, hpoison, hmma, hdsts]

theorem doMat_of_accz {c : MatCmd} (h : c.op = .accz) (s : State) (bs : List Byte) : doMat s c bs = doAccz s c := by
  simp only [doMat, h]

/-- What the retirement of an ACCZ leaves while no trace waits for late results: its slices cleared, its place in the sequence free, its arrival
made. -/
def acczRetired (s : State) (c : MatCmd) : State :=
  checkRetire (matArrive (offSequence (doAccz (resample s c).1 c) c) c) c.team

theorem exec_retire_accz {s : State} {c : MatCmd} (hfind : findMat s c.id = some c) (hretire : canRetire s c = true)
    (hop : c.op = .accz) (hlates : ∀ r R, (s.slot r).run = some R → R.lates = []) :
    exec (.matrixCommandRetire c.id) s = .next (acczRetired s c) := by
  have hmsync : msyncAll (offSequence (doAccz (resample s c).1 c) c) = offSequence (doAccz (resample s c).1 c) c := by
    obtain ⟨p, hacc⟩ := doAccz_eq (resample s c).1 c
    obtain ⟨cs, ms, hoff⟩ := offSequence_eq (doAccz (resample s c).1 c) c
    refine msyncAll_of_no_lates ?_
    rw [hoff, hacc]
    exact hlates
  rw [exec_retire_writing_no_place hfind hretire (retirePoison_of_accz hop) (by simp only [isMma, hop]) (by simp only [MatCmd.dsts, hop]),
    doMat_of_accz hop, hmsync, acczRetired]

/-- Of memory and the quarters' records, the retirement of an ACCZ changes the bytes of its slices alone. -/
theorem acczRetired_mem_quarters (s : State) (c : MatCmd) :
    (acczRetired s c).mem = (quarterTiles c.cores c.qmask).foldl (fun m t => forget m (sliceKey t 0) 32768) s.mem ∧
      (acczRetired s c).quarters = s.quarters := by
  obtain ⟨p, hacc⟩ := doAccz_eq (resample s c).1 c
  obtain ⟨cs, ms, hoff⟩ := offSequence_eq (doAccz (resample s c).1 c) c
  obtain ⟨ag, ts, ls, harrive⟩ := matArrive_eq (offSequence (doAccz (resample s c).1 c) c) c
  obtain ⟨ag', hcheck⟩ := checkRetire_eq (matArrive (offSequence (doAccz (resample s c).1 c) c) c) c.team
  rw [acczRetired, hcheck, harrive, hoff, hacc]
  exact ⟨rfl, rfl⟩

/-- Settles O43: the retirement is `exec_retire_accz`, which leaves the memory of `acczRetired_mem_quarters`: the listed bytes of each slice of the
command are forgotten (`read_foldl_forget`), and accumulator bytes that are not listed read as zero. -/
theorem acczClearsItsSlices : Obligations.AcczClearsItsSlices := by
  unfold Obligations.AcczClearsItsSlices
  intro s c hfind hretire hop hlates mine
  obtain ⟨hmem, hquarters⟩ := acczRetired_mem_quarters s c
  refine ⟨_, exec_retire_accz hfind hretire hop hlates, ?_, fun u => by rw [State.quarter, hquarters, State.quarter], ?_⟩
  · intro core q e hcore hq hbit he
    refine readN_eq_zero fun i hi => ?_
    have htile : quarterTile core q ∈ quarterTiles c.cores c.qmask :=
      mem_quarterTiles.2 ⟨core, MatCmd.mem_cores.2 hcore, q, ⟨hq, hbit⟩, rfl⟩
    rw [hmem, read_foldl_forget, sliceKey_eq_add, if_pos ⟨_, htile, by omega, by omega⟩]
    exact unlisted_of_sliceKey_le (t := quarterTile core q) (by omega)
  · intro k hk
    rw [hmem, read_foldl_forget, if_neg]
    rintro ⟨t, ht, hle, hlt⟩
    obtain ⟨core, hcore, q, ⟨hq, hbit⟩, rfl⟩ := mem_quarterTiles.1 ht
    exact hk ⟨core, q, MatCmd.mem_cores.1 hcore, hq, hbit, hle, hlt⟩

end Machine
end Sys2Proof
